-- ==== Sys2Proof/Word.lean ====
section
/-! DEFINITION. The plain word types of the model: bytes, words and lists of bytes. -/

namespace Sys2Proof

/-- One byte. -/
abbrev Byte := BitVec 8

/-- A 64-bit register or address word. -/
abbrev Word := BitVec 64

/-- A run of bytes in storage order (R14). -/
abbrev Bytes := List (BitVec 8)

end Sys2Proof
end

