-- ==== Sys2Proof/Syntax.lean ====
section
/-! DEFINITION. The commands of the block: one constructor per row of spec/opcode_table.json, with the operands the
model gives the row. What the outside decides (a partner's frame, a test's outcome, a measured temperature, the bytes
a read of host memory returns) is an operand (notes/assumptions/3.md). -/

namespace Sys2Proof

/-- A physical core index, y·384 + x (R18). -/
abbrev CoreIx := Fin 129024
/-- A context slot of a core (R48). -/
abbrev SlotIx := Fin 4
/-- A queue of a core (R208). -/
abbrev QueueIx := Fin 8
/-- A huddle of a core (R216). -/
abbrev HudIx := Fin 32
/-- A field number, j·8 + i (R19); also the number of its light engine. -/
abbrev FieldIx := Fin 56
/-- A function number, port · 256 + f (R327); 512 stands for the management port (R456). -/
abbrev FnIx := Fin 513
/-- A fabric port number (R29). -/
abbrev PortIx := Fin 9
/-- A tier of an under-bank (R23). -/
abbrev TierIx := Fin 2
/-- A mesh channel number CHAN (R179). -/
abbrev ChanIx := Fin 8

/-- A port of a core's router (R206). -/
inductive MPort where
  | north | east | south | west | loc
  deriving DecidableEq, Repr, Inhabited

/-- What happens to a flit on the link it crosses: nothing; bits that flip among the 384 of its header and payload and among its three URGENT
indications (R190, R191); or a hardware fault of the sending router, which leaves a wrong OP or CHAN behind a good CRC (R182). -/
inductive LinkEv where
  | good
  | bits (mask : BitVec 384) (ind : BitVec 3)
  | opFault (x : BitVec 3)
  | chanFault (x : BitVec 3)
  deriving DecidableEq, Repr, Inhabited

/-- The page a register write of CSR_WRITE goes to: a core's CSR page (with the slot whose copy an aliased register
names), or a function's BAR0 (R10, R13, R328). -/
inductive RegPage where
  | core (c : CoreIx) (s : SlotIx)
  | bar0 (f : FnIx)
  deriving DecidableEq, Repr

/-- A unit that a rotation slice tests (R409). -/
inductive SliceUnit where
  | core (c : CoreIx)
  | sub (c : CoreIx) (t : TierIx) (sa : Fin 16)
  deriving DecidableEq, Repr

/-- The token bucket that a refill names (R266). -/
inductive BucketName where
  | injection (c : CoreIx) (cid : BitVec 10)
  | seam (c : CoreIx) (cid : BitVec 10)
  | underBank (c : CoreIx) (cid : BitVec 10)
  | egress (p : PortIx) (tag : BitVec 16)
  deriving DecidableEq, Repr

/-- What has become of the cells of one codeword by the time the patrol scrubber reads it (R167, R169): nothing new, errors in one 8-bit symbol
(its number, and the bits that differ), or errors that cannot be corrected. -/
inductive ScrubFind where
  | clean
  | corrected (sym : Fin 36) (err : BitVec 8)
  | uncorrectable
  deriving DecidableEq, Repr

/-- Cells of a core's memories that have changed by the time a command reads them (R167, R168): an 8 B word of SRAM with more errors than can be
corrected, or a 32 B codeword of the under-bank with errors in one symbol, or with more than can be corrected. -/
inductive CellErr where
  | sram (word : Fin 49152)
  | symbol (cw : Fin 786432) (sym : Fin 36) (err : BitVec 8)
  | codeword (cw : Fin 786432)
  deriving DecidableEq, Repr

/-- A core whose command reads its memories, and the cells that the reads find changed (log 3). -/
structure CoreRead where
  core : CoreIx
  cells : List CellErr
  deriving DecidableEq, Repr

/-- What a deep BIST finds: the cores that fail, and the sub-arrays whose slice fails (R392, R408). -/
structure BistFind where
  cores : List CoreIx
  subs : List (CoreIx × TierIx × Fin 16)
  deriving DecidableEq, Repr

/-- What START_BIST finds of the cores and sub-arrays, and the fields whose thermal reference, and whose engine's loopback or mesh
attachment, fails (R392, R410). -/
structure StartFind extends BistFind where
  therm : List FieldIx
  loop : List FieldIx
  deriving DecidableEq, Repr

/-- What a core has lost (R414, R419): its memory path, and with it its router. -/
structure CoreLoss where
  path : Bool
  router : Bool
  deriving DecidableEq, Repr

/-- A margin reading (R431): a core's droop in mV, a core's slack in ps, a lane's optical power in 0.01 dBm, a logic
sensor's or a tier's temperature in °C. -/
inductive Margin where
  | droop (c : CoreIx) (mv : Int)
  | slack (c : CoreIx) (ps : Nat)
  | optical (f : FieldIx) (lane : Fin 16) (cdbm : Int)
  | logicTemp (f : FieldIx) (sensor : Fin 16) (deg : Int)
  | tierTemp (c : CoreIx) (t : TierIx) (deg : Int)
  deriving DecidableEq, Repr

/-- An analogue check of a field (R410). -/
inductive ACheck where
  | rootPll | regulator | thermalRef | meshLoopback
  deriving DecidableEq, Repr

/-- What the boot ROM finds of an image (R387). -/
inductive ImageFind where
  | good | badSignature | flashError
  deriving DecidableEq, Repr

/-- What BOOT finds: of the ACTIVE image, and whether the header of the settings store passes the checks of R395. -/
structure BootFind where
  image : ImageFind
  storeOk : Bool
  deriving DecidableEq, Repr

/-- The twin's answer to LOG_OPEN (R319). -/
inductive TwinReply where
  | opened | noMemory | noUnits
  deriving DecidableEq, Repr

/-- A local cause of a retrain (R310). -/
inductive RetrainCause where
  | lets | errorRatio | lossOfSignal
  deriving DecidableEq, Repr

/-- A port that can go idle without a link (R355). -/
inductive IdlePort where
  | host0 | host1 | mgmt
  deriving DecidableEq, Repr

/-- A TAP instruction (R454). -/
inductive TapIns where
  | bypass | idcode | sample | extest | privateScan
  deriving DecidableEq, Repr, Inhabited

/-- The commands, one per row of the table, in the table's order. -/
inductive Instr where
  /-- BUNDLE_ISSUE (R52): one issue cycle of a core's sequencer. -/
  | bundleIssue (c : CoreRead)
  /-- ISSUE_ROUND_START (R56). -/
  | issueRoundStart (c : CoreIx)
  /-- TILE_LD_COMPLETE (R126). -/
  | tileLdComplete (c : CoreIx)
  /-- TILE_MAC_COMPLETE (R131). -/
  | tileMacComplete (c : CoreIx)
  /-- TILE_ST_COMPLETE (R132). -/
  | tileStComplete (c : CoreIx)
  /-- MOVER_GRANULE (R163): one granule slot of a core's mover. -/
  | moverGranule (c : CoreRead)
  /-- MOVER_DESCRIPTOR_COMPLETE (R165). -/
  | moverDescriptorComplete (c : CoreIx) (s : SlotIx)
  /-- MOVER_DESCRIPTOR_FAULT (R161). -/
  | moverDescriptorFault (c : CoreIx) (s : SlotIx)
  /-- CACHE_LINE_FILL (R149). -/
  | cacheLineFill (c : CoreRead)
  /-- TIMER_EXPIRY (R69). -/
  | timerExpiry (c : CoreIx) (s : SlotIx)
  /-- PWR_ISO_REL_WRITE (R356). -/
  | pwrIsoRelWrite (c : CoreIx) (v : BitVec 32)
  /-- CSR_WRITE (R10): a write by firmware, or by host software to its BAR0. -/
  | csrWrite (p : RegPage) (off : BitVec 24) (v : BitVec 64)
  /-- SLOT_WAKE (R62). -/
  | slotWake (c : CoreIx) (s : SlotIx)
  /-- SLOT_WAKE_RETURN (R357). -/
  | slotWakeReturn (c : CoreIx) (s : SlotIx)
  /-- SLOT_QUIESCE (R65). -/
  | slotQuiesce (c : CoreIx) (s : SlotIx)
  /-- SLOT_RESUME (R65). -/
  | slotResume (c : CoreIx) (s : SlotIx)
  /-- FLIT_FORWARD (R187): the head flit of one input buffer of a router. -/
  | flitForward (c : CoreIx) (p : MPort) (ch : ChanIx) (det : Bool) (ev : LinkEv)
  /-- MESH_WRITE (R181). -/
  | meshWrite (c : CoreIx) (ch : ChanIx)
  /-- MESH_READ (R181). -/
  | meshRead (c : CoreRead)
  /-- MESH_MSG (R210). -/
  | meshMsg (c : CoreIx) (ch : ChanIx)
  /-- MESH_SIGNAL (R225). -/
  | meshSignal (c : CoreIx)
  /-- MESH_DATA (R181). -/
  | meshData (c : CoreIx) (ch : ChanIx)
  /-- MESH_ACK (R197). -/
  | meshAck (c : CoreIx)
  /-- MESH_NOTE (R179). -/
  | meshNote (c : CoreIx)
  /-- HUDDLE_REPEAT_RELEASE (R219). -/
  | huddleRepeatRelease (c : CoreIx) (h : HudIx)
  /-- HUD_WAIT_TIMEOUT (R227). -/
  | hudWaitTimeout (c : CoreIx) (s : SlotIx)
  /-- HELD_MESSAGE_LAND (R211). -/
  | heldMessageLand (c : CoreIx) (ch : ChanIx)
  /-- QUEUE_STALL (R212). -/
  | queueStall (c : CoreIx) (ch : ChanIx)
  /-- HOLDCAP_HALT (R275). -/
  | holdcapHalt (c : CoreIx) (q : QueueIx)
  /-- LET (R190): the sender at a router's output replays; ev is the first replayed flit's crossing. -/
  | letReplay (c : CoreIx) (p : MPort) (ev : LinkEv)
  /-- LINK_RETRAIN_DONE (R192): 1 fenced, 2 half width, 3 full width. -/
  | linkRetrainDone (c : CoreIx) (p : MPort) (width : Fin 4)
  /-- DETOUR_UPDATE (R189): the entries that firmware has proved free of cycles, or none when no set passes. -/
  | detourUpdate (c : CoreIx) (entries : List (BitVec 32)) (proved : Bool)
  /-- FLIT_AGE_PROMOTION (R200). -/
  | flitAgePromotion (c : CoreIx) (p : MPort) (ch : ChanIx) (det : Bool)
  /-- ROUTER_SAMPLE (R206). -/
  | routerSample (c : CoreIx)
  /-- STALL_IDLE_ENTRY (R235). -/
  | stallIdleEntry (c : CoreIx)
  /-- STALL_IDLE_EXIT (R236). -/
  | stallIdleExit (c : CoreIx)
  /-- THROTTLE_RAMP_STEP (R236). -/
  | throttleRampStep (c : CoreIx)
  /-- NODE_FIRE (R243): an issue cycle in which the sequencer chooses a plane. -/
  | nodeFire (c : CoreRead)
  /-- STEER_FIRE (R249): steering entry u of the plane in slot storage s. -/
  | steerFire (c : CoreIx) (s : SlotIx) (u : Fin 4)
  /-- DETECTOR_WINDOW (R252). -/
  | detectorWindow (c : CoreIx) (s : SlotIx)
  /-- PROBE_RETURN (R252); lost: the circuit did not come back. -/
  | probeReturn (c : CoreIx) (s : SlotIx) (lost : Bool)
  /-- TRACE_RETURN (R253). -/
  | traceReturn (c : CoreIx) (s : SlotIx)
  /-- SPILL_ORDER (R253). -/
  | spillOrder (c : CoreIx) (q : QueueIx)
  /-- SPILL (R254). -/
  | spill (c : CoreIx) (q : QueueIx)
  /-- APPEND (R254). -/
  | append (c : CoreIx) (ch : ChanIx)
  /-- REFILL (R254). -/
  | refill (c : CoreIx) (q : QueueIx)
  /-- DEPTH_SAMPLE (R259). -/
  | depthSample (c : CoreIx) (s : SlotIx)
  /-- BUCKET_REFILL (R266). -/
  | bucketRefill (b : BucketName)
  /-- REACH_RECOMPUTE (R265). -/
  | reachRecompute (cid : BitVec 10)
  /-- REPLACE_REQUIRED_REPEAT (R265). -/
  | replaceRequiredRepeat (cid : BitVec 10)
  /-- HANG_LIMIT (R280). -/
  | hangLimit (cid : BitVec 10)
  /-- RING_CREATE (R330). -/
  | ringCreate (f : FnIx) (tag : BitVec 16)
  /-- RING_DESTROY (R330). -/
  | ringDestroy (f : FnIx) (tag : BitVec 16)
  /-- DB_CMD_TAIL_WRITE (R334): the doorbell of ring r; entries are the command entries the device reads from the
  host's ring, in order from the firmware head; none where the host's memory aborts the read. -/
  | dbCmdTailWrite (f : FnIx) (r : BitVec 8) (v : BitVec 64) (entries : Option (List Bytes))
  /-- DB_CPL_HEAD_WRITE (R335). -/
  | dbCplHeadWrite (f : FnIx) (r : BitVec 8) (v : BitVec 64)
  /-- MB_DOORBELL (R337). -/
  | mbDoorbell (f : FnIx) (v : BitVec 64)
  /-- MB_STATUS_READ (R336). -/
  | mbStatusRead (f : FnIx)
  /-- BAR0_RESERVED_WRITE (R339). -/
  | bar0ReservedWrite (f : FnIx) (off : BitVec 24)
  /-- COMMAND_COMPLETION (R333); ok: the host's memory took the entry. -/
  | commandCompletion (f : FnIx) (tag : BitVec 16) (ok : Bool)
  /-- INTERRUPT_COALESCE (R349). -/
  | interruptCoalesce (f : FnIx) (r : BitVec 8)
  /-- EVENT_POST (R350). -/
  | eventPost (f : FnIx)
  /-- CTX_CREATE (R261). -/
  | ctxCreate (f : FnIx) (tag : BitVec 16)
  /-- CTX_CONFIGURE (R270). -/
  | ctxConfigure (f : FnIx) (tag : BitVec 16) (data : Option Bytes)
  /-- CTX_RESET (R278). -/
  | ctxReset (f : FnIx) (tag : BitVec 16)
  /-- CTX_DESTROY (R279). -/
  | ctxDestroy (f : FnIx) (tag : BitVec 16)
  /-- LOAD_HOST_TO_MEMORY (R343). -/
  | loadHostToMemory (f : FnIx) (tag : BitVec 16) (data : Option Bytes)
  /-- LOAD_MEMORY_TO_HOST (R343). -/
  | loadMemoryToHost (f : FnIx) (tag : BitVec 16) (ok : Bool)
  /-- LOAD_FLOW_REGION (R241). -/
  | loadFlowRegion (f : FnIx) (tag : BitVec 16) (data : Option Bytes)
  /-- LOAD_MESSAGE (R343). -/
  | loadMessage (f : FnIx) (tag : BitVec 16) (data : Option Bytes)
  /-- LAUNCH_ALL (R341). -/
  | launchAll (f : FnIx) (tag : BitVec 16)
  /-- LAUNCH_LIST (R341). -/
  | launchList (f : FnIx) (tag : BitVec 16) (data : Option Bytes)
  /-- LAUNCH_REGION (R239). -/
  | launchRegion (f : FnIx) (tag : BitVec 16)
  /-- STEP_WAIT (R341). -/
  | stepWait (f : FnIx) (tag : BitVec 16)
  /-- STEP_WAIT_DONE (R341). -/
  | stepWaitDone (f : FnIx) (tag : BitVec 16)
  /-- CKPT_SAVE_HOST (R346). -/
  | ckptSaveHost (f : FnIx) (tag : BitVec 16) (ok : Bool)
  /-- CKPT_SAVE_FABRIC (R346). -/
  | ckptSaveFabric (f : FnIx) (tag : BitVec 16)
  /-- CKPT_RESTORE (R347). -/
  | ckptRestore (f : FnIx) (tag : BitVec 16) (data : Option Bytes)
  /-- LOG_OPEN (R319). -/
  | logOpen (f : FnIx) (tag : BitVec 16) (twin : TwinReply)
  /-- LOG_TRIM (R322). -/
  | logTrim (f : FnIx) (tag : BitVec 16)
  /-- LOG_READ (R323). -/
  | logRead (f : FnIx) (tag : BitVec 16) (ok : Bool)
  /-- LOG_CLOSE (R323). -/
  | logClose (f : FnIx) (tag : BitVec 16)
  /-- LOG_WRITE (R320): the twin's side; a logged message of the partner device arrives as a record. -/
  | logWrite (cid : BitVec 10) (queue : BitVec 32) (srcc : BitVec 32) (jobtag : BitVec 16) (time : BitVec 64) (data : Bytes)
  /-- FLOORPLAN_GET (R38). -/
  | floorplanGet (f : FnIx) (tag : BitVec 16) (ok : Bool)
  /-- FLOORPLAN_CHANGE (R45). -/
  | floorplanChange
  /-- TELEM_READ_ROUTERS (R207). -/
  | telemReadRouters (f : FnIx) (tag : BitVec 16) (ok : Bool)
  /-- TELEM_READ_PROGRESS (R281). -/
  | telemReadProgress (f : FnIx) (tag : BitVec 16) (ok : Bool)
  /-- TELEM_READ_FLOW (R260). -/
  | telemReadFlow (f : FnIx) (tag : BitVec 16) (ok : Bool)
  /-- TELEM_READ_MARGINS (R433). -/
  | telemReadMargins (f : FnIx) (tag : BitVec 16) (ok : Bool)
  /-- TELEM_READ_PORTS (R317). -/
  | telemReadPorts (f : FnIx) (tag : BitVec 16) (ok : Bool)
  /-- PWR_CAP_SET (R375). -/
  | pwrCapSet (f : FnIx) (tag : BitVec 16)
  /-- PWR_GET (R380). -/
  | pwrGet (f : FnIx) (tag : BitVec 16) (ok : Bool)
  /-- FABRIC_NEIGHBOURS (R308). -/
  | fabricNeighbours (f : FnIx) (tag : BitVec 16) (ok : Bool)
  /-- FABRIC_ASSIGN (R308). -/
  | fabricAssign (f : FnIx) (tag : BitVec 16)
  /-- FABRIC_SET_FTIMEOUT (R300). -/
  | fabricSetFtimeout (f : FnIx) (tag : BitVec 16)
  /-- FABRIC_SET_FOUL_MAX (R316). -/
  | fabricSetFoulMax (f : FnIx) (tag : BitVec 16)
  /-- FABRIC_SET_TRANSIT_SHARE (R305). -/
  | fabricSetTransitShare (f : FnIx) (tag : BitVec 16)
  /-- FABRIC_SET_TIME_MASTER (R324). -/
  | fabricSetTimeMaster (f : FnIx) (tag : BitVec 16)
  /-- FABRIC_SET_DETOURS (R303). -/
  | fabricSetDetours (f : FnIx) (tag : BitVec 16) (data : Option Bytes)
  /-- FABRIC_LINK_HOLD (R309). -/
  | fabricLinkHold (f : FnIx) (tag : BitVec 16)
  /-- FABRIC_LINK_RETRAIN (R310). -/
  | fabricLinkRetrain (f : FnIx) (tag : BitVec 16)
  /-- FABRIC_LINK_LEAVE (R313). -/
  | fabricLinkLeave (f : FnIx) (tag : BitVec 16)
  /-- FABRIC_LINK_JOIN (R313). -/
  | fabricLinkJoin (f : FnIx) (tag : BitVec 16)
  /-- FABRIC_LINK_UNQUARANTINE (R316). -/
  | fabricLinkUnquarantine (f : FnIx) (tag : BitVec 16)
  /-- FABRIC_JOBTAG (R295). -/
  | fabricJobtag (f : FnIx) (tag : BitVec 16) (data : Option Bytes)
  /-- FABRIC_MESSAGE_RECEIVE (R299): one 128 B frame arrives on an engine (R285). -/
  | fabricMessageReceive (e : FieldIx) (frame : Bytes)
  /-- FRAME_TRANSIT (R30): a frame in transit crosses to the opposite port. -/
  | frameTransit (e : FieldIx) (frame : Bytes)
  /-- FABRIC_ATTACHMENT_SEND (R297): the attachment of an anchor core takes up its next complete message. -/
  | fabricAttachmentSend (c : CoreIx)
  /-- FABRIC_TIMEOUT (R300): request number id of the device's outstanding fabric requests. -/
  | fabricTimeout (id : Nat)
  /-- CREDIT (R288): the 20 B payload. -/
  | credit (e : FieldIx) (payload : Bytes)
  /-- FABRIC_LET (R289): the 4 B payload. -/
  | fabricLet (e : FieldIx) (payload : Bytes)
  /-- FRAME_ERROR (R289): cause 1 uncorrectable codeword, 2 CRC failure, 3 FSEQ beyond the one expected; chan the
  channel of the frame concerned. -/
  | frameError (e : FieldIx) (cause : Fin 4) (chan : BitVec 3)
  /-- HOLD (R309): the 32-bit value of the payload. -/
  | hold (e : FieldIx) (value : BitVec 32)
  /-- HOLD_EXPIRY (R309). -/
  | holdExpiry (e : FieldIx) (ch : Fin 6)
  /-- FOUL (R314): the offending frame on an engine. -/
  | foul (e : FieldIx) (code : Fin 10) (frame : Bytes)
  /-- FOUL_FRAME_RECEIVE (R315). -/
  | foulFrameReceive (e : FieldIx) (payload : Bytes)
  /-- RETRAIN (R311): the 32-bit value of a RETRAIN frame (R310). -/
  | retrain (e : FieldIx) (value : BitVec 32)
  /-- RETRAIN_LOCAL_CAUSE (R310). -/
  | retrainLocalCause (e : FieldIx) (cause : RetrainCause)
  /-- RETRAIN_REQ_RESEND (R311). -/
  | retrainReqResend (e : FieldIx)
  /-- ENGINE_TRAIN_DONE (R311): the lanes good at both ends. -/
  | engineTrainDone (e : FieldIx) (lanes : BitVec 16)
  /-- ENGINE_QUALIFY_DONE (R398): whether a codeword was uncorrectable, and the lanes above the pre-FEC limit. -/
  | engineQualifyDone (e : FieldIx) (uncorrectable : Bool) (overLimit : BitVec 16)
  /-- ENGINE_SET_DRAIN_DONE (R313). -/
  | engineSetDrainDone (p : PortIx)
  /-- IDENT (R307): the 28 B payload of R306. -/
  | ident (e : FieldIx) (payload : Bytes)
  /-- IDENT_SEND (R306). -/
  | identSend (e : FieldIx)
  /-- TIME_SYNC (R324): the four stamps of one good exchange, in 1/64 ns. -/
  | timeSync (t1 t2 t3 t4 : Int)
  /-- SYNC_LOST (R324). -/
  | syncLost
  /-- DEBUG_HALT (R341). -/
  | debugHalt (f : FnIx) (tag : BitVec 16)
  /-- DEBUG_HUD_SET (R237). -/
  | debugHudSet (f : FnIx) (tag : BitVec 16)
  /-- DEBUG_READ (R341). -/
  | debugRead (f : FnIx) (tag : BitVec 16) (ok : Bool)
  /-- DEBUG_TRACE_CONFIGURE (R456). -/
  | debugTraceConfigure (f : FnIx) (tag : BitVec 16) (data : Option Bytes)
  /-- DEBUG_TRACE_ARM (R440). -/
  | debugTraceArm (f : FnIx) (tag : BitVec 16)
  /-- DEBUG_TRACE_DISARM (R440). -/
  | debugTraceDisarm (f : FnIx) (tag : BitVec 16)
  /-- DEBUG_TRACE_READ (R442). -/
  | debugTraceRead (f : FnIx) (tag : BitVec 16)
  /-- TRACE_SAMPLE (R437): an event of source src, whether it is an issue mark, and its DATA. -/
  | traceSample (f : FieldIx) (src : Fin 4) (mark : Bool) (data : Bytes)
  /-- TRACE_REARM (R440). -/
  | traceRearm (f : FieldIx)
  /-- LIFECYCLE_GET (R436). -/
  | lifecycleGet (f : FnIx) (tag : BitVec 16) (ok : Bool)
  /-- LIFECYCLE_SET (R407). -/
  | lifecycleSet (f : FnIx) (tag : BitVec 16)
  /-- RESTART_REQUEST (R403). -/
  | restartRequest (f : FnIx) (tag : BitVec 16)
  /-- LIFECYCLE_IMAGE (R387): sig, what verification of the image's digest and signature finds. -/
  | lifecycleImage (f : FnIx) (tag : BitVec 16) (data : Option Bytes) (sig : ImageFind)
  /-- LIFECYCLE_SERVICE_RETIRE (R408). -/
  | lifecycleServiceRetire (f : FnIx) (tag : BitVec 16)
  /-- LIFECYCLE_SERVICE_DEEP_BIST (R408): what it finds. -/
  | lifecycleServiceDeepBist (f : FnIx) (tag : BitVec 16) (found : BistFind)
  /-- HOST_LINK_DOWN (R327). -/
  | hostLinkDown (p : Fin 2)
  /-- HOST_LINK_UP (R327). -/
  | hostLinkUp (p : Fin 2)
  /-- FUNCTION_LEVEL_RESET (R327). -/
  | functionLevelReset (f : FnIx)
  /-- PERST_N (R447). -/
  | perstN (p : Fin 2)
  /-- HOST_PORT_IDLE (R355). -/
  | hostPortIdle (p : IdlePort)
  /-- ST_HEARTBEAT_TICK (R445). -/
  | stHeartbeatTick
  /-- ST_TIME_UPDATE (R329). -/
  | stTimeUpdate
  /-- COMMIT_WINDOW_END (R363). -/
  | commitWindowEnd (c : CoreIx)
  /-- CORE_WAKE_BY_FLIT (R359). -/
  | coreWakeByFlit (c : CoreIx)
  /-- EMPTY_CORE_BRINGUP (R360). -/
  | emptyCoreBringup (c : CoreIx)
  /-- TIER_SELF_REFRESH_ENTRY (R368). -/
  | tierSelfRefreshEntry (c : CoreIx) (t : TierIx)
  /-- TIER_WAKE (R174). -/
  | tierWake (c : CoreIx) (t : TierIx)
  /-- TIER_TEMPERATURE_CHANGE (R173): the temperature in °C. -/
  | tierTemperatureChange (c : CoreIx) (t : TierIx) (deg : BitVec 8)
  /-- FIELD_SLEEP_START (R369). -/
  | fieldSleepStart (f : FieldIx)
  /-- PREPARE (R371): answered: the core answers within 5 µs. -/
  | prepare (c : CoreIx) (answered : Bool)
  /-- FIELD_SLEEP_COMMIT (R370). -/
  | fieldSleepCommit (f : FieldIx)
  /-- FIELD_SLEEP_ABORT (R372). -/
  | fieldSleepAbort (f : FieldIx)
  /-- FIELD_WAKE (R373). -/
  | fieldWake (f : FieldIx)
  /-- BUDGET_COMPUTE (R376): the measured FIXED, the draw and the full-rate draw of the protected cores in W, and each
  field's draw in W (missing ones 0). -/
  | budgetCompute (fixedW drawW protectedW : Nat) (fieldDraw : List Nat)
  /-- THROTTLE_ADJUST (R377): the field's draw in W. -/
  | throttleAdjust (f : FieldIx) (drawW : Nat)
  /-- INPUT_LOW (R379): input in mV. -/
  | inputLow (mv : Nat)
  /-- INPUT_UNDERVOLTAGE (R379). -/
  | inputUndervoltage (mv : Nat)
  /-- INPUT_HIGH (R379). -/
  | inputHigh (mv : Nat)
  /-- INPUT_OVERVOLTAGE (R379). -/
  | inputOvervoltage (mv : Nat)
  /-- INPUT_RESTORED (R379). -/
  | inputRestored (mv : Nat)
  /-- REFERENCE_LOSS (R354). -/
  | referenceLoss
  /-- HOLDOVER_TIMEOUT (R354). -/
  | holdoverTimeout
  /-- REFERENCE_RETURN (R354). -/
  | referenceReturn
  /-- THERMAL_LIMIT (R451): inlet and outlet in tenths of °C, flow in tenths of L/min, hottest logic sensor and
  hottest tier in °C, as held for the stated time. -/
  | thermalLimit (inlet outlet : Int) (flow : Nat) (logic tier : Int)
  /-- THERMAL_SHUTDOWN (R452): hottest logic sensor and hottest tier in °C. -/
  | thermalShutdown (logic tier : Int)
  /-- THERMAL_RESTART (R452): hottest sensor in °C, inlet in tenths of °C, flow in tenths of L/min, for 60 s. -/
  | thermalRestart (hottest inlet : Int) (flow : Nat)
  /-- POWER_GOOD (R382): the input in mV, above 40 V for 100 ms. -/
  | powerGood (mv : Nat)
  /-- ROOT_PLL_LOCK (R382): whether WC BIST passes. -/
  | rootPllLock (bistOk : Bool)
  /-- BOOT (R384, R387). -/
  | boot (found : BootFind)
  /-- KICKOFF_WAVE (R390): wave k; whether its regulators report good within 5 ms. -/
  | kickoffWave (k : Fin 8) (good : Bool)
  /-- START_BIST (R392): fields whose controller fails, fields whose ROUTER_RING fails, the root-PLL lock check, and what fails of
  the cores (those fed by a failing regulator among them), in a cold start of the sub-arrays, and of each field's thermal reference and engine (R410). -/
  | startBist (fcBad ringBad : List FieldIx) (pllOk : Bool) (found : StartFind)
  /-- DRAM_TRAINING (R394): the tiers whose entry of the settings store fails a check of R395 (its CRC, the recorded identity or its age) or
  its training, the tiers that fail full training, and the (field, tier) domains that fail whole. -/
  | dramTraining (inFull : List (CoreIx × TierIx)) (failed : List (CoreIx × TierIx)) (domainBad : List (FieldIx × TierIx))
  /-- LINK_TRAINING (R396): the engines that trained and their good lanes. -/
  | linkTraining (trained : List (FieldIx × BitVec 16))
  /-- LINK_QUALIFICATION (R397): per engine, an uncorrectable codeword and the lanes above the pre-FEC limit. -/
  | linkQualification (outcome : List (FieldIx × Bool × BitVec 16))
  /-- READY_STAGE (R400): whether the life log and the settings store can be written. -/
  | readyStage (flashOk : Bool)
  /-- STAGE_TIMEOUT (R381). -/
  | stageTimeout
  /-- START_FAILURE (R401). -/
  | startFailure
  /-- START_RETRY (R402). -/
  | startRetry
  /-- WHOLE_DEVICE_RECOVERY (R404): the tiers that need full training, and whether it reaches READY within 8 s. -/
  | wholeDeviceRecovery (inFull : List (CoreIx × TierIx)) (inTime : Bool)
  /-- WC_WATCHDOG_EXPIRY (R445). -/
  | wcWatchdogExpiry
  /-- ROTATION_SLICE (R411): the unit and whether it passes. -/
  | rotationSlice (u : SliceUnit) (pass : Bool)
  /-- ANALOGUE_CHECK (R410): the field, the check, whether it passes, and the cores fed by the failing regulator. -/
  | analogueCheck (f : FieldIx) (k : ACheck) (pass : Bool) (cores : List CoreIx)
  /-- BENCH_ENGINE_LOOPBACK (R410). -/
  | benchEngineLoopback (f : FieldIx) (pass : Bool)
  /-- SUBSTITUTION (R416): the failed core and the REASON of R41. -/
  | substitution (c : CoreIx) (reason : BitVec 4)
  /-- SUBST_ENTRY_INVALIDATE (R417). -/
  | substEntryInvalidate (i : Fin 64)
  /-- LOST_CORE (R419): the failed core, the REASON, and what it has lost (R414). -/
  | lostCore (c : CoreIx) (reason : BitVec 4) (lost : CoreLoss)
  /-- BENCH_ENGINE_STAND_IN (R420): the fenced engine, and the lanes on which the stand-in trains and qualifies, none where it does not. -/
  | benchEngineStandIn (f : FieldIx) (lanes : BitVec 16)
  /-- SCRUB_CODEWORD (R169). -/
  | scrubCodeword (c : CoreIx) (t : TierIx) (found : ScrubFind)
  /-- SCRUB_OVERDUE (R169). -/
  | scrubOverdue (c : CoreIx) (t : TierIx)
  /-- BIT_LINE_REPAIR (R171): the column of a declared bit-line fault. -/
  | bitLineRepair (c : CoreIx) (t : TierIx) (sa : Fin 16) (col : Fin 9216)
  /-- ROW_REPAIR (R172). -/
  | rowRepair (c : CoreIx) (t : TierIx) (sa : Fin 16) (row : Fin 768)
  /-- SENTRY_PACKET (R424): a partner re-executes its oldest packet; delta is what a defect adds to its CRC. -/
  | sentryPacket (c : CoreIx) (delta : BitVec 32)
  /-- REFEREE_RUN (R425): the referee re-executes a mismatched packet; delta as for SENTRY_PACKET. -/
  | refereeRun (delta : BitVec 32)
  /-- VERDICT (R426): the outcome of the rotation slice run on a core suspect for the first time. -/
  | verdict (slicePass : Bool)
  /-- MARGIN_READING (R432). -/
  | marginReading (r : Margin)
  /-- DAILY_MARGIN_RECORD (R434). -/
  | dailyMarginRecord
  /-- FC_HEARTBEAT (R443). -/
  | fcHeartbeat (f : FieldIx)
  /-- FC_HANG (R443). -/
  | fcHang (f : FieldIx)
  /-- FC_RESTART (R444): whether heartbeats resume within 50 ms. -/
  | fcRestart (f : FieldIx) (resumed : Bool)
  /-- SMBUS_STATUS (R455). -/
  | smbusStatus
  /-- SMBUS_POWER (R455). -/
  | smbusPower
  /-- SMBUS_THERMAL (R455). -/
  | smbusThermal
  /-- SMBUS_RECOVER (R455): the key byte. -/
  | smbusRecover (key : BitVec 8)
  /-- SMBUS_RESET (R455): the key byte. -/
  | smbusReset (key : BitVec 8)
  /-- SMBUS_PORTS (R455). -/
  | smbusPorts (v : BitVec 8)
  /-- SMBUS_ALERT_RESPONSE (R455). -/
  | smbusAlertResponse
  /-- MGMT_DATAGRAM (R456): the sequence number, the command entry, the data, and whether the tag verifies. -/
  | mgmtDatagram (seq : BitVec 32) (entry data : Bytes) (authentic : Bool)
  /-- TAP_INSTRUCTION (R454). -/
  | tapInstruction (i : TapIns)
  /-- TILE_ZERO_COMPLETE (R130). -/
  | tileZeroComplete (c : CoreIx)
  /-- LOCAL_UNDER_BANK_ACCESS (R152). -/
  | localUnderBankAccess (c : CoreRead)
  /-- START_REFERENCE_ABSENT (R382). -/
  | startReferenceAbsent
  /-- LIGHT_SIGNAL_DETECT (R396). -/
  | lightSignalDetect (f : FieldIx)
  /-- MGMT_SIGNAL_DETECT (R355). -/
  | mgmtSignalDetect
  /-- INPUT_POWER_LOSS (R16). -/
  | inputPowerLoss
  /-- ONWARD_LINK_WAIT_EXPIRY (R303): the oldest message waiting in transit at a port. -/
  | onwardLinkWaitExpiry (p : PortIx)
  /-- SMBUS_UNACKNOWLEDGED (R455). -/
  | smbusUnacknowledged
  deriving DecidableEq, Repr

end Sys2Proof
end

