-- ==== Sys2Proof/Decode.lean ====
section
/-! DEFINITION. The command a word spells. No row of spec/opcode_table.json has bits: its match is empty for every
row, for the commands come over buses, pins and links and not as instruction words. -/

namespace Sys2Proof

/-- The command that a word of nbits bits spells by the table: none, since no row of the table has bits. -/
def decodeTableWord (nbits w : Nat) : Option Instr :=
  match nbits, w with
  | _, _ => none

end Sys2Proof
end

