-- ==== Sys2Proof/Config.lean ====
section
/-! DEFINITION. What an implementation or a single module fixes, and the free values: constants with no body, so
that nothing can be proved of them (notes/assumptions 4, 7 to 10, 16 and 35); and the module revision, which the spec gives. -/

namespace Sys2Proof.Config

/-- A value the spec leaves undefined, one per draw number (R168; log 8). -/
opaque freeValue : Nat → Nat

/-- How far, in units in the last place, an approximation result lies from the value the model computes:
the operation (0 VEXP2, 1 VRCP, 2 VRSQ) and its operand (R87; log 9). Only its remainder modulo 5 or 3 is used. -/
opaque ulpPick : Nat → BitVec 32 → Nat

/-- Where the pattern of removed cycles starts at a throttle level, or, from 16 on, at a step of the ramp (R236, R377;
log 10): the spec gives how many cycles are removed and that they are spread evenly, not where they lie. -/
opaque skipPhase : Nat → Nat

/-- Where the factory's initial designation lays the bench (R7; log 7): draw k chooses among the cores not yet drawn. -/
opaque factoryBench : Nat → Nat

/-- How many cores were found defective at manufacture, modulo 4,609 (R7; log 7). -/
opaque defectCount : Nat

/-- Which cores were found defective at manufacture (R7; log 7), drawn as for factoryBench. -/
opaque factoryDefect : Nat → Nat

/-- The tiers that a core defective at manufacture still serves, modulo 4, and whether its router forwards (R39; log 7): the spec
gives neither. -/
opaque defectMem : Nat → Nat
opaque defectRouter : Nat → Bool

/-- The ordering code of the module (R2): true TW1-AC, false TW1-A. -/
opaque orderingAC : Bool

/-- The 32 check bits of a codeword's 256 data bits (R167): the spec names the code, not its generator (log 35). -/
opaque checkBits : BitVec 256 → BitVec 32

/-- The serial number of the module (R329). -/
opaque moduleSerial : BitVec 64

/-- The module revision letter, in ASCII: A (R4). -/
def moduleRev : BitVec 8 := 0x41

/-- The microseconds of pause that firmware adds to SUSPEND_US for an action bounded but not fixed by the spec
(R140, R411, R416): the action's number and the cycle count at which it runs (log 16). -/
opaque pauseUs : Nat → Nat → Nat

end Sys2Proof.Config
end

