-- ==== Sys2Proof/Machine/State.lean ====
section
/-! DEFINITION. The state of the Terino W1 module as plain data, and its value at power-on. -/

namespace Sys2Proof.Machine

/-- A finite map from natural numbers, its keys strictly rising; what an unlisted key reads as is said where it is
read. -/
abbrev AMap (β : Type) := List (Nat × β)

/-- Sparse memory: addresses strictly rising, no zero byte listed; an unlisted address reads 0 (log 5). -/
abbrev Mem := List Host.Cell

/-- The states of a slot (R60). -/
inductive SlotSt where
  | empty | loaded | running | parked | halted | quiesced
  deriving DecidableEq, Repr, Inhabited

/-- The states of a power domain (R355). -/
inductive Dom where
  | on | ret | off
  deriving DecidableEq, Repr, Inhabited

/-! ## A core: what each slot owns -/

/-- One weight buffer (R125): its format, whether a TILE.LD has filled it, the tile's bytes (bytes beyond the list
read 0), the scale bytes of element (k, n) at 32·k + n, the scale format they are read in, and how many scale bytes were
read. -/
structure WBuf where
  fmtb : BitVec 4 := 0
  filled : Bool := false
  tile : Bytes := []
  scales : Bytes := []
  sfmt : BitVec 2 := 0
  nsc : Nat := 0
  deriving DecidableEq, Repr, Inhabited

/-- A remote signal of the slot's history (R226). -/
structure HistRec where
  target : BitVec 48 := 0
  amount : BitVec 16 := 0
  sseq : BitVec 16 := 0
  mover : Bool := false
  issue : BitVec 64 := 0
  deriving DecidableEq, Repr, Inhabited

/-- The three mover instructions (R88). -/
inductive MvKind where
  | go | flush | inval
  deriving DecidableEq, Repr, Inhabited

/-- A READ of a mover descriptor that awaits data (R163): its read ID, the plane, run and byte it serves, its length and
the data received. -/
structure MvRead where
  rid : Nat := 0
  plane : Nat := 0
  run : Nat := 0
  off : Nat := 0
  len : Nat := 0
  data : Bytes := []
  deriving DecidableEq, Repr, Inhabited

/-- A mover descriptor accepted at issue (R159), with its progress (R65, R162): the 64 bytes as read, the issue cycle,
the plane, run and byte reached, its READs, the mesh and fabric acknowledgements it awaits (`own` of the mesh ones for writes to its own
core), when its next granule can
move (in 1/301 of a cycle, R163), the bytes still to follow of a fabric message it has begun, its scoreboard entries,
whether its last granule has moved, whether it faults, and SLOT_PC at its issue (R244). -/
structure MvDesc where
  kind : MvKind := .go
  raw : Bytes := []
  issued : Nat := 0
  plane : Nat := 0
  run : Nat := 0
  done : Nat := 0
  serial : Nat := 0
  reads : List MvRead := []
  acks : Nat := 0
  facks : Nat := 0
  paceAt : Nat := 0
  fmsg : Nat := 0
  sbs : List Nat := []
  moved : Bool := false
  bad : Bool := false
  own : Nat := 0
  pc : Nat := 0
  deriving DecidableEq, Repr, Inhabited

/-- A register that an earlier bundle writes and that is not yet available (R59): the file (0 s, 1 p, 2 v), its
number, and the first cycle in which a dependent bundle can issue; none while a load is pending. -/
structure Interlock where
  file : Nat := 0
  reg : Nat := 0
  ready : Option Nat := none
  deriving DecidableEq, Repr, Inhabited

/-- A load or store of a slot that waits for memory (R152): an access of the own under-bank, a remote read by its
read ID, or a cache fill by its line; and SLOT_PC at its issue, which names the node of a plane (R244). -/
structure PendAcc where
  load : Bool := true
  rd : Nat := 0
  wa : BitVec 48 := 0
  value : BitVec 64 := 0
  rid : Option Nat := none
  line : Option Nat := none
  pc : Nat := 0
  deriving DecidableEq, Repr, Inhabited

/-- A steering entry of a plane (R247). -/
structure Steer where
  kind : BitVec 2 := 0
  qc : BitVec 3 := 0
  qa : BitVec 3 := 0
  qb : BitVec 3 := 0
  ot : BitVec 3 := 0
  off : BitVec 3 := 0
  deriving DecidableEq, Repr, Inhabited

/-- A record of a backstop ring (R255). -/
structure RingRec where
  chunks : List (BitVec 256) := []
  token : Bool := false
  rseq : BitVec 16 := 0
  src : Nat := 0
  time : BitVec 64 := 0
  deriving DecidableEq, Repr, Inhabited

/-- The backstop side of one queue of a plane (R254): whether the queue is in backstop state, whether a spill runs,
the ring's records oldest first, its tail and occupancy in bytes, the next record number, the largest occupancy. -/
structure BackRing where
  active : Bool := false
  spilling : Bool := false
  recs : List RingRec := []
  tail : Nat := 0
  occ : Nat := 0
  rseq : BitVec 16 := 0
  maxOcc : Nat := 0
  deriving DecidableEq, Repr, Inhabited

/-- The detector of a region at its home core (R252): waiting for the window, circuit 1 or 2 out, or the trace out. -/
inductive DetPhase where
  | window | probe1 | probe2 | trace
  deriving DecidableEq, Repr, Inhabited

/-- What a circuit or the trace of the detector has found so far (R252, R253): the cores visited, the cycle of the next visit or step, whether every core was
quiet, the stuck queues by core and number; the queues the trace has recorded, where it stands or arrives next (the queue none until it has arrived), and the cycle it has found. -/
structure Probe where
  visited : Nat := 0
  next : Nat := 0
  quiet : Bool := true
  stuck : List (Nat × Nat) := []
  path : List (Nat × Nat) := []
  cur : Option (Nat × Option Nat) := none
  loop : List (Nat × Nat) := []
  deriving DecidableEq, Repr, Inhabited

/-- A spill order on its way (R253): its core, the region, the queue, the number of the detection, and the cycle of its arrival. -/
structure SpillOrder where
  core : Nat := 0
  region : Nat := 0
  queue : Nat := 0
  detection : Nat := 0
  at_ : Nat := 0
  deriving DecidableEq, Repr, Inhabited

/-- A configuration plane in a slot's storage (R239 to R260), with the messages that steering units have fired and that have not entered the router yet, by unit, as binding and
chunks (R250); at a region's home core also the detector: its phase and the cycle in which that began, its circuit or trace, the detections, and a spill order on its way. -/
structure Plane where
  region : Nat := 0
  rect : Nat × Nat × Nat × Nat := (0, 0, 0, 0)
  nodes : List (BitVec 128) := []
  ptr : Nat := 0
  window : Nat := 4096
  speriod : Nat := 0
  bsSize : Nat := 0
  bsBase : Nat := 0
  steer : List Steer := []
  rings : AMap BackRing := []
  active : Bool := false
  phase : DetPhase := .window
  since : Nat := 0
  detection : Nat := 0
  probe : Probe := {}
  order : Option SpillOrder := none
  steerAt : AMap Nat := []
  steerOut : AMap (Nat × List (BitVec 256)) := []
  samples : Nat := 0
  spills : Nat := 0
  fires : BitVec 64 := 0
  steerFires : BitVec 64 := 0
  hist : AMap Nat := []
  lastSample : Nat := 0
  deriving DecidableEq, Repr, Inhabited

/-- The architectural registers of a slot (R48, R49, R84, R120). -/
structure SlotArch where
  s : Vector (BitVec 64) 32 := .replicate 32 0
  p : BitVec 8 := 1
  v : Vector (BitVec 1024) 32 := .replicate 32 0
  gen : Vector (BitVec 64) 32 := .replicate 32 0
  sd : Vector (BitVec 64) 8 := .replicate 8 0
  wbuf : Vector WBuf 2 := .replicate 2 {}
  seen : Vector (BitVec 8) 32 := .replicate 32 0
  deriving DecidableEq, Repr, Inhabited

/-- The counters of the SLOT block (R68). -/
structure SlotCnt where
  issue : BitVec 64 := 0
  spare : BitVec 64 := 0
  blkq : BitVec 64 := 0
  blkh : BitVec 64 := 0
  blks : BitVec 64 := 0
  blko : BitVec 64 := 0
  blkp : BitVec 64 := 0
  deriving DecidableEq, Repr, Inhabited

/-- The control registers of the SLOT block (R68, R142). -/
structure SlotCtl where
  st : SlotSt := .empty
  ready : Bool := false
  block : BitVec 4 := 10
  cid : BitVec 10 := 0
  weight : BitVec 5 := 0
  accBase : BitVec 3 := 0
  accRows : BitVec 4 := 0
  subn : Bool := false
  dbg : Bool := false
  wakeEn : BitVec 3 := 0
  pc : BitVec 19 := 0
  wakeCause : BitVec 6 := 0
  timer : BitVec 32 := 0
  cause : BitVec 6 := 0
  imprecise : Bool := false
  more : Bool := false
  faultPc : BitVec 19 := 0
  faultAddr : BitVec 48 := 0
  pendHuddle : Bool := false
  pendTimer : Bool := false
  pendDebug : Bool := false
  stepCount : BitVec 32 := 0
  stepTag : BitVec 16 := 0
  stepTime : BitVec 64 := 0
  win : Vector (BitVec 64) 8 := .replicate 8 0
  deriving DecidableEq, Repr, Inhabited

/-- The aliased QUEUE, PWR and sentry registers of a slot (R228, R374, R430), with the sentry's counts (R422). -/
structure SlotAlias where
  hlimit : BitVec 32 := 0
  hstat : BitVec 6 := 0
  hsseq : BitVec 16 := 0
  sp : Vector (BitVec 64) 8 := .replicate 8 0
  depth : BitVec 2 := 1
  wakeSel : BitVec 3 := 0
  frac : BitVec 3 := 0
  partner : BitVec 17 := 0
  sampled : BitVec 64 := 0
  mismatch : BitVec 64 := 0
  deferred : BitVec 64 := 0
  lost : BitVec 64 := 0
  reexec : BitVec 64 := 0
  nMat : Nat := 0
  nVec : Nat := 0
  deferMat : Bool := false
  deferVec : Bool := false
  deriving DecidableEq, Repr, Inhabited

/-- What a slot has under way: fetch (R58), interlocks (R59), accesses (R152, R181), stores not yet visible (R85),
mover descriptors (R162), fence list (R150), signal history (R226), the tick in which a HUD.WAIT began to block and
whether its limit has expired (R227), a timer that has reached zero and the tick of its
last expiry (R69), the wake in progress with the sources that caused it, and the quiesce (R62, R65), whether the wake follows an aborted field
sleep (R372), the huddle addresses that zero-length descriptors have still to signal (R160), the signals still to be sent again (R226), and the last hardware
events at register bits that software clears, as the cycle, the value before it and the value of the event alone (R11): 0 HUDDLE, 1 TIMER and 2 DEBUG
of SLOT_WAKE_PEND, 3 SLOT_WAKE_CAUSE, 4 Q_HSTAT. -/
structure SlotRun where
  fbuf : List (Nat × BitVec 128) := []
  fetchAt : Nat := 0
  locks : List Interlock := []
  accs : List PendAcc := []
  rids : List Nat := []
  acks : Nat := 0
  facks : Nat := 0
  localMsgs : Nat := 0
  descs : List MvDesc := []
  serial : Nat := 0
  fence : List Nat := []
  fenceCls : Nat := 0
  hist : List HistRec := []
  hwSince : Option Nat := none
  tmo : Bool := false
  wakeAt : Option Nat := none
  due : Bool := false
  expTick : Option Nat := none
  held : Option SlotSt := none
  heldFault : Bool := false
  aborted : Bool := false
  wakeSrc : BitVec 4 := 0
  sigs : List Nat := []
  resend : List HistRec := []
  sets : AMap (Nat × Nat × Nat) := []
  deriving DecidableEq, Repr, Inhabited

/-- One context slot (R48, R49, R60). -/
structure Slot where
  ctl : SlotCtl := {}
  arch : SlotArch := {}
  cnt : SlotCnt := {}
  ali : SlotAlias := {}
  run : SlotRun := {}
  plane : Option Plane := none
  deriving DecidableEq, Repr, Inhabited

/-! ## A core: what its slots share -/

/-- One accumulator row (R103): its type, its 32 main words and its 32 low words. -/
structure AccRow where
  isInt : Bool := false
  main : BitVec 1024 := 0
  low : BitVec 1024 := 0
  deriving DecidableEq, Repr, Inhabited

/-- A tile operation in flight: what TILE.LD, TILE.MAC, TILE.ST and TILE.ZERO still have to do (R126 to R132). A TILE.ST holds its output with the bytes
of one row and the bytes written or sent so far, its destination in scratchpad or else the binding of its send port, and the message that the S part of its
bundle sends through that port after it (R92). -/
inductive TileWork where
  | ld (wbuf : Nat) (buf : WBuf)
  | mac (wbuf : Nat) (buf : WBuf) (fmta : BitVec 4) (sfmt : BitVec 2) (acc rows : Nat) (exact pair clr ovf subn : Bool)
      (stream scales : Bytes)
  | st (rows rowLen : Nat) (bytes : Bytes) (done : Nat) (dest : Option Nat) (binding : BitVec 64)
      (after : List (List (BitVec 256)))
  | zero (acc rows : Nat)
  deriving DecidableEq, Repr, Inhabited

/-- A tile operation with its slot, the last cycle of its occupancy and the cycle of its completion (R130, R131), its
scoreboard entry, whether sentry samples it, with the size of its packet, its step (R423) and its occupancy O (R128), and SLOT_PC at its issue (R244). -/
structure TileOp where
  slot : Nat := 0
  work : TileWork := .zero 0 0
  busyTo : Nat := 0
  doneAt : Nat := 0
  sb : Option Nat := none
  sample : Bool := false
  psize : Nat := 0
  step : BitVec 32 := 0
  occ : Nat := 0
  pc : Nat := 0
  deriving DecidableEq, Repr, Inhabited

/-- The matrix engine (R128 to R131). -/
structure Engine where
  ops : List TileOp := []
  busyTo : Option Nat := none
  loadTo : Option Nat := none
  last : Option (Nat × Nat) := none
  deriving DecidableEq, Repr, Inhabited

/-- A scoreboard entry (R153): space (0 scratchpad, 1 under-bank), first and last byte, whether it is a write, the
slot, and the last cycle in which it is held (none: until its owner frees it). -/
structure SbEntry where
  id : Nat := 0
  space : Nat := 0
  lo : Nat := 0
  hi : Nat := 0
  write : Bool := false
  slot : Nat := 0
  upTo : Option Nat := none
  deriving DecidableEq, Repr, Inhabited

/-- A cache line (R148): its line number WA[47:7], its 128 bytes, whether it is dirty, when it was last used, the
context and slot whose store last made it dirty (R150), and which of its 8 B words are poisoned (R168). -/
structure Line where
  tag : Nat := 0
  data : BitVec 1024 := 0
  dirty : Bool := false
  used : Nat := 0
  cid : BitVec 10 := 0
  slot : Nat := 0
  poison : BitVec 16 := 0
  deriving DecidableEq, Repr, Inhabited

/-- A line being fetched for a miss (R149): the flits of data received so far, the cycle of the request, or, once all
data of a remote line has come, of its arrival, its poisoned
words, the slot that asked, and the read ID of a remote line. -/
structure Fill where
  tag : Nat := 0
  data : BitVec 1024 := 0
  got : Nat := 0
  issued : Nat := 0
  poison : BitVec 16 := 0
  slot : Nat := 0
  rid : Option Nat := none
  deriving DecidableEq, Repr, Inhabited

/-- A message in a queue (R208): its chunks, whether it is a token, the cycle and time of its landing, its sender. -/
structure QMsg where
  chunks : List (BitVec 256) := []
  token : Bool := false
  landed : Nat := 0
  src : Nat := 0
  time : BitVec 64 := 0
  deriving DecidableEq, Repr, Inhabited

/-- A queue with its binding (R208, R228), and the first cycle in which a held message can land (R211). -/
structure Queue where
  msgs : List QMsg := []
  slot : BitVec 2 := 0
  valid : Bool := false
  port : BitVec 3 := 0
  thresh : BitVec 6 := 32
  freed : Nat := 0
  deriving DecidableEq, Repr, Inhabited

/-- An entry of a huddle's ledger (R225): the identity and the time of application. -/
structure LedgerRec where
  sseq : BitVec 16 := 0
  origin : BitVec 17 := 0
  slot : BitVec 2 := 0
  time : BitVec 64 := 0
  deriving DecidableEq, Repr, Inhabited

/-- What reaches a huddle in one cycle (R222): the cycle, the huddle's values before it, the debugger's write, the arm (target and mode), the amounts of the local
and of the remote signals, the units that a semaphore's HUD.WAIT took, and whether the cycle set the wake bits. -/
structure HudCyc where
  at_ : Nat := 0
  count : BitVec 24 := 0
  target : BitVec 24 := 0
  mode : BitVec 2 := 0
  state : BitVec 2 := 0
  phase : BitVec 8 := 0
  sat : Bool := false
  passAt : Nat := 0
  releasedAt : Option Nat := none
  write : Option (BitVec 24) := none
  armed : Option (BitVec 24 × BitVec 2) := none
  locals : Nat := 0
  remotes : Nat := 0
  taken : Nat := 0
  woke : Bool := false
  deriving DecidableEq, Repr, Inhabited

/-- A huddle (R216, R225, R229): mode 0 barrier, 1 semaphore, 2 event; state 0 IDLE, 1 ARMED, 2 RELEASED; the first
cycle in which a wait that its last change lets pass can issue (R54); the cycle of its last release, the cycle in which UNSURE was last set, and what has reached
it in the last cycle that something did. -/
structure Huddle where
  owner : Option (BitVec 10) := none
  count : BitVec 24 := 0
  target : BitVec 24 := 0
  mode : BitVec 2 := 0
  state : BitVec 2 := 0
  phase : BitVec 8 := 0
  sat : Bool := false
  unsure : Bool := false
  ledger : List LedgerRec := []
  floor : BitVec 64 := 0
  passAt : Nat := 0
  releasedAt : Option Nat := none
  unsureAt : Option Nat := none
  cyc : Option HudCyc := none
  deriving DecidableEq, Repr, Inhabited

/-- Why a message travels, which its hardware must know to account for its answer (the model's own field, log 15); pc is SLOT_PC at the issue of
the access (R244). -/
inductive Why where
  | store (slot pc : Nat)
  | mover (slot serial : Nat)
  | line (slots : List Nat) (desc : Option (Nat × Nat))
  | fabric (slot serial : Nat)
  | host (fn : Nat) (tag : Nat)
  | mcast (serial : Nat)
  | inbound (request : Nat)
  | turn
  | copy
  | none
  deriving DecidableEq, Repr, Inhabited

/-- A flit (R177, R178) with fields of the model's own: the wafer address its request named, flits of its message still to come, why it travels, the cycle
in which it came to the front of its buffer, whether it is promoted (R200), the branches that have taken it (R194),
what is left of a sidestep (R188), the router that awaits a multicast copy's ACK (R197), the offsets of the poisoned codewords or words that its data
touches (R168), whether it comes from an attachment (R202), whether it is marked for the input log (R319), and what its buckets must have been paid before it is injected (R266). Of its copy in a replay buffer: whether a purge
has reached it (R205), the cycle in which its acknowledgement arrives, once the receiver has accepted it (R190), and its detour channel and sidestep before
the hop. -/
structure Flit where
  src : Nat := 0
  cid : BitVec 10 := 0
  chan : Nat := 0
  hseq : BitVec 5 := 0
  op : BitVec 3 := 0
  tag : BitVec 8 := 0
  head : Bool := true
  tail : Bool := true
  token : Bool := false
  err : Bool := false
  det : Bool := false
  fw : Bool := false
  target : BitVec 60 := 0
  mc : Bool := false
  pay : BitVec 256 := 0
  wa : BitVec 48 := 0
  rest : Nat := 0
  why : Why := .none
  front : Nat := 0
  promoted : Bool := false
  took : List Nat := []
  sidestep : Option (Nat × Nat) := none
  ret : Option Nat := none
  bad : List Nat := []
  attach : Bool := false
  purged : Bool := false
  marked : Bool := false
  due : List (Nat × Nat) := []
  ackAt : Option Nat := none
  prior : Bool × Option (Nat × Nat) := (false, none)
  deriving DecidableEq, Repr, Inhabited

/-- An output port of a router (R190, R192, R198): next HSEQ, replay buffer, lets in a row for its oldest flit, held,
the first cycle of its next transfer slot; of the round of 16 grants how many it has made, what is left of each channel's turns, the channel granted last and
whether the last BULK flit was firmware's; the input last granted per channel, and per virtual channel the message in progress (input buffer + 4096 · CID).
The replay buffer also shows the flits of a message whose tail the receiver has not accepted. -/
structure OutPort where
  seq : BitVec 5 := 0
  replay : List Flit := []
  lets : Nat := 0
  held : Bool := false
  freeAt : Nat := 0
  round : Nat := 0
  turns : AMap Nat := []
  lastChan : Nat := 4
  lastFw : Bool := false
  lastIn : AMap Nat := []
  busyIn : AMap Nat := []
  deriving DecidableEq, Repr, Inhabited

/-- An input port of a router (R190). -/
structure InPort where
  expect : BitVec 5 := 0
  discard : Bool := false
  deriving DecidableEq, Repr, Inhabited

/-- A detour entry (R189): the blocked output, the side to step to, and LEN. -/
structure Detour where
  out : MPort := .north
  side : MPort := .east
  len : Nat := 1
  deriving DecidableEq, Repr, Inhabited

/-- ACKs of a multicast still awaited at a router (R197), and how many of the message's buffers at the router hold copies that are still to leave. -/
structure Agg where
  serial : Nat := 0
  src : Nat := 0
  tag : BitVec 8 := 0
  cid : BitVec 10 := 0
  up : Option Nat := none
  waiting : Nat := 0
  parts : Nat := 1
  err : Bool := false
  deriving DecidableEq, Repr, Inhabited

/-- The router of a core (R183 to R206). Buffers are keyed port·16 + channel·2 + VC; local outputs by channel;
counters by the codes of Machine/Router.lean. Further: the first cycle in which the local port takes a flit from the core or the attachment, and of every 16 transfers
for which both ask how many have gone, in each direction (R202); and the input buffers whose message goes on behind what a fenced link gave back, with that
buffer and the fenced output (R192). -/
structure Router where
  bufs : AMap (List Flit) := []
  outs : AMap OutPort := []
  ins : AMap InPort := []
  lo : AMap (List Flit) := []
  heldSince : AMap Nat := []
  detours : List Detour := []
  groups : AMap (BitVec 60) := []
  urgQ : List Flit := []
  lastUrg : Option Nat := none
  aggs : List Agg := []
  mcSerial : Nat := 0
  localAt : Nat := 0
  shareIn : Nat := 0
  shareOut : Nat := 0
  rejoin : AMap (Nat × Nat) := []
  cnt : AMap (BitVec 64) := []
  deriving DecidableEq, Repr, Inhabited

/-- The sequencer (R52, R56), and in the same form the mover's sharing of granule slots (R163). -/
structure Wrr where
  credit : Vector Nat 4 := .replicate 4 0
  left : Nat := 0
  sharePtr : Nat := 3
  sparePtr : Nat := 3
  deriving DecidableEq, Repr, Inhabited

/-- A transfer between a queue and its backstop ring, in the order the transfers arise (R254): 0 spill, 1 append,
2 refill; the bytes still to move. -/
structure Xfer where
  kind : Nat := 0
  queue : Nat := 0
  slot : Nat := 0
  left : Nat := 0
  started : Nat := 0
  paceAt : Nat := 0
  msg : Option QMsg := none
  deriving DecidableEq, Repr, Inhabited

/-- An access of the own under-bank that waits at its controller (R152): the slot, the offset, the value stored. -/
structure UbAcc where
  slot : Nat := 0
  off : Nat := 0
  store : Option (BitVec 64) := none
  rd : Nat := 0
  issued : Nat := 0
  deriving DecidableEq, Repr, Inhabited

/-- The PWR block and power state of a core (R355 to R374), at power-on all OFF: `busyAt` is the last cycle in which neither R358 nor R360
held (R369), `fsWake` whether its next wake leaves a field sleep (R357). -/
structure Pwr where
  logic : Dom := .off
  banks : Vector Dom 6 := .replicate 6 .off
  bankctl : Dom := .off
  gated : Bool := false
  sr : Vector Bool 2 := .replicate 2 false
  iso : BitVec 8 := 0xFF
  lending : Bool := false
  fsleep : Bool := false
  level : Nat := 0
  retmask : BitVec 6 := 0
  voteCl : BitVec 32 := 0
  voteBk : BitVec 32 := 0
  edepth : BitVec 2 := 3
  lendDis : Bool := false
  nofs : Bool := false
  fwVoteCl : Bool := false
  fwVoteBk : Bool := false
  cntDrop : BitVec 64 := 0
  cntBounce : BitVec 64 := 0
  cntEdgelost : BitVec 64 := 0
  cntRefuse : BitVec 64 := 0
  park : Option Nat := none
  edges : List (Nat × Nat) := []
  stall : Bool := false
  waitSince : Option Nat := none
  ramp : Option (Nat × Nat) := none
  stopped : Bool := false
  busyAt : Nat := 0
  fsWake : Bool := false
  lastReq : Vector Nat 2 := .replicate 2 0
  flitWake : Option Nat := none
  deriving DecidableEq, Repr, Inhabited

/-- Corrected errors of the scrubber's current pass in one sub-array (R170): row, column, whether 1 was read. -/
structure ScrubErr where
  tier : Nat := 0
  sub : Nat := 0
  row : Nat := 0
  col : Nat := 0
  readOne : Bool := false
  deriving DecidableEq, Repr, Inhabited

/-- The upkeep of one core's under-bank (R166 to R173): the next codeword and the start of the pass of each tier,
errors of the pass, repairs in force, distinct cell faults per row, temperatures and doubled refresh, and the last pass over each
sub-array, keyed tier · 16 + sub-array (R412), and the bit-line faults declared and not repaired yet, as (tier, sub-array, column) (R170); of each tier's entry in the
settings store the temperature recorded, none without an entry, and whether the tier was trained in full since (R394, R395); and the columns, as (tier, sub-array,
column), at which this pass has read a 1 in a row beyond an error (R170). -/
structure UbCare where
  pos : Vector Nat 2 := .replicate 2 0
  passStart : Vector Nat 2 := .replicate 2 0
  overdue : Vector Bool 2 := .replicate 2 false
  errs : List ScrubErr := []
  cells : List (Nat × Nat × Nat × Nat) := []
  cols : List (Nat × Nat × Nat) := []
  rows : List (Nat × Nat × Nat) := []
  temp : Vector (BitVec 8) 2 := .replicate 2 0
  hot : Vector Bool 2 := .replicate 2 false
  trained : Vector Bool 2 := .replicate 2 false
  subPass : AMap (BitVec 64) := []
  declared : List (Nat × Nat × Nat) := []
  saved : Vector (Option (BitVec 8)) 2 := .replicate 2 none
  fresh : Vector Bool 2 := .replicate 2 false
  refuted : List (Nat × Nat × Nat) := []
  deriving DecidableEq, Repr, Inhabited

/-- The MEM block's stored registers (R175). -/
structure MemBlk where
  cbanks : Nat := 0
  resident : BitVec 6 := 0
  hit : BitVec 64 := 0
  miss : BitVec 64 := 0
  wb : BitVec 64 := 0
  eccCorr : BitVec 64 := 0
  eccUncorr : BitVec 64 := 0
  deriving DecidableEq, Repr, Inhabited

/-- A sentry packet (R423): origin, slot, kind (0 matrix, 1 vector), the origin's CRC, the CRC that the captured inputs
give, the step in which the operation was sampled, and the array cycles O that a matrix operation takes (R424). -/
structure SenPkt where
  origin : Nat := 0
  slot : Nat := 0
  cid : BitVec 10 := 0
  kind : Nat := 0
  crc : BitVec 32 := 0
  expect : BitVec 32 := 0
  step : BitVec 32 := 0
  partner : Nat := 0
  size : Nat := 0
  occ : Nat := 0
  deriving DecidableEq, Repr, Inhabited

/-- A fabric message being gathered at an anchor's attachment, per source core and slot (R297), or per ingress anchor for a turning
message (R298). -/
structure Gather where
  src : Nat := 0
  slot : Nat := 0
  chan : Nat := 0
  hdr : Bytes := []
  tag : BitVec 16 := 0
  cid : BitVec 10 := 0
  data : Bytes := []
  serial : Nat := 0
  op : Nat := 0
  err : Bool := false
  own : Bool := true
  vc : Option Nat := none
  deriving DecidableEq, Repr, Inhabited

/-- What the sequencer decides at the start of a cycle (R54): the cycle, the blocking cause of each slot, and of each plane the nodes that are
fireable. -/
structure CycleStart where
  at_ : Nat := 0
  blocks : List Nat := []
  nodes : List (List Nat) := []
  deriving DecidableEq, Repr, Inhabited

/-- One core with its router, under-bank and, at an anchor core, the attachment with the messages that wait to enter its router
(R48, R297), the codewords of its under-bank with one symbol in error, by number, with the symbol and the bits that differ (R167), what remote requests have written
into its scratchpad in this cycle (R155), and the decisions of the sequencer for the cycle; `ident` is CORE_ID as firmware has written it; for sentry the first suspect verdict of the last 24 h (R426) and its last run as a referee (R425). -/
structure Core where
  lindex : Option Nat := none
  ready4 : BitVec 4 := 0
  cycles : BitVec 64 := 0
  skipped : BitVec 64 := 0
  idle : BitVec 64 := 0
  slots : Vector Slot 4 := .replicate 4 {}
  seq : Wrr := {}
  lastIssue : Option Nat := none
  eng : Engine := {}
  acc : AMap AccRow := []
  mover : Wrr := {}
  moverAt : Option (Nat × Nat) := none
  xfers : List Xfer := []
  sb : List SbEntry := []
  sbNext : Nat := 0
  ubq : List UbAcc := []
  ubWait : List (Flit × List Flit) := []
  ubLeft : AMap Nat := []
  ubLast : Nat := 0
  sram : Mem := []
  ub : Mem := []
  poisonS : List Nat := []
  poisonU : List Nat := []
  soft : AMap (Nat × BitVec 8) := []
  remote : List (Nat × Bytes) := []
  lines : List Line := []
  fills : List Fill := []
  mem : MemBlk := {}
  queues : Vector Queue 8 := .replicate 8 {}
  huddles : Vector Huddle 32 := .replicate 32 {}
  hudDup : BitVec 32 := 0
  hudUnsure : BitVec 32 := 0
  pwr : Pwr := {}
  care : UbCare := {}
  router : Router := {}
  gathers : List Gather := []
  attach : List (List Flit) := []
  packets : List SenPkt := []
  prep : List (SenPkt × Nat) := []
  holdDue : List Nat := []
  suspect : Option Nat := none
  refereeAt : Option Nat := none
  testRegs : AMap (BitVec 64) := []
  lowSlack : Nat := 0
  lastSlack : Option Nat := none
  lastPass : BitVec 64 := 0
  start : Option CycleStart := none
  ident : Option (BitVec 23) := none
  deriving DecidableEq, Repr, Inhabited

/-! ## The wafer -/

/-- A core entry of the floor plan (R39): 0 enabled, 1 bench, 2 fenced, 3 substituted. -/
structure FpCore where
  state : Nat := 0
  mem : Nat := 0
  routerOk : Bool := true
  alt : Nat := 0
  reason : BitVec 4 := 0
  deriving DecidableEq, Repr, Inhabited

/-- An entry of the wafer substitution table (R44, R416); of a substitution under way the slots that it has quiesced and will resume, and its REASON (R416). -/
structure Subst where
  orig : Nat := 0
  stand : Nat := 0
  valid : Bool := false
  holding : Bool := false
  live : List Nat := []
  reason : Nat := 0
  deriving DecidableEq, Repr, Inhabited

/-- The floor plan and the wafer-wide tables (R38 to R47, R199). Links are keyed core·2 (E) and core·2 + 1 (S), with
width 1 fenced, 2 half, 3 full; an unlisted link is full (log 7). `changed` says that a core or link entry differs from the last
generation, `shown` holds the header's and the fields' entries as that generation had them (R45). -/
structure Wafer where
  fp : AMap FpCore := []
  links : AMap Nat := []
  gen : BitVec 64 := 0
  genTime : BitVec 64 := 0
  changed : Bool := false
  shown : Option (List Nat) := none
  subst : Vector Subst 64 := .replicate 64 {}
  weights : List Nat := [3, 4, 4, 2, 3]
  newDetours : AMap (List Detour) := []
  deriving DecidableEq, Repr, Inhabited

/-! ## Contexts -/

/-- The states of a context (R262). -/
inductive CtxSt where
  | created | admitted | resetting | destroying
  deriving DecidableEq, Repr, Inhabited

/-- A slot entry of a configuration block with its windows (R342 types 1 and 2). -/
structure CtxSlot where
  core : Nat := 0
  slot : Nat := 0
  weight : Nat := 0
  accRows : Nat := 0
  cbanks : Nat := 0
  qmask : BitVec 8 := 0
  resMask : BitVec 8 := 0
  hmask : BitVec 32 := 0
  win : Vector (BitVec 64) 8 := .replicate 8 0
  deriving DecidableEq, Repr, Inhabited

/-- A reservation entry (R342 type 3). -/
structure Resv where
  resource : Nat := 0
  dir : Nat := 0
  inst : Nat := 0
  units : Nat := 0
  prop : Nat := 0
  deriving DecidableEq, Repr, Inhabited

/-- The deadline section (R342 type 4, R272), with the values of a block that has none. -/
structure Deadline where
  dclass : Nat := 0
  pct : Nat := 0
  progress : Nat := 0
  holdcap : Bool := false
  sentry : Nat := 0
  dl : Nat := 0
  hang : Nat := 2000
  c : Nat := 0
  u : Nat := 0
  sbytes : Nat := 0
  pb : Nat := 0
  lp : Nat := 0
  deriving DecidableEq, Repr, Inhabited

/-- A job-table entry (R295). -/
structure JobTag where
  tag : BitVec 16 := 0
  cid : BitVec 10 := 0
  x0 : Nat := 0
  y0 : Nat := 0
  x1 : Nat := 0
  y1 : Nat := 0
  offLo : Nat := 0
  offHi : Nat := 0
  shift : Nat := 12
  access : BitVec 8 := 0
  wr : Bool := false
  qmask : BitVec 8 := 0
  revoked : Bool := false
  deriving DecidableEq, Repr, Inhabited

/-- The counters of a progress record (R281). -/
structure Progress where
  steps : BitVec 32 := 0
  last : BitVec 64 := 0
  issued : BitVec 64 := 0
  heldTime : BitVec 64 := 0
  tokenWait : BitVec 64 := 0
  hangs : BitVec 32 := 0
  holdHalts : BitVec 32 := 0
  suspendUs : BitVec 32 := 0
  resets : BitVec 32 := 0
  dlMisses : BitVec 32 := 0
  deriving DecidableEq, Repr, Inhabited

/-- A context (R261 to R281): the clock of R280 in cycles, the segments whose reach a substitution added and whether
its rates are lowered (R265), the event repeated every 10 s, a CTX_DESTROY held during a reset (R262), and its input log: the next LSEQ, the ring's size and the
numbers and sizes of the records kept (R319 to R322). -/
structure Ctx where
  st : CtxSt := .created
  owner : Nat := 0
  dbg : Bool := false
  slots : List CtxSlot := []
  resv : List Resv := []
  dead : Deadline := {}
  groups : AMap (BitVec 60) := []
  tags : List (BitVec 16) := []
  prog : Progress := {}
  clock : Nat := 0
  lastStep : BitVec 64 := 0
  requests : List (BitVec 64) := []
  overSegs : List Nat := []
  lowered : Bool := false
  replaceAt : Option Nat := none
  firstCause : BitVec 6 := 0
  heldDestroy : Option (Nat × Nat) := none
  logOpen : Bool := false
  logPolicy : Nat := 0
  logNext : BitVec 64 := 0
  logSize : Nat := 0
  logKept : List (Nat × Nat) := []
  unlogged : Nat := 0
  unloggedAt : Option (BitVec 64) := none
  deriving DecidableEq, Repr, Inhabited

/-- A token bucket (R266): tokens held, units per refill period, the cycle of the last refill; what an access larger than the bucket has begun without, which the next
refills pay first, and all that was ever charged. -/
structure Bucket where
  tokens : Nat := 0
  rate : Nat := 0
  at_ : Nat := 0
  owed : Nat := 0
  charged : Nat := 0
  deriving DecidableEq, Repr, Inhabited

/-! ## Host interface -/

/-- A completion or event entry before it is laid out (R333, R350). -/
structure Cpl where
  tag : BitVec 16 := 0
  status : BitVec 16 := 0
  event : Bool := false
  res0 : BitVec 64 := 0
  res1 : BitVec 128 := 0
  deriving DecidableEq, Repr, Inhabited

/-- A command ring with its completion ring (R330, R331, R349). -/
structure Ring where
  cmdBase : Nat := 0
  cplBase : Nat := 0
  n : Nat := 4
  vector : Nat := 0
  icount : Nat := 0
  itime : Nat := 0
  events : Bool := false
  head : Nat := 0
  tail : Nat := 0
  cplTail : Nat := 0
  pass : Nat := 0
  cplHead : Nat := 0
  kept : List Cpl := []
  oldest : Option Nat := none
  pendingInt : Nat := 0
  deriving DecidableEq, Repr, Inhabited

/-- Where a command came from (R332, R336, R456). -/
inductive Via where
  | ring (r : Nat)
  | mailbox
  | mgmt (seq : BitVec 32)
  deriving DecidableEq, Repr, Inhabited

/-- A command in progress (R332, R334): its entry, its arrival, whether it still waits on its ring, whether it has started
without a result yet and since which cycle, the data of a management datagram, and its result once its own row has run. -/
structure Cmd where
  fn : Nat := 0
  tag : Nat := 0
  via : Via := .mailbox
  opcode : Nat := 0
  cid : Nat := 0
  flags : BitVec 16 := 0
  addr : Nat := 0
  len : Nat := 0
  arg : Bytes := []
  stamp : BitVec 64 := 0
  order : Nat := 0
  waiting : Bool := false
  started : Bool := false
  since : Nat := 0
  data : Bytes := []
  result : Option Cpl := none
  out : Bytes := []
  deriving DecidableEq, Repr, Inhabited

/-- A PCIe function (R327 to R351), with the cycles in which DONE and VIOL were last set (R11): MSI-X vector control bits by vector (unlisted: masked, log 19) and pending bits. -/
structure Fn where
  rings : AMap Ring := []
  mbCmd : Vector (BitVec 64) 8 := .replicate 8 0
  mbCpl : BitVec 256 := 0
  busy : Bool := false
  done : Bool := false
  viol : Bool := false
  intr : Bool := false
  msix : AMap (BitVec 64) := []
  pba : List Nat := []
  raised : List Cpl := []
  kept : List Cpl := []
  lostEvents : Nat := 0
  viols : Nat := 0
  readValue : BitVec 64 := 0
  doneAt : Option Nat := none
  violAt : Option Nat := none
  deriving DecidableEq, Repr, Inhabited

/-- The host side (R326 to R351). Host memory is what the device has written of it; interrupts are the vectors raised,
newest first. -/
structure HostIf where
  fns : AMap Fn := []
  cmds : List Cmd := []
  nextOrder : Nat := 0
  portUp : Vector Bool 2 := .replicate 2 false
  mem : Mem := []
  interrupts : List (Nat × Nat) := []
  stTime : BitVec 64 := 0
  mgmtUp : Bool := false
  mgmtOut : List Bytes := []
  mgmtBad : Nat := 0
  mgmtSeen : Bool := false
  smbusOut : Bytes := []
  smbusNack : Nat := 0
  tapIns : TapIns := .idcode
  host0 : Dom := .off
  host1 : Dom := .off
  mgmt : Dom := .off
  deriving DecidableEq, Repr, Inhabited

/-! ## Fabric -/

/-- The states of an engine (R311), with `idle` for one whose LIGHT domain is not on or that has no partner yet. -/
inductive EngSt where
  | idle | active | asking | leading | following | drain | train | qualify | down
  deriving DecidableEq, Repr, Inhabited

/-- A fabric message being received on a channel and VC of an engine (R287): header, data, frames held, whether it is discarded, and
the engine and VC it leaves on while it is in transit. -/
structure RxMsg where
  op : Nat := 0
  tag : Nat := 0
  err : Bool := false
  chan : Nat := 0
  vc : Nat := 0
  hdr : Bytes := []
  data : Bytes := []
  n : Nat := 0
  drop : Bool := false
  via : Option (Nat × Nat) := none
  deriving DecidableEq, Repr, Inhabited

/-- A frame that waits to leave an engine (R285, R305): its stream (0 firmware's, a job tag of this device, or 65,536 + the engine on which a message in transit came), the
cycle from which it may go (R304), and the engine and pool of the buffer that it holds until it goes. -/
structure TxFrame where
  src : Nat := 0
  f : Bytes := []
  ready : Nat := 0
  free : Option (Nat × Nat) := none
  deriving DecidableEq, Repr, Inhabited

/-- A light engine (R282 to R313). Holds are keyed by channel with the cycle at which they end; credit pools count in
the order of R288. `what` is the WHAT of the request under way and `unmet` that of a withdrawn request (0 none); `probation` is the cycle
in which 10^13 bits have passed since a retrain (R398). Frames sent stand newest first on the wire; `cwUsed` of them in codeword period `cwAt` (R284). `again` holds frames to be sent again, `opened` the stream of the message under
way on a channel and VC, and `served` the frame slots that the streams of a round have had (R305). -/
structure LightEng where
  st : EngSt := .idle
  fenced : Bool := false
  standsFor : Option Nat := none
  lanes : BitVec 16 := 0
  rnum : BitVec 8 := 0
  what : Nat := 0
  peerLanes : BitVec 16 := 0
  reqs : Nat := 0
  reqAt : Nat := 0
  leader : Bool := false
  unmet : Nat := 0
  txSeq : BitVec 12 := 0
  rxSeq : BitVec 12 := 0
  replay : List Bytes := []
  letRun : Nat := 0
  letSeq : BitVec 12 := 0
  discard : Bool := false
  holds : AMap Nat := []
  granted : List Nat := [256, 256, 512, 512, 512, 512, 2048, 2048, 64, 64]
  sent : List Nat := [0, 0, 0, 0, 0, 0, 0, 0, 0, 0]
  freed : List Nat := [0, 0, 0, 0, 0, 0, 0, 0, 0, 0]
  queue : List TxFrame := []
  wire : List Bytes := []
  again : List Bytes := []
  opened : AMap Nat := []
  served : AMap Nat := []
  cwAt : Nat := 0
  cwUsed : Nat := 0
  rx : AMap RxMsg := []
  rxAny : Bool := false
  outLets : Nat := 0
  recvd : List Nat := [0, 0, 0, 0, 0, 0, 0, 0, 0, 0]
  ident : Option Bytes := none
  peerSeen : Bool := false
  identAt : Nat := 0
  miscabled : Bool := false
  mismatch : Bool := false
  probation : Option Nat := none
  saved : Bool := false
  deriving DecidableEq, Repr, Inhabited

/-- A message waiting in transit at a port for a failed onward link (R303). -/
structure TransitMsg where
  msg : RxMsg := {}
  eng : Nat := 0
  since : Nat := 0
  deriving DecidableEq, Repr, Inhabited

/-- A fabric port (R29, R282, R303, R305, R316, R317). Counters are keyed by their offset in the record of R317. -/
structure FPort where
  active : BitVec 8 := 0
  pendingSet : Option (BitVec 8) := none
  quarantined : Bool := false
  detours : AMap (Nat × Nat) := []
  share : Nat := 8000
  fouls : List Nat := []
  lastFoul : Option Nat := none
  waiting : List TransitMsg := []
  cnt : AMap (BitVec 64) := []
  deriving DecidableEq, Repr, Inhabited

/-- A fabric request of this device that awaits its answer (R300). -/
structure FReq where
  id : Nat := 0
  core : Nat := 0
  slot : Nat := 0
  serial : Nat := 0
  read : Bool := false
  lin : Nat := 0
  start : Nat := 0
  rid : Nat := 0
  deriving DecidableEq, Repr, Inhabited

/-- An inbound request that has become mesh traffic and whose fabric response is owed (R299, R320), or a LOAD of a message by the host
(R343), with the order of its command. -/
structure InReq where
  id : Nat := 0
  eng : Nat := 0
  hdr : Bytes := []
  tag : BitVec 16 := 0
  read : Bool := false
  need : Nat := 0
  got : Nat := 0
  data : Bytes := []
  meshDone : Bool := false
  logDone : Bool := true
  err : Bool := false
  anchor : Nat := 0
  host : Option Nat := none
  lseq : Option Nat := none
  deriving DecidableEq, Repr, Inhabited

/-- A log record kept on the twin (R321). -/
structure LogRec where
  lseq : BitVec 64 := 0
  time : BitVec 64 := 0
  cid : BitVec 10 := 0
  mlen : Nat := 0
  queue : BitVec 32 := 0
  srcc : BitVec 32 := 0
  jobtag : BitVec 16 := 0
  data : Bytes := []
  deriving DecidableEq, Repr, Inhabited

/-- An input log that this device keeps as the twin (R319 to R323). -/
structure TwinLog where
  size : Nat := 0
  policy : Nat := 0
  next : BitVec 64 := 0
  recs : List LogRec := []
  deriving DecidableEq, Repr, Inhabited

/-- The optical fabric (R282 to R325). -/
structure Fabric where
  coord : BitVec 25 := 0
  sizes : BitVec 24 := 0
  assigned : Bool := false
  ftimeout : Nat := 10
  foulMax : Nat := 64
  engs : Vector LightEng 56 := .replicate 56 {}
  ports : Vector FPort 9 := .replicate 9 {}
  jobs : List JobTag := []
  reqs : List FReq := []
  reqNext : Nat := 0
  ins : List InReq := []
  inNext : Nat := 0
  twin : AMap TwinLog := []
  heldIn : List (Nat × RxMsg) := []
  deriving DecidableEq, Repr, Inhabited

/-! ## Power, fields, start, life log -/

/-- The states of a trace unit (R440). -/
inductive TraceSt where
  | idle | filling | armed | post | rearm
  deriving DecidableEq, Repr, Inhabited

/-- A trigger condition (R439, R441). -/
structure TrigCond where
  src : Nat := 0
  count : Nat := 0
  value : BitVec 64 := 0
  mask : BitVec 64 := 0
  hits : Nat := 0
  missed : BitVec 32 := 0
  deriving DecidableEq, Repr, Inhabited

/-- A sample (R438). -/
structure TSample where
  time : BitVec 64 := 0
  cc : Nat := 0
  src : Nat := 0
  trig : BitVec 8 := 0
  flags : BitVec 8 := 0
  data : Bytes := []
  deriving DecidableEq, Repr, Inhabited

/-- An event of a trace source that waits to be stored (R437): its time and cycle, its source, whether it is an issue mark, whether events were dropped before it, its DATA. -/
structure TEvent where
  time : BitVec 64 := 0
  cc : Nat := 0
  src : Nat := 0
  mark : Bool := false
  after : Bool := false
  data : Bytes := []
  deriving DecidableEq, Repr, Inhabited

/-- A kept capture (R442). -/
structure Capture where
  number : Nat := 0
  mask : BitVec 8 := 0
  preReq : Nat := 0
  preGot : Nat := 0
  time : BitVec 64 := 0
  missed : List (BitVec 32) := []
  dropped : BitVec 32 := 0
  samples : List TSample := []
  deriving DecidableEq, Repr, Inhabited

/-- The trace unit of a field (R437 to R442): `lastCc` is the cycle after that in which the last sample is stored, `since` the cycle in which
the capture's copying began; captures newest first; events that wait to be stored, oldest first. -/
structure Trace where
  src : List (BitVec 32) := [0, 0, 0, 0]
  pre : Nat := 0
  auto : Bool := false
  conds : List TrigCond := []
  st : TraceSt := .idle
  samples : List TSample := []
  postLeft : Nat := 0
  number : Nat := 0
  mask : BitVec 8 := 0
  preGot : Nat := 0
  time : BitVec 64 := 0
  dropped : BitVec 32 := 0
  dropMark : Bool := false
  lastCc : Nat := 0
  since : Nat := 0
  caps : List Capture := []
  waiting : List TEvent := []
  deriving DecidableEq, Repr, Inhabited

/-- Where a field sleep stands (R370). -/
inductive SleepSt where
  | awake | preparing | committed
  deriving DecidableEq, Repr, Inhabited

/-- A margin reading (R431): its cycle, its kind (0 droop, 1 slack, 2 logic temperature, 3 tier temperature, 4 optical
power), its value, and the core or lane. -/
structure Reading where
  at_ : Nat := 0
  kind : Nat := 0
  value : Int := 0
  unit_ : Nat := 0
  deriving DecidableEq, Repr, Inhabited

/-- Lowest readings over a span of time (R434); none while nothing has been read. -/
structure Lows where
  droop : Option Int := none
  slack : Option Int := none
  opt : Option Int := none
  deriving DecidableEq, Repr, Inhabited

/-- The margins of a field (R431 to R436): the readings of the last hour, the count of negative droops, the lowest readings of the
day that runs, of the last completed day and of the life, the last reading of each logic sensor, and the ticks spent in each temperature
bin up to the cycle binAt. -/
structure Margins where
  readings : List Reading := []
  droopNeg : BitVec 32 := 0
  day : Lows := {}
  last : Lows := {}
  life : Lows := {}
  temps : AMap Int := []
  bins : List Nat := [0, 0, 0, 0, 0, 0, 0, 0]
  binAt : Nat := 0
  deriving DecidableEq, Repr, Inhabited

/-- A field and its controller (R355, R369 to R377, R410 to R412, R443). -/
structure FieldCtl where
  ring : Dom := .off
  light : Dom := .off
  tiers : Vector Dom 2 := .replicate 2 .off
  fcFenced : Bool := false
  fcHung : Bool := false
  lastBeat : Nat := 0
  hangs : List Nat := []
  sleep : SleepSt := .awake
  prepared : Nat := 0
  answers : AMap Nat := []
  abortAt : Option Nat := none
  budget : Nat := 0
  draw : Nat := 0
  lent : Nat := 0
  loan : Nat := 0
  throttling : Bool := false
  cut : Bool := false
  sensorBad : Bool := false
  margins : Margins := {}
  slicesRun : BitVec 64 := 0
  slicesFailed : BitVec 64 := 0
  colRepairs : BitVec 32 := 0
  rowRepairs : BitVec 32 := 0
  owed : List (Nat × Nat) := []
  trace : Trace := {}
  deriving DecidableEq, Repr, Inhabited

/-- The factory power cap of an ordering code in W (R2). -/
def factoryCap (ac : Bool) : Nat := if ac then 24000 else 36000

/-- The module's power (R375 to R380, R451): limits in W, none while not in force; the condition flags of PWR_GET. -/
structure Power where
  cap : Nat := factoryCap Config.orderingAC
  fixed : Nat := 0
  prot : Nat := 0
  draw : Nat := 0
  vin : Nat := 0
  inputLow : Bool := false
  inputHigh : Bool := false
  inletLim : Option Nat := none
  hotLim : Option Nat := none
  hotInlet : Bool := false
  flowLim : Option Nat := none
  therm : Bool := false
  inlet : Int := 0
  outlet : Int := 0
  flow : Nat := 0
  logicT : Int := 0
  tierT : Int := 0
  capReached : Bool := false
  protThrottled : Bool := false
  budgetAt : Nat := 0
  deriving DecidableEq, Repr, Inhabited

/-- A firmware image slot (R386 to R388). -/
structure Image where
  present : Bool := false
  step : BitVec 16 := 0
  version : BitVec 32 := 0
  rollback : BitVec 32 := 0
  signed : Bool := false
  confirmed : Bool := false
  deriving DecidableEq, Repr, Inhabited

/-- A life-log record (R435). -/
structure LifeRec where
  time : BitVec 64 := 0
  type : BitVec 16 := 0
  field : BitVec 16 := 0xFFFF
  cid : BitVec 16 := 0xFFFF
  detail : Bytes := []
  deriving DecidableEq, Repr, Inhabited

/-- The lifecycle states (R406). -/
inductive Life where
  | manufacture | provisioned | field | service | retired
  deriving DecidableEq, Repr, Inhabited

/-- The life log (R434 to R436); records newest first; counters keyed by their offset in the image of R436; the device coordinate and
sizes of the last assignment (R396). -/
structure LifeLog where
  place : Option (BitVec 25 × BitVec 24) := none
  recs : List LifeRec := []
  overwritten : Nat := 0
  cnt : AMap Nat := []
  deriving DecidableEq, Repr, Inhabited

/-- Start, images, pins and non-volatile settings (R381 to R408, R445, R453). Stage 0 is before input power is good;
9 is READY, 10 minimal mode. `failed` is the REASON of a failure not yet recorded, `failedAt` the cycle in which one was
recorded; `held` a WC that failed its BIST, `noImage` a boot ROM that waits for an image, `relabel` the cores that start BIST or training
failed, `wear` those of them with a sub-array that no spare could repair (R413), `durs` the stages' durations in ms. Non-volatile contents at power-on are the model's choice (log 4). -/
structure Boot where
  stage : Nat := 0
  since : Nat := 0
  wave : Nat := 0
  cold : Bool := true
  failed : Option Nat := none
  failedAt : Option Nat := none
  held : Bool := false
  off : Bool := false
  ready : Bool := false
  fault : Bool := false
  therm : Bool := false
  alert : Bool := false
  minimal : Bool := false
  running : Nat := 0
  fails : Nat := 0
  failStage : Nat := 0
  failReason : BitVec 16 := 0
  life : Life := .manufacture
  imgA : Image := { present := true, step := 0x3141, signed := true, confirmed := true }
  imgB : Image := {}
  activeB : Bool := false
  loaded : Image := {}
  rollback : BitVec 32 := 0
  settingsOk : Bool := false
  heartbeat : BitVec 64 := 0
  beatAt : Nat := 0
  relabel : List Nat := []
  wear : List Nat := []
  recovering : Bool := false
  ac : Bool := Config.orderingAC
  starts : Nat := 0
  dayAt : Nat := 0
  noImage : Bool := false
  refFault : Bool := false
  hotOff : Bool := false
  failField : Nat := 0xFFFF
  durs : AMap Nat := []
  deriving DecidableEq, Repr, Inhabited

/-- A sentry mismatch on its way to a verdict (R425, R426). -/
structure Mismatch where
  pkt : SenPkt := {}
  partnerCrc : BitVec 32 := 0
  referee : Option Nat := none
  refereeCrc : Option (BitVec 32) := none
  deriving DecidableEq, Repr, Inhabited

/-- The clocks (R16, R324, R325, R354). -/
structure Clock where
  cc : Nat := 0
  tclk : BitVec 64 := 0
  locked : Bool := false
  refPresent : Bool := true
  holdover : Option Nat := none
  holdoverOut : Bool := false
  synced : Bool := false
  stepped : Bool := false
  lastGood : Nat := 0
  syncLost : Bool := false
  slew : Int := 0
  ticks : Nat := 0
  master : BitVec 25 := 0
  deriving DecidableEq, Repr, Inhabited

/-- Everything in the module but the queue of commands. -/
structure Mach where
  clk : Clock := {}
  cores : AMap Core := []
  wafer : Wafer := {}
  ctxs : AMap Ctx := []
  buckets : AMap Bucket := []
  host : HostIf := {}
  fabric : Fabric := {}
  power : Power := {}
  fields : Vector FieldCtl 56 := .replicate 56 {}
  boot : Boot := {}
  log : LifeLog := {}
  mismatches : List Mismatch := []
  free : Nat := 0
  deriving DecidableEq, Repr, Inhabited

/-- The state: the commands that wait, first in first out, and the module. -/
structure State where
  pending : List Instr
  m : Mach
  deriving DecidableEq, Repr

/-- Reasons for which the model could stop with a fault. No meaning of this model raises one: every fault of the spec
is a state of the module (a halted slot, a status, a pin), and a command whose event cannot arise changes nothing. -/
inductive Fault where
  /-- Raised by nothing; kept so that the type is inhabited. Safe. -/
  | unreachable
  deriving DecidableEq, Repr

/-- Reasons for which the model gives a command no meaning. -/
inductive Refusal where
  /-- Raised by an arm of exec whose row has no meaning yet. Safe. -/
  | notModelled (mnemonic : String)
  deriving DecidableEq, Repr

/-- The module at power-on, before its input power is good (R382): every domain OFF, nothing placed, no command
waiting. -/
def State.reset : State := { pending := [], m := {} }

end Sys2Proof.Machine
end

