-- ==== Sys2Proof/Machine/Ops.lean ====
section
/-! DEFINITION. The named operations over the module's data: maps, memory, cores, slots, fields, the floor plan,
events, life-log records, free values and slot faults. -/

namespace Sys2Proof.Machine

open Sys2Proof

/-! ## Vectors, lists and maps -/

/-- Element i of a vector. -/
def vget {α : Type} [Inhabited α] {n : Nat} (v : Vector α n) (i : Nat) : α := v[i]?.getD default

/-- A vector with element i replaced; unchanged where there is no such element. -/
def vset {α : Type} {n : Nat} (v : Vector α n) (i : Nat) (x : α) : Vector α n := v.setIfInBounds i x

/-- Element i of a list. -/
def lget {α : Type} [Inhabited α] (l : List α) (i : Nat) : α := l.getD i default

/-- What a map holds at k. -/
def aget {β : Type} : AMap β → Nat → Option β
  | [], _ => none
  | (k', v) :: r, k => if k' = k then some v else aget r k

/-- What a map holds at k, or d. -/
def agetD {β : Type} (m : AMap β) (k : Nat) (d : β) : β := (aget m k).getD d

/-- A map with k holding v. -/
def aset {β : Type} : AMap β → Nat → β → AMap β
  | [], k, v => [(k, v)]
  | (k', v') :: r, k, v =>
    if k < k' then (k, v) :: (k', v') :: r else if k = k' then (k, v) :: r else (k', v') :: aset r k v

/-- A map without k. -/
def adel {β : Type} (m : AMap β) (k : Nat) : AMap β := m.filter fun e => e.1 != k

/-- Every value of a map changed by f, keys unchanged. -/
def amap {β γ : Type} (m : AMap β) (f : Nat → β → γ) : AMap γ := m.map fun e => (e.1, f e.1 e.2)

/-- One more in a map of counts. -/
def bump (m : AMap (BitVec 64)) (k : Nat) (n : Nat := 1) : AMap (BitVec 64) :=
  aset m k (agetD m k 0 + BitVec.ofNat 64 n)

/-- The same over plain numbers. -/
def nbump (m : AMap Nat) (k : Nat) (n : Nat := 1) : AMap Nat := aset m k (agetD m k 0 + n)

/-! ## Bits and bytes (R14) -/

/-- Bits [lo + w − 1 : lo] of a number. -/
def fld (v lo w : Nat) : Nat := v / 2 ^ lo % 2 ^ w

/-- Bit i of a number. -/
def bitOf (v i : Nat) : Bool := v / 2 ^ i % 2 == 1

/-- One or zero. -/
def b2n (b : Bool) : Nat := if b then 1 else 0

/-- Read bits [lo + w − 1 : lo] as a two's-complement number. -/
def sfld (v lo w : Nat) : Int :=
  let x := fld v lo w
  if 2 * x < 2 ^ w then (x : Int) else (x : Int) - (2 ^ w : Nat)

/-- The low n bytes of a number, little-endian. -/
def toBytes : Nat → Nat → Bytes
  | 0, _ => []
  | n + 1, v => BitVec.ofNat 8 v :: toBytes n (v / 256)

/-- The number that bytes hold, little-endian. -/
def ofBytes : Bytes → Nat
  | [] => 0
  | b :: r => b.toNat + 256 * ofBytes r

/-- The n-byte number at offset o of a record. -/
def le (b : Bytes) (o n : Nat) : Nat := ofBytes ((b.drop o).take n)

/-- Bytes cut or filled with zeros to length n. -/
def padTo (b : Bytes) (n : Nat) : Bytes := (b ++ List.replicate (n - b.length) 0).take n

/-- A number modulo 2^n written as a two's-complement field. -/
def ofInt (n : Nat) (i : Int) : Nat := (i % (2 ^ n : Nat)).toNat

/-- One byte more into the CRC-32 of R285, reflected: eight bits, least significant first. -/
def crcBits : Nat → Nat → Nat
  | 0, c => c
  | n + 1, c => crcBits n (if c % 2 = 1 then Nat.xor (c / 2) 0xEDB88320 else c / 2)

/-- The CRC-32 of IEEE 802.3 (R285, R423). -/
def crc32 (b : Bytes) : Nat := Nat.xor (b.foldl (fun c x => crcBits 8 (Nat.xor c x.toNat)) 0xFFFFFFFF) 0xFFFFFFFF

/-! ## Sparse memory (log 5) -/

/-- The byte at an address; 0 where none is listed. -/
def memByte (m : Mem) (a : Nat) : Byte := (aget m a).getD 0

/-- A memory with one byte written; a zero is not listed. -/
def memPut (m : Mem) (a : Nat) (b : Byte) : Mem := if b = 0 then adel m a else aset m a b

/-- n bytes from an address. -/
def memRead (m : Mem) (a n : Nat) : Bytes := (List.range n).map fun i => memByte m (a + i)

/-- Bytes written from an address on. -/
def memWrite (m : Mem) (a : Nat) : Bytes → Mem
  | [] => m
  | b :: r => memWrite (memPut m a b) (a + 1) r

/-- n bytes from an address on set to zero. -/
def memClear (m : Mem) (lo n : Nat) : Mem := m.filter fun c => !(lo ≤ c.1 && c.1 < lo + n)

/-- A memory in its canonical form: built from its cells, the first of an address winning. -/
def memCanon (m : Mem) : Mem := m.foldr (fun c acc => memPut acc c.1 c.2) []

/-- Addresses strictly rising from a bound, no zero byte listed. -/
def memSorted : Option Nat → Mem → Bool
  | _, [] => true
  | lo, (a, b) :: r => (match lo with | none => true | some l => l < a) && b != 0 && memSorted (some a) r

/-- The canonical form of a memory: addresses strictly rising and no byte equal to what an unlisted address reads. -/
def Memory.wf (m : Mem) : Bool := memSorted none m

/-! ## Cores, slots, fields, contexts, functions -/

/-- A physical core. -/
def Mach.core (m : Mach) (c : Nat) : Core := (aget m.cores c).getD {}

def Mach.setCore (m : Mach) (c : Nat) (k : Core) : Mach := { m with cores := aset m.cores c k }

def Mach.onCore (m : Mach) (c : Nat) (f : Core → Core) : Mach := m.setCore c (f (m.core c))

/-- A slot of a core. -/
def Core.slot (k : Core) (s : Nat) : Slot := vget k.slots s

def Core.setSlot (k : Core) (s : Nat) (v : Slot) : Core := { k with slots := vset k.slots s v }

def Core.onSlot (k : Core) (s : Nat) (f : Slot → Slot) : Core := k.setSlot s (f (k.slot s))

def Mach.onSlot (m : Mach) (c s : Nat) (f : Slot → Slot) : Mach := m.onCore c fun k => k.onSlot s f

/-- Every core of a list changed. -/
def Mach.onCores (m : Mach) (cs : List Nat) (f : Nat → Core → Core) : Mach :=
  cs.foldl (fun m c => m.onCore c (f c)) m

/-- Every listed core changed. -/
def Mach.mapCores (m : Mach) (f : Nat → Core → Core) : Mach := { m with cores := amap m.cores f }

def Mach.field (m : Mach) (f : Nat) : FieldCtl := vget m.fields f

def Mach.onField (m : Mach) (f : Nat) (g : FieldCtl → FieldCtl) : Mach :=
  { m with fields := vset m.fields f (g (m.field f)) }

def Mach.ctx (m : Mach) (cid : Nat) : Option Ctx := aget m.ctxs cid

def Mach.setCtx (m : Mach) (cid : Nat) (x : Ctx) : Mach := { m with ctxs := aset m.ctxs cid x }

def Mach.onCtx (m : Mach) (cid : Nat) (f : Ctx → Ctx) : Mach :=
  match m.ctx cid with
  | some x => m.setCtx cid (f x)
  | none => m

def Mach.fn (m : Mach) (f : Nat) : Fn := (aget m.host.fns f).getD {}

def Mach.setFn (m : Mach) (f : Nat) (x : Fn) : Mach := { m with host := { m.host with fns := aset m.host.fns f x } }

def Mach.onFn (m : Mach) (f : Nat) (g : Fn → Fn) : Mach := m.setFn f (g (m.fn f))

def Mach.eng (m : Mach) (e : Nat) : LightEng := vget m.fabric.engs e

def Mach.onEng (m : Mach) (e : Nat) (g : LightEng → LightEng) : Mach :=
  { m with fabric := { m.fabric with engs := vset m.fabric.engs e (g (m.eng e)) } }

def Mach.port (m : Mach) (p : Nat) : FPort := vget m.fabric.ports p

def Mach.onPort (m : Mach) (p : Nat) (g : FPort → FPort) : Mach :=
  { m with fabric := { m.fabric with ports := vset m.fabric.ports p (g (m.port p)) } }

def Core.queue (k : Core) (q : Nat) : Queue := vget k.queues q

def Core.onQueue (k : Core) (q : Nat) (f : Queue → Queue) : Core := { k with queues := vset k.queues q (f (k.queue q)) }

def Core.huddle (k : Core) (h : Nat) : Huddle := vget k.huddles h

def Core.onHuddle (k : Core) (h : Nat) (f : Huddle → Huddle) : Core :=
  { k with huddles := vset k.huddles h (f (k.huddle h)) }

/-- A free value (log 8): the next draw, and the module with the draw counted. -/
def Mach.draw (m : Mach) : Nat × Mach := (Config.freeValue m.free, { m with free := m.free + 1 })

/-- The CCLK cycle (R15). -/
def Mach.cc (m : Mach) : Nat := m.clk.cc

/-- The TCLK timestamp (R16). -/
def Mach.now (m : Mach) : BitVec 64 := m.clk.tclk

/-- Cycles in a number of microseconds (R15). -/
def usCc (us : Nat) : Nat := 1200 * us

/-- Whether n cycles have passed since a cycle. -/
def Mach.past (m : Mach) (since n : Nat) : Bool := since + n ≤ m.clk.cc

/-! ## Coordinates (R18, R19) and the roles of fields (R27 to R30) -/

/-- The number of cores. -/
def nCores : Nat := 129024

/-- Every core, by rising index. -/
@[irreducible]
def allCores : List Nat := List.range nCores

/-- The best of a list of candidates: the first, unless a later one is better (better a b is the better of the two). -/
def pickBest (better : Nat → Nat → Nat) : List Nat → Option Nat
  | [] => none
  | a :: l => some (l.foldl better a)

def coreX (c : Nat) : Nat := c % 384

def coreY (c : Nat) : Nat := c / 384

def coreAt (x y : Nat) : Nat := y * 384 + x

/-- The field number of a core (R19). -/
def fieldOf (c : Nat) : Nat := coreY c / 48 * 8 + coreX c / 48

/-- The cores of a field. -/
def fieldCores (f : Nat) : List Nat :=
  (List.range 2304).map fun i => coreAt (f % 8 * 48 + i % 48) (f / 8 * 48 + i / 48)

/-- Whether a core is one of its field's 16 anchor cores (R26). -/
def isAnchor (c : Nat) : Bool :=
  22 ≤ coreX c % 48 && coreX c % 48 ≤ 25 && 22 ≤ coreY c % 48 && coreY c % 48 ≤ 25

/-- The anchor cores of a field in index order. -/
def anchorsOf (f : Nat) : List Nat := (fieldCores f).filter isAnchor

/-- ROLE of a field: 0 X, 1 Y, 2 Z, 3 W band, 4 pair, 5 bench (R27). -/
def roleOf (f : Nat) : Nat :=
  let i := f % 8
  let j := f / 8
  if j < 3 then (if i < 4 then 2 else 3)
  else if j = 3 then (if 2 ≤ i && i ≤ 5 then 4 else 5)
  else if i < 4 then 1 else 0

/-- BAND of a field: the band its engine serves, 255 for a pair field (R27, R43). -/
def bandOf (f : Nat) : Nat :=
  match roleOf f with
  | 5 => (match f % 8 with | 0 => 2 | 1 => 1 | 6 => 3 | _ => 0)
  | 4 => 255
  | r => r

/-- The place (a, b) of a field in its band (R28). -/
def bandPlace (f : Nat) : Nat × Nat :=
  (f % 8 % 4, if f / 8 < 3 then f / 8 else f / 8 - 4)

/-- The port that a field's engine belongs to by its role: 0 to 8, or 15 for a bench field (R28, R29). -/
def rolePort (f : Nat) : Nat :=
  match roleOf f with
  | 4 => 8
  | 5 => 15
  | r => 2 * r + ((bandPlace f).1 + (bandPlace f).2) % 2

/-- The engine index within the port by role (R28). -/
def roleIndex (f : Nat) : Nat :=
  match roleOf f with
  | 4 => f % 8 - 2
  | 5 => 255
  | _ => (bandPlace f).2 * 2 + (bandPlace f).1 / 2

/-- The transit partner of a band field (R30); 255 for pair and bench fields. -/
def transitPartner (f : Nat) : Nat :=
  if roleOf f < 4 then (if f % 2 = 0 then f + 1 else f - 1) else 255

/-- The field whose place an engine fills now: its own, or the one it stands in for (R420). -/
def Mach.engRole (m : Mach) (e : Nat) : Nat := (m.eng e).standsFor.getD e

/-- The port an engine serves now, 15 for an idle bench engine. -/
def Mach.engPort (m : Mach) (e : Nat) : Nat := rolePort (m.engRole e)

/-- The index an engine holds within its port. -/
def Mach.engIndex (m : Mach) (e : Nat) : Nat := roleIndex (m.engRole e)

/-- The engine that serves an index of a port now: a stand-in before the engine of the role. -/
def Mach.engAt (m : Mach) (p i : Nat) : Option Nat :=
  match (List.range 56).find? fun e => (m.eng e).standsFor.isSome && m.engPort e = p && m.engIndex e = i with
  | some e => some e
  | none => (List.range 56).find? fun e => rolePort e = p && roleIndex e = i

/-! ## Ways between cores, and the order in which bench cores are chosen (R415, R459) -/

/-- The distance of two numbers. -/
def absDiff (a b : Nat) : Nat := (a - b) + (b - a)

/-- Hops H of the dimension-ordered path. -/
def hops (c d : Nat) : Nat := absDiff (coreX c) (coreX d) + absDiff (coreY c) (coreY d)

/-- Seam crossings S of the path. -/
def seams (c d : Nat) : Nat := absDiff (coreX c / 48) (coreX d / 48) + absDiff (coreY c / 48) (coreY d / 48)

/-- H + 3S between two cores. -/
def wayCost (a b : Nat) : Nat := hops a b + 3 * seams a b

/-- The better of two candidates for a core: its own field first, then the shorter way, then the lower index. -/
def closer (c a b : Nat) : Nat :=
  let far (x : Nat) : Nat := b2n (fieldOf x != fieldOf c)
  if far b < far a || (far b = far a && wayCost c b < wayCost c a) then b else a

/-! ## The module as shipped (R7, R33) -/

/-- The k-th number, from 0, that a rising list does not hold. -/
def nthFree : List Nat → Nat → Nat
  | [], k => k
  | x :: r, k => if x ≤ k then nthFree r (k + 1) else k

/-- A rising list with a number put in its place. -/
def insertRising (x : Nat) : List Nat → List Nat
  | [] => [x]
  | y :: r => if x < y then x :: y :: r else y :: insertRising x r

/-- n different cores, rising: each draw chooses among the cores that the earlier ones left. -/
def drawCores (f : Nat → Nat) : Nat → List Nat
  | 0 => []
  | n + 1 => insertRising (nthFree (drawCores f n) (f n % (nCores - n))) (drawCores f n)

/-- The cores that the factory's initial designation keeps off the enabled ones: 6,144 of 129,024 (R7). -/
@[irreducible]
def factorySpares : List Nat := drawCores Config.factoryBench 6144

/-- The cores fenced at shipment: those found defective, at most 4,608 (R7). -/
@[irreducible]
def factoryFenced : List Nat := drawCores Config.factoryDefect (Config.defectCount % 4609)

/-- A bench from which the core that replaces a defective one has been taken (R7, R459). -/
def takeBench (bench : List Nat) (c : Nat) : List Nat :=
  match pickBest (closer c) bench with
  | some b => bench.erase b
  | none => bench

/-- The bench at shipment (R7): the good spares, less those enabled in the place of defective cores, in ascending core index. -/
@[irreducible]
def factoryBench : List Nat :=
  (factoryFenced.filter fun c => !factorySpares.contains c).foldl takeBench
    (factorySpares.filter fun c => !factoryFenced.contains c)

/-- The entry of a core as the module is shipped (R7, R33, R41): which cores are which, and what a defective one still serves, is
fixed per module (log 7). -/
def factoryCore (c : Nat) : FpCore :=
  if factoryFenced.contains c then
    { state := 2, alt := c, mem := Config.defectMem c % 4, routerOk := Config.defectRouter c, reason := 1 }
  else if factoryBench.contains c then { state := 1, alt := c }
  else { state := 0, alt := c }

/-! ## The floor plan (R33 to R45) -/

/-- The floor-plan entry of a core: what firmware has recorded, or the entry of the module as shipped. -/
def Mach.fpCore (m : Mach) (c : Nat) : FpCore := (aget m.wafer.fp c).getD (factoryCore c)

def Mach.coreEnabled (m : Mach) (c : Nat) : Bool := c < nCores && (m.fpCore c).state == 0

def Mach.coreBench (m : Mach) (c : Nat) : Bool := c < nCores && (m.fpCore c).state == 1

/-- Fenced or substituted: the core's engines run no context code (R33). -/
def Mach.coreOut (m : Mach) (c : Nat) : Bool := !(c < nCores) || 2 ≤ (m.fpCore c).state

/-- Whether a tier of a core is served (R39). -/
def Mach.tierServed (m : Mach) (c t : Nat) : Bool :=
  match (m.fpCore c).mem with
  | 0 => true
  | 1 => t == 0
  | 2 => t == 1
  | _ => false

def Mach.setFp (m : Mach) (c : Nat) (e : FpCore) : Mach :=
  { m with wafer := { m.wafer with fp := aset m.wafer.fp c e, changed := true } }

/-- Mark an entry of the record changed; FLOORPLAN_CHANGE publishes the new generation (R45). -/
def Mach.planChanged (m : Mach) : Mach := { m with wafer := { m.wafer with changed := true } }

/-- How many cores of a list are in a state. -/
def Mach.countState (m : Mach) (cs : List Nat) (st : Nat) : Nat :=
  (cs.filter fun c => (m.fpCore c).state == st).length

/-- The valid entry of the wafer substitution table for an original index (R44). -/
def Mach.substOf (m : Mach) (c : Nat) : Option Subst :=
  m.wafer.subst.toList.find? fun e => e.valid && e.orig == c

/-- The physical core that runs the work of a core index (R35). -/
def Mach.runs (m : Mach) (c : Nat) : Nat :=
  match m.substOf c with
  | some e => e.stand
  | none => c

/-- CORE_LOGICAL of a core (R66). -/
def Mach.logical (m : Mach) (c : Nat) : Nat := (m.core c).lindex.getD c

/-- The silicon stepping, letter and digit in ASCII: A1 (R4, R38). -/
def siliconStep : Nat := 0x3141

/-- The image that runs (R329). -/
def Mach.runningImage (m : Mach) : Image := m.boot.loaded

/-- The firmware image that is active (R386). -/
def Mach.activeImage (m : Mach) : Image := if m.boot.activeB then m.boot.imgB else m.boot.imgA

/-! ## Free reasons for which a row changes nothing -/

/-- A command's effect where its event can arise; where it cannot, nothing changes (log 2). -/
def Mach.when (m : Mach) (p : Bool) (f : Mach → Mach) : Mach := if p then f m else m

/-! ## Progress (R272, R280, R281) -/

/-- Whether a message for one of a context's queues is held (R212). -/
def Mach.heldFor (m : Mach) (cid : Nat) : Bool :=
  m.cores.any fun e => [2, 3].any fun ch => (aget e.2.router.heldSince ch).isSome &&
    (match agetD e.2.router.lo ch [] with
     | f :: _ =>
       let q := e.2.queue ((if f.mc then f.target.toNat / 2 ^ 40 else f.target.toNat) % 8)
       q.valid && (e.2.slot q.slot.toNat).ctl.cid.toNat == cid && (e.2.slot q.slot.toNat).ctl.st != .empty
     | [] => false)

/-- A progress event restarts a context's clock, unless a message is held for it. -/
def Mach.progress (m : Mach) (cid : Nat) : Mach :=
  if m.heldFor cid then m
  else m.onCtx cid fun x =>
    if x.st = .admitted then { x with clock := 0, prog := { x.prog with last := m.now } } else x

/-- A progress event of PROGRESS mode 1: a bundle issue or a mover completion. -/
def Mach.progress1 (m : Mach) (cid : Nat) : Mach :=
  match m.ctx cid with
  | some x => if x.dead.progress = 1 then m.progress cid else m
  | none => m

/-- Whether a time since a start exceeds a deadline in µs; 100 ticks to the µs. -/
def overDl (dl : Nat) (start now : BitVec 64) : Bool := dl * 100 < (now - start).toNat

/-- A STEP of a slot as its context counts it: steps, progress, and the deadline of its class (R272): from one STEP of the
lead slot, the first of the configuration, to the next, or from the landing of the oldest marked request. -/
def Mach.stepEvent (m : Mach) (c s : Nat) : Mach :=
  let cid := ((m.core c).slot s).ctl.cid.toNat
  let lead (x : Ctx) : Bool := match x.slots with
    | e :: _ => e.core == (m.core c).lindex.getD c && e.slot == s
    | [] => false
  let step (x : Ctx) : Ctx :=
    let miss := match x.dead.dclass with
      | 1 => lead x && x.lastStep != 0 && overDl x.dead.dl x.lastStep m.now
      | 2 => (match x.requests with
        | t :: _ => t != 0 && overDl x.dead.dl t m.now
        | [] => false)
      | _ => false
    { x with prog := { x.prog with steps := x.prog.steps + 1, dlMisses := x.prog.dlMisses + BitVec.ofNat 32 (b2n miss) },
             lastStep := if lead x then m.now else x.lastStep,
             requests := if x.dead.dclass = 2 then x.requests.drop 1 else x.requests }
  (m.onCtx cid step).progress cid

/-! ## Events and the life log (R350, R351, R435) -/

/-- The physical functions of the two ports (R327). -/
def pfs : List Nat := [0, 256]

/-- An event entry (R350). -/
def Mach.event (m : Mach) (code : Nat) (cid core slot detail further : Nat) : Cpl :=
  { tag := BitVec.ofNat 16 code, event := true,
    res0 := BitVec.ofNat 64 (cid % 1024 + core % 2 ^ 17 * 2 ^ 10 + slot % 4 * 2 ^ 27 + detail % 2 ^ 32 * 2 ^ 32),
    res1 := BitVec.ofNat 128 (m.now.toNat + further % 2 ^ 64 * 2 ^ 64) }

/-- Raise an event towards a function; EVENT_POST delivers it. -/
def Mach.raise (m : Mach) (f : Nat) (e : Cpl) : Mach := m.onFn f fun x => { x with raised := x.raised ++ [e] }

/-- Raise an event towards several functions, once each. -/
def Mach.raiseAll (m : Mach) (fs : List Nat) (e : Cpl) : Mach := fs.eraseDups.foldl (fun m f => m.raise f e) m

/-- Raise an event towards the owner of a context, if it exists. -/
def Mach.raiseOwner (m : Mach) (cid : Nat) (e : Cpl) : Mach :=
  match m.ctx cid with
  | some x => m.raise x.owner e
  | none => m

/-- Raise an event towards every host function (R45). -/
def Mach.raiseEvery (m : Mach) (e : Cpl) : Mach :=
  let all := (List.range 512).map fun f => (f, { m.fn f with raised := (m.fn f).raised ++ [e] })
  { m with host := { m.host with fns := all } }

/-- Append a life-log record (R435); in RETIRED state the life log is read-only (R434). -/
def Mach.logRec (m : Mach) (type : Nat) (field : Nat := 0xFFFF) (cid : Nat := 0xFFFF) (detail : Bytes := []) : Mach :=
  if m.boot.life = .retired then m
  else
    let r : LifeRec := { time := m.now, type := BitVec.ofNat 16 type, field := BitVec.ofNat 16 field,
                         cid := BitVec.ofNat 16 cid, detail := padTo detail 48 }
    { m with log := { m.log with recs := (r :: m.log.recs).take 4194304,
                                 overwritten := m.log.overwritten + b2n (4194304 ≤ m.log.recs.length),
                                 cnt := nbump m.log.cnt 0x40 } }

/-- Count in a life-log counter, named by its offset in the image of R436. -/
def Mach.logCount (m : Mach) (off : Nat) : Mach :=
  if m.boot.life = .retired then m else { m with log := { m.log with cnt := nbump m.log.cnt off } }

/-! ## Hardware events at bits that software clears (R11) -/

/-- Note a hardware event at a register of a slot: its value before the cycle's events, and the events alone. -/
def Slot.note (v : Slot) (key cc old ev : Nat) : Slot :=
  let e : Nat × Nat × Nat := match aget v.run.sets key with
    | some (t, o, x) => if t = cc then (cc, o, x ||| ev) else (cc, old, ev)
    | none => (cc, old, ev)
  { v with run := { v.run with sets := aset v.run.sets key e } }

/-- What the hardware set in a cycle at a register of a slot: its value before, and the event alone. -/
def Slot.noted (v : Slot) (key cc : Nat) : Option (Nat × Nat) :=
  match aget v.run.sets key with
  | some (t, o, x) => if t = cc then some (o, x) else none
  | none => none

/-- What a read of an RC register returns: the value before an event of the same cycle. -/
def Slot.rcRead (v : Slot) (key cc now : Nat) : Nat := ((v.noted key cc).map (·.1)).getD now

/-- What an RC register holds after the read: an event of the same cycle alone. -/
def Slot.rcLeft (v : Slot) (key cc : Nat) : Nat := ((v.noted key cc).map (·.2)).getD 0

/-- A hardware set of pending bit i of a slot: 1 HUDDLE, 2 TIMER, 3 DEBUG. -/
def Slot.pend (v : Slot) (i cc : Nat) : Slot :=
  let t := v.ctl
  match i with
  | 1 => { v.note 0 cc (b2n t.pendHuddle) 1 with ctl := { t with pendHuddle := true } }
  | 2 => { v.note 1 cc (b2n t.pendTimer) 1 with ctl := { t with pendTimer := true } }
  | _ => { v.note 2 cc (b2n t.pendDebug) 1 with ctl := { t with pendDebug := true } }

/-- A write of ones that clears pending bits: a bit that the hardware sets in the same cycle reads 1 afterwards. -/
def Slot.clearPend (v : Slot) (x cc : Nat) : Slot :=
  let keep (i : Nat) (b : Bool) : Bool := b && (!bitOf x (i + 1) || (v.noted i cc).isSome)
  { v with ctl := { v.ctl with pendHuddle := keep 0 v.ctl.pendHuddle, pendTimer := keep 1 v.ctl.pendTimer,
                               pendDebug := keep 2 v.ctl.pendDebug } }

/-! ## Slots: state, faults and wake sources (R60 to R65) -/

/-- The MESH wake level: a queue bound to the slot holds a message (R62). -/
def Core.meshPend (k : Core) (s : Nat) : Bool :=
  k.queues.toList.any fun q => q.valid && q.slot.toNat == s && !q.msgs.isEmpty

/-- SLOT_WAKE_PEND of a slot. -/
def Core.wakePend (k : Core) (s : Nat) : BitVec 4 :=
  let t := (k.slot s).ctl
  BitVec.ofNat 4 (b2n (k.meshPend s) + 2 * b2n t.pendHuddle + 4 * b2n t.pendTimer + 8 * b2n t.pendDebug)

/-- SLOT_WAKE_EN with its fixed DEBUG bit. -/
def SlotCtl.wakeMask (t : SlotCtl) : BitVec 4 := BitVec.ofNat 4 (t.wakeEn.toNat + 8)

/-- The enabled wake sources that are pending. -/
def Core.wakeNow (k : Core) (s : Nat) : BitVec 4 := k.wakePend s &&& (k.slot s).ctl.wakeMask

/-- The register effects of a halt (R64) on a slot not yet HALTED. -/
def haltCtl (t : SlotCtl) (cause : Nat) (imprecise : Bool) (fpc faddr : Nat) : SlotCtl :=
  { t with st := .halted, block := 10, cause := BitVec.ofNat 6 cause, imprecise := imprecise,
           faultPc := BitVec.ofNat 19 fpc, faultAddr := BitVec.ofNat 48 faddr }

/-- Whether a fault that arrives now is recorded as the first one (R64): the slot is not HALTED, or it halted with CAUSE 0x00
and the fault is imprecise (R73). A quiesced slot counts as the state it resumes to. -/
def firstFault (v : Slot) (imprecise : Bool) : Bool :=
  match v.ctl.st with
  | .empty => false
  | .halted => imprecise && v.ctl.cause == 0
  | .quiesced => !v.run.heldFault && (v.run.held != some .halted || (imprecise && v.ctl.cause == 0))
  | _ => true

/-- Record a fault in a slot (R64): the first one of a launch is recorded and halts the slot, a later one sets MORE and changes
nothing else; a slot that is QUIESCED records the fault and is HALTED at resume (R65). -/
def haltSlot (v : Slot) (cause : Nat) (imprecise : Bool) (fpc faddr : Nat) : Slot :=
  if v.ctl.st = .empty then v
  else if firstFault v imprecise then
    if v.ctl.st = .quiesced then
      { v with ctl := { haltCtl v.ctl cause imprecise fpc faddr with st := .quiesced },
               run := { v.run with held := some .halted, heldFault := true } }
    else
      { v with ctl := haltCtl v.ctl cause imprecise fpc faddr, run := { v.run with wakeAt := none, hwSince := none } }
  else { v with ctl := { v.ctl with more := true } }

/-- The event that reports a slot's fault (R64, R350); a context keeps its first CAUSE for STEP_WAIT (R338). -/
def Mach.faultEvent (m : Mach) (c s : Nat) (cause : Nat) : Mach :=
  let cid := ((m.core c).slot s).ctl.cid.toNat
  (m.onCtx cid fun x => { x with firstCause := if x.firstCause = 0 then BitVec.ofNat 6 cause else x.firstCause }).raiseOwner cid
    (m.event 1 cid (m.logical c) s cause 0)

/-- Whether a fault or a hang that reaches a slot is discarded: its context is being reset or destroyed (R279). -/
def Mach.resetting (m : Mach) (c s : Nat) : Bool :=
  match m.ctx ((m.core c).slot s).ctl.cid.toNat with
  | some x => ((m.core c).slot s).ctl.st != .empty && (x.st == .resetting || x.st == .destroying)
  | none => false

/-- A fault of a slot (R64): recorded, and reported when it is the first. -/
def Mach.slotFault (m : Mach) (c s cause : Nat) (imprecise : Bool) (fpc faddr : Nat) : Mach :=
  if m.resetting c s then m else
  let first := firstFault ((m.core c).slot s) imprecise
  let m := m.onSlot c s fun v => haltSlot v cause imprecise fpc faddr
  if first then m.faultEvent c s cause else m

/-- A precise fault of a bundle (R64): nothing of the bundle took effect; pc is what SLOT_FAULT_PC holds. -/
def Mach.preciseFault (m : Mach) (c s cause fpc : Nat) : Mach := m.slotFault c s cause false fpc 0

/-- What SLOT_FAULT_PC holds after an imprecise fault: the first bundle not issued (R64); for a plane what SLOT_PC held at the issue of the access that
faults, which names its node (R244), where that is known. -/
def Slot.faultPcOf (v : Slot) (pc : Option Nat) : Nat :=
  match v.plane, pc with
  | some _, some x => x
  | _, _ => v.ctl.pc.toNat

/-- An imprecise fault (R64, R244), with SLOT_PC at the issue of the access that faults: SLOT_FAULT_ADDR holds the wafer address. -/
def Mach.impreciseFault (m : Mach) (c s cause addr : Nat) (pc : Option Nat := none) : Mach :=
  m.slotFault c s cause true (((m.core c).slot s).faultPcOf pc) addr

/-- A poisoned read of a slot (R168): LOST_CORE, imprecise, and the memory-error event with the wafer address. -/
def Mach.poisonFault (m : Mach) (c s wa : Nat) (pc : Option Nat := none) : Mach :=
  let cid := ((m.core c).slot s).ctl.cid.toNat
  (m.impreciseFault c s 6 wa pc).raiseOwner cid (m.event 4 cid (m.logical c) s 0 wa)

/-- A halt that firmware or a detector imposes on a slot: a quiesced slot is HALTED at once with the halt's CAUSE, whatever it held (R60);
a slot HALTED already records MORE and nothing else (R64). -/
def forceHalt (v : Slot) (cause : Nat) (addr : Nat := 0) : Slot :=
  match v.ctl.st with
  | .empty | .loaded => v
  | .halted => { v with ctl := { v.ctl with more := true } }
  | _ => { v with ctl := haltCtl v.ctl cause true v.ctl.pc.toNat addr,
                  run := { v.run with held := none, heldFault := false, wakeAt := none, hwSince := none } }

/-- The same on a slot of a core, with its event when it halts the slot. -/
def Mach.forceHaltAt (m : Mach) (c s cause : Nat) : Mach :=
  if m.resetting c s then m else
  let m' := m.onSlot c s fun v => forceHalt v cause
  match ((m.core c).slot s).ctl.st with
  | .empty | .loaded | .halted => m'
  | _ => m'.faultEvent c s cause

/-- The slots of a core that a context holds. -/
def Core.slotsOf (k : Core) (cid : Nat) : List Nat :=
  (List.range 4).filter fun s => (k.slot s).ctl.st != .empty && (k.slot s).ctl.cid.toNat == cid

/-- SLOT_CNT and other 64-bit counts wrap. -/
def inc64 (v : BitVec 64) (n : Nat := 1) : BitVec 64 := v + BitVec.ofNat 64 n

/-! ## Trace events (R437) -/

/-- The programmed word of a source of a field's trace unit (R456). -/
def Mach.traceWord (m : Mach) (f src : Nat) : Nat := (lget (m.field f).trace.src src).toNat

/-- A condition after a sample of a source: its hits, and whether it is met (R439). -/
def TrigCond.see (c : TrigCond) (src data : Nat) : TrigCond × Bool :=
  let hit := c.count != 0 && c.src == src && (BitVec.ofNat 64 data &&& c.mask) == (c.value &&& c.mask)
  if !hit then (c, false)
  else if c.count ≤ c.hits + 1 then ({ c with hits := 0 }, true)
  else ({ c with hits := c.hits + 1 }, false)

/-- The conditions after a sample, and the mask of those met. -/
def Trace.see (t : Trace) (src data : Nat) : List TrigCond × Nat :=
  let l := t.conds.map fun c => c.see src data
  (l.map (·.1), (l.zipIdx.map fun y => b2n y.1.2 * 2 ^ y.2).sum)

/-- Conditions of a mask counted as missed (R441). -/
def missIn (l : List TrigCond) (mask : Nat) : List TrigCond :=
  l.zipIdx.map fun y => if bitOf mask y.2 then { y.1 with missed := y.1.missed + 1 } else y.1

/-- An event reaches a trace unit (R437, R440, R441): it waits to be stored, in source order among those of its cycle; where 16 wait it is dropped and counted, which the
next event says. In IDLE and REARM nothing is stored, and a condition that it meets is missed. -/
def Trace.put (t : Trace) (e : TEvent) : Trace :=
  match t.st with
  | .idle | .rearm =>
    let y := t.see e.src (le e.data 0 8)
    { t with conds := missIn y.1 y.2 }
  | _ =>
    if t.waiting.length < 16 then
      let behind (x : TEvent) : Bool := x.cc == e.cc && e.src < x.src
      { t with waiting := (t.waiting.filter fun x => !behind x) ++ [{ e with after := t.dropMark }] ++ t.waiting.filter behind, dropMark := false }
    else { t with dropped := t.dropped + 1, dropMark := true }

/-- An event of an enabled source reaches a field's trace unit (R437). -/
def Mach.traceEvent (m : Mach) (f src : Nat) (mark : Bool) (data : Bytes) : Mach :=
  if bitOf (m.traceWord f src) 0 then
    m.onField f fun x => { x with trace := x.trace.put { time := m.now, cc := m.cc, src := src, mark := mark, data := padTo data 20 } }
  else m

/-- An event whose DATA the spec does not lay out: a free value (log 66). -/
def Mach.traceFree (m : Mach) (f src : Nat) : Mach :=
  if bitOf (m.traceWord f src) 0 then m.draw.2.traceEvent f src false (toBytes 20 m.draw.1) else m

/-- A field-controller event (R437, R456): 1 power change, 2 field sleep, 3 rotation, 4 substitution, 5 heartbeat and restart. -/
def Mach.fcEvent (m : Mach) (f kind : Nat) : Mach := if bitOf (m.traceWord f 2) kind then m.traceFree f 2 else m

/-- The TCLK markers of a tick (R437, R456). -/
def Mach.traceMarkers (m : Mach) : Mach :=
  (List.range 56).foldl (fun m f => if m.now.toNat % 2 ^ fld (m.traceWord f 3) 1 5 = 0 then m.traceFree f 3 else m) m

/-- The place of a core within its field, as the source words name it: local x, local y. -/
def fieldPlace (c : Nat) : Nat × Nat := (coreX c % 48, coreY c % 48)

/-- The issue record of a bundle at its field's trace unit, when source 1 selects the core and slot (R72, R437, R456). Its DATA is the core in 4 B, the slot in 4 B, the PC
in 4 B and the bundle header in 2 B (DESIGN CHOICE, log 75). -/
def Mach.traceIssue (m : Mach) (c s pc b : Nat) : Mach :=
  let w := m.traceWord (fieldOf c) 1
  let mark := bitOf b 117
  if (fld w 1 6, fld w 7 6) = fieldPlace c && fld w 13 2 = s && (!bitOf w 15 || mark) then
    m.traceEvent (fieldOf c) 1 mark (toBytes 4 c ++ toBytes 4 s ++ toBytes 4 pc ++ toBytes 2 (b / 2 ^ 112))
  else m

/-! ## The wrapper of every meaning -/

/-- A core with its memories in canonical form. -/
def Core.canon (k : Core) : Core := { k with sram := memCanon k.sram, ub := memCanon k.ub }

/-- The module with every memory in canonical form, so that equal memories are equal data. -/
def Mach.canon (m : Mach) : Mach :=
  { m with cores := m.cores.map fun e => (e.1, e.2.canon),
           host := { m.host with mem := memCanon m.host.mem } }

/-- The outcome of a command: the module changed by f, the queue as it is. -/
def upd (f : Mach → Mach) (s : State) : Host.Outcome State Fault Refusal :=
  .next { s with m := (f s.m).canon }

end Sys2Proof.Machine
end

