-- ==== Sys2Proof/Machine/Operands.lean ====
section
/-! DEFINITION. The fields of a bundle and of its three parts, the encodings that fault, the slot's windows and the
address forms (R71 to R90, R142 to R146). A bundle is read as a number, bit 0 its least significant bit. -/

namespace Sys2Proof.Machine

open Sys2Proof

/-! ## Header (R71, R72) -/

def bStop (b : Nat) : Bool := bitOf b 127
def bFence (b : Nat) : Nat := fld b 125 2
def bPred (b : Nat) : Nat := fld b 122 3
def bPneg (b : Nat) : Bool := bitOf b 121
def bPs (b : Nat) : Bool := bitOf b 120
def bPv (b : Nat) : Bool := bitOf b 119
def bPt (b : Nat) : Bool := bitOf b 118
def bTrace (b : Nat) : Bool := bitOf b 117
/-- The S part. -/
def bS (b : Nat) : Nat := fld b 80 32
/-- The V part. -/
def bV (b : Nat) : Nat := fld b 40 40
/-- The T part. -/
def bT (b : Nat) : Nat := fld b 0 40

/-- Predicate n of a slot: p0 reads 1 (R48). -/
def readP (a : SlotArch) (n : Nat) : Bool := n == 0 || bitOf a.p.toNat n

/-- The header predicate after PNEG (R74). -/
def headerPred (a : SlotArch) (b : Nat) : Bool := xor (readP a (bPred b)) (bPneg b)

/-- Whether a part runs: it is not governed, or its predicate is 1 (R74). -/
def sRuns (a : SlotArch) (b : Nat) : Bool := !bPs b || headerPred a b
def vRuns (a : SlotArch) (b : Nat) : Bool := !bPv b || headerPred a b
def tRuns (a : SlotArch) (b : Nat) : Bool := !bPt b || headerPred a b

/-! ## The S part (R75, R86) -/

def sOp (w : Nat) : Nat := fld w 26 6
def sRd (w : Nat) : Nat := fld w 21 5
def sRs1 (w : Nat) : Nat := fld w 16 5
def sRs2 (w : Nat) : Nat := fld w 11 5
def sImm (w : Nat) : Nat := fld w 0 16
def sFunc (w : Nat) : Nat := fld w 0 11
def sImmS (w : Nat) : Int := sfld w 0 16

/-- An S part that its bits alone make an illegal bundle (R86). -/
def sIllegal (w : Nat) : Bool :=
  let imm := sImm w
  let rd := sRd w
  let r1 := sRs1 w
  let r2 := sRs2 w
  match sOp w with
  | 0x00 => fld w 0 26 != 0
  | 0x01 => 12 ≤ sFunc w
  | 0x02 => false
  | 0x03 => 4 ≤ r1
  | 0x04 => false
  | 0x05 => false
  | 0x06 => fld imm 8 8 != 0
  | 0x07 => sFunc w != 0
  | 0x08 => 6 ≤ sFunc w || 8 ≤ rd
  | 0x09 => 6 ≤ rd / 4
  | 0x0A => false
  | 0x0B => false
  | 0x0C => r2 != 0 || sFunc w != 0
  | 0x0D => rd != 0 || sFunc w != 0
  | 0x0E => rd != 0 || r1 != 0
  | 0x0F => r1 != 0
  | 0x10 => rd != 0 || imm != 0
  | 0x11 => r1 != 0 || fld imm 13 3 != 0 || (bitOf imm 12 && fld imm 8 4 != 0)
  | 0x12 => rd != 0 || fld imm 13 3 != 0 || (bitOf imm 12 && fld imm 8 4 != 0)
  | 0x13 => rd != 0 || r1 != 0 || imm != 0
  | 0x14 => rd != 0 || r1 != 0
  | 0x15 => rd != 0 || imm != 0
  | 0x16 => rd != 0 || 8 ≤ imm
  | 0x17 => r1 != 0 || 8 ≤ imm
  | 0x18 => rd != 0 || fld imm 5 2 == 3 || fld imm 7 9 != 0
  | 0x19 => rd != 0
  | 0x1A => rd != 0 || r1 != 0 || 32 ≤ imm
  | 0x1B => rd != 0 || r1 != 0 || 8 ≤ imm
  | 0x1C => rd != 0 || 8 ≤ imm
  | 0x1D => r1 != 0 || 8 ≤ imm
  | 0x1E => 4 ≤ sFunc w || 8 ≤ rd || 8 ≤ r1 || 8 ≤ r2
  | _ => true

/-- s-registers that an S part reads. -/
def sReads (w : Nat) : List Nat :=
  match sOp w with
  | 0x01 | 0x07 | 0x08 | 0x0D => [sRs1 w, sRs2 w]
  | 0x02 | 0x04 | 0x05 | 0x06 | 0x09 | 0x0A | 0x0C | 0x10 | 0x12 | 0x15 | 0x16 | 0x18 | 0x19 | 0x1C => [sRs1 w]
  | 0x03 => [sRd w]
  | 0x0B => [sRs1 w, sRd w]
  | _ => []

/-- Predicates that an S part reads. -/
def sReadsP (w : Nat) : List Nat := if sOp w = 0x1E then [fld (sRs1 w) 0 3, fld (sRs2 w) 0 3] else []

/-! ## The V part (R76 to R82, R87) -/

def vOp (w : Nat) : Nat := fld w 34 6
def vDst (w : Nat) : Nat := fld w 28 6
def vSrc1 (w : Nat) : Nat := fld w 22 6
def vSrc2 (w : Nat) : Nat := fld w 16 6
def vSrc3 (w : Nat) : Nat := fld w 10 6
def vFmt (w : Nat) : Nat := fld w 6 4
def vRm (w : Nat) : Nat := fld w 3 3
def vOvf (w : Nat) : Bool := bitOf w 2

/-- FP32, BF16, FP16, INT32, INT8 or UINT8: the arithmetic formats of R87. -/
def fmtArith (f : Nat) : Bool := f == 0xA || f == 4 || f == 9 || f == 0xB || f == 2 || f == 3

/-- INT32, INT8 or UINT8. -/
def fmtInteger (f : Nat) : Bool := f == 0xB || f == 2 || f == 3

/-- A reserved source operand of the V part (R78). -/
def vSrcBad (o : Nat) : Bool := 0x22 ≤ o && o ≤ 0x37

/-- A reserved destination operand of the V part (R80). -/
def vDstBad (o : Nat) : Bool := 0x21 ≤ o && o ≤ 0x37

/-- How many source operands (R78) an opcode reads, from SRC1 on. -/
def vNSrc (w : Nat) : Nat :=
  match vOp w with
  | 0x04 | 0x08 => 3
  | 0x01 | 0x02 | 0x03 | 0x05 | 0x06 | 0x07 | 0x09 | 0x0A | 0x0B | 0x0C | 0x0D | 0x10 | 0x18 | 0x19 | 0x1A => 2
  | 0x0E | 0x0F | 0x12 | 0x13 | 0x14 | 0x1B => 1
  | _ => 0

/-- The source operands of a V part, in popping order (R92). -/
def vSrcs (w : Nat) : List Nat := [vSrc1 w, vSrc2 w, vSrc3 w].take (vNSrc w)

/-- The formats an opcode accepts (R87). VSEL, VPERM and VBCAST take every format but the reserved ones, as R87 lists them, where R81's column names FP8, FP6, FP4 and INT4
for tile operands, TILE.ST and VCVT alone (DESIGN CHOICE, log 80). -/
def vFmtBad (w : Nat) : Bool :=
  let f := vFmt w
  match vOp w with
  | 0x01 | 0x02 | 0x03 | 0x05 | 0x06 | 0x07 => !fmtArith f
  | 0x04 => !(f == 0xA || f == 4 || f == 9)
  | 0x08 | 0x10 | 0x11 => 0xC ≤ f
  | 0x09 | 0x0A | 0x0B | 0x0C | 0x0D => !fmtInteger f
  | 0x0E => 0xC ≤ f || 0xC ≤ vSrc3 w % 16
  | 0x0F => !(f == 0xA || f == 0xB)
  | 0x12 | 0x13 | 0x14 | 0x18 | 0x19 | 0x1A | 0x1B => f != 0xA
  | 0x1C | 0x1D => f != 0
  | _ => false

/-- A pair operand that is not an even vector register (R87). -/
def notEvenReg (o : Nat) : Bool := !(o < 0x20 && o % 2 == 0)

/-- A V part that its bits alone make an illegal bundle (R76 to R82, R87). Unused operand fields are not read and raise
nothing (DEDUCED, log 22). -/
def vIllegal (w : Nat) : Bool :=
  match vOp w with
  | 0x00 => fld w 0 34 != 0
  | 0x1C => fld w 0 2 != 0 || vFmtBad w || vRm w != 0 || vOvf w || 0x20 ≤ vSrc1 w || vDstBad (vDst w)
  | 0x1D => fld w 0 2 != 0 || vFmtBad w || vRm w != 0 || vOvf w || 0x20 ≤ vSrc1 w || 0x20 ≤ vDst w
  | op =>
    (0x15 ≤ op && op ≤ 0x17) || 0x1E ≤ op || fld w 0 2 != 0 || vRm w == 7 || vFmtBad w || vDstBad (vDst w) ||
    (vSrcs w).any vSrcBad ||
    (match op with
     | 0x07 => 4 ≤ vSrc3 w / 8 || vSrc3 w % 8 != 0
     | 0x0E => bitOf (vSrc3 w) 4
     | 0x0F => 3 ≤ vSrc3 w / 8
     | 0x11 => 0x20 ≤ vSrc1 w
     | 0x12 | 0x13 | 0x14 => vRm w != 0
     | 0x18 | 0x19 => notEvenReg (vDst w)
     | 0x1A => notEvenReg (vDst w) || notEvenReg (vSrc1 w) || notEvenReg (vSrc2 w)
     | 0x1B => notEvenReg (vDst w) || notEvenReg (vSrc1 w)
     | _ => false)

/-- v-registers that a V part reads. -/
def vReads (w : Nat) : List Nat :=
  let direct := (vSrcs w).filter fun o => o < 0x20
  match vOp w with
  | 0x1A | 0x1B => direct ++ direct.map fun r => r + 1
  | 0x1D => [vDst w]
  | _ => direct

/-- s-registers that a V part reads. -/
def vReadsS (w : Nat) : List Nat :=
  match vOp w with
  | 0x11 | 0x1C | 0x1D => [fld w 22 5]
  | _ => []

/-- Whether a V part sends its result through a send port (R80). -/
def vSends (w : Nat) : Option Nat :=
  match vOp w with
  | 0x00 | 0x1D => none
  | _ => if 0x38 ≤ vDst w then some (vDst w - 0x38) else none

/-! ## The T part (R77, R78, R80, R88) -/

def tOp (w : Nat) : Nat := fld w 34 6
def tFmt (w : Nat) : Nat := fld w 30 4
def tScl (w : Nat) : Nat := fld w 27 3
def tAcc (w : Nat) : Nat := fld w 19 8
def tRows (w : Nat) : Nat := fld w 14 5 + 1
def tOpnd (w : Nat) : Nat := fld w 0 6

/-- The opcodes 0x01 to 0x04 are tile operations, 0x08 to 0x0A mover instructions. -/
def tIsTile (w : Nat) : Bool := 1 ≤ tOp w && tOp w ≤ 4
def tIsMover (w : Nat) : Bool := 8 ≤ tOp w && tOp w ≤ 0xA

/-- A reserved operand of the T part (R78, R80). -/
def tOpndBad (o : Nat) : Bool := 0x20 ≤ o && o ≤ 0x37

/-- An integer format of a tile operand. -/
def fmtIsIntT (f : Nat) : Bool := f == 2 || f == 3 || f == 8

/-- A T part that its bits alone make an illegal bundle (R74, R88, R89): PAIR with an integer FMTA is illegal whatever FMTB is. -/
def tIllegal (w : Nat) : Bool :=
  match tOp w with
  | 0x00 => fld w 0 34 != 0
  | 0x01 => 0xB ≤ tFmt w || fld w 6 20 != 0 || tOpndBad (tOpnd w)
  | 0x02 => 0xB ≤ tFmt w || fld w 6 3 != 0 || tOpndBad (tOpnd w) || (bitOf w 13 && !(tFmt w == 9 || tFmt w == 0xA)) ||
      (bitOf w 12 && fmtIsIntT (tFmt w))
  | 0x03 => 0xC ≤ tFmt w || fld w 27 3 == 7 || fld w 6 5 != 0 || tOpndBad (tOpnd w)
  | 0x04 => fld w 27 7 != 0 || fld w 0 14 != 0
  | 0x08 | 0x09 | 0x0A => fld w 6 28 != 0 || 0x20 ≤ tOpnd w
  | _ => true

/-- s-registers that a T part reads. -/
def tReadsS (w : Nat) : List Nat :=
  if (tOp w == 1 || tOp w == 2 || tOp w == 3 || tIsMover w) && tOpnd w < 0x20 then [tOpnd w] else []

/-! ## Windows (R142 to R145) -/

/-- Window register i of a slot: 0 to 3 BASE, 4 to 7 BOUND (R142). -/
def winReg (t : SlotCtl) (i : Nat) : Nat := (vget t.win i).toNat

/-- The physical scratchpad offset of n bytes at a window-relative offset, when they lie inside the window (R145). -/
def spadAt (t : SlotCtl) (o n : Nat) : Option Nat :=
  let size := fld (winReg t 4) 0 20
  if o + n ≤ size && 0 < size then some (fld (winReg t 0) 0 19 + o) else none

/-- Where an access reaches: its space (0 scratchpad, 1 under-bank), its core in logical coordinates, the physical
offset there, whether it goes over the mesh and whether its window uses the cache. -/
structure Place where
  space : Nat := 0
  core : Nat := 0
  off : Nat := 0
  mesh : Bool := false
  cached : Bool := false
  deriving DecidableEq, Repr, Inhabited

/-- A wafer address (R146). -/
def waOf (space core off : Nat) : Nat := space * 2 ^ 44 + core * 2 ^ 27 + off

def waSpace (wa : Nat) : Nat := fld wa 44 4
def waCore (wa : Nat) : Nat := fld wa 27 17
def waOff (wa : Nat) : Nat := fld wa 0 27

/-- The window check of KIND 2 (R145). -/
def remoteAt (t : SlotCtl) (addr n : Nat) (write : Bool) : Option Place :=
  let b := winReg t 2
  let e := winReg t 6
  let x0 := fld b 0 9
  let y0 := fld b 9 9
  let x1 := fld e 0 9
  let y1 := fld e 9 9
  let lo := fld b 18 25
  let hi := fld e 18 25
  let w := x1 + 1 - x0
  let rel := fld addr 27 17
  let x := x0 + rel % w
  let y := y0 + rel / w
  let off := lo + fld addr 0 27
  let space := fld addr 44 4
  let last := off + n - 1
  if x0 ≤ x1 && y0 ≤ y1 && lo ≤ hi && y ≤ y1 && y < 336 && x < 384 && last ≤ hi &&
     ((space == 0 && bitOf b 60 && last ≤ 0x5FFFF) || (space == 1 && bitOf b 61 && last ≤ 0x17FFFFF)) &&
     (!write || bitOf b 63) && fld addr 48 14 == 0
  then some { space := space, core := coreAt x y, off := off, mesh := true, cached := bitOf b 62 } else none

/-- Where an address of KIND 0 to 2 reaches with n bytes; none where the access is offside (R144, R145). own is the
logical index of the slot's core. -/
def resolve (t : SlotCtl) (own addr n : Nat) (write : Bool) : Option Place :=
  match fld addr 62 2 with
  | 0 =>
    if fld addr 19 43 != 0 then none
    else (spadAt t (fld addr 0 19) n).map fun o => { space := 0, core := own, off := o }
  | 1 =>
    let e := winReg t 5
    let o := fld addr 0 25
    if fld addr 25 37 == 0 && o + n ≤ fld e 0 26 && (!write || bitOf e 63)
    then some { space := 1, core := own, off := fld (winReg t 1) 0 25 + o, cached := bitOf e 62 } else none
  | 2 => remoteAt t addr n write
  | _ => none

/-- Whether a logical core lies inside the queue-mask rectangle (R142). -/
def inMaskRect (t : SlotCtl) (core : Nat) : Bool :=
  let b := winReg t 3
  let e := winReg t 7
  fld b 0 9 ≤ coreX core && coreX core ≤ fld e 0 9 && fld b 9 9 ≤ coreY core && coreY core ≤ fld e 9 9 && core < nCores

/-- The queues that sends of the slot may reach. -/
def qMask (t : SlotCtl) : Nat := fld (winReg t 3) 18 8

/-- The huddles that signals of the slot may reach. -/
def hMask (t : SlotCtl) : Nat := fld (winReg t 3) 26 32

/-- Whether a huddle address is one that the slot may signal (R223). -/
def hudAddrOk (t : SlotCtl) (wa : Nat) : Bool :=
  wa < 2 ^ 48 && waSpace wa == 3 && waOff wa < 32 && inMaskRect t (waCore wa) && bitOf (hMask t) (waOff wa)

/-- The rectangle of a strided target (R193), as X0, Y0, X1, Y1. -/
def rectInMask (t : SlotCtl) (x0 y0 x1 y1 : Nat) : Bool :=
  x0 ≤ x1 && y0 ≤ y1 && x1 < 384 && y1 < 336 && inMaskRect t (coreAt x0 y0) && inMaskRect t (coreAt x1 y1)

/-- Whether a send-port value may be stored (R213). -/
def sendPortOk (t : SlotCtl) (v : Nat) : Bool :=
  let q := bitOf (qMask t) (fld v 2 3)
  match fld v 0 2 with
  | 0 => v == 0
  | 1 => fld v 22 42 == 0 && q && inMaskRect t (fld v 5 17)
  | 2 => fld v 47 17 == 0 && q && rectInMask t (fld v 5 9) (fld v 14 9) (fld v 23 9) (fld v 32 9)
  | _ => fld v 13 51 == 0 && q

/-- An SD.SET value that no reserved bit or value spoils (R84). -/
def sdValueOk (v : Nat) : Bool :=
  fld v 0 2 != 3 && fld v 2 3 ≤ 4 && fld v 6 2 == 0 && fld v 27 5 == 0 && fld v 48 16 == 0

/-- A legal pair of tile formats (R89). -/
def pairOk (fa fb : Nat) : Bool :=
  let int (f : Nat) := f == 2 || f == 3 || f == 8
  let small (f : Nat) := f == 0 || f == 1 || f == 5 || f == 6 || f == 7 || f == 4
  (int fa && int fb) || (small fa && small fb) || (fa == 9 && fb == 9) || (fa == 0xA && fb == 0xA)

/-! ## Queues as operands (R53, R79, R92, R209) -/

/-- Whether a slot may pop a queue through an operand port: 1 vector, 2 matrix, 3 scalar (R209). -/
def popOk (k : Core) (s q port : Nat) : Bool :=
  let b := k.queue q
  b.valid && b.slot.toNat == s && (b.port.toNat == port || b.port.toNat == 4)

/-- Queues that the parts of a bundle that run and are legal pop, in order (R92). -/
def popsOf (a : SlotArch) (b : Nat) : List Nat × List Nat × List Nat :=
  let v := bV b
  let t := bT b
  let s := bS b
  let qs (os : List Nat) := (os.filter fun o => 0x38 ≤ o).map fun o => o - 0x38
  ( if vRuns a b && !vIllegal v then qs (vSrcs v) else [],
    if tRuns a b && !tIllegal t && (tOp t == 1 || tOp t == 2) then qs [tOpnd t] else [],
    if sRuns a b && !sIllegal s && sOp s == 0x1D then [sImm s] else [])

/-- Message n of a queue, oldest first. -/
def msgAt (k : Core) (q n : Nat) : QMsg := (k.queue q).msgs.getD n {}

/-- The messages that a list of pops takes, each the next of its queue. -/
def takePops (k : Core) (before pops : List Nat) : List QMsg :=
  match pops with
  | [] => []
  | q :: r => msgAt k q (before.count q) :: takePops k (before ++ [q]) r

/-- A queue after a pop in a cycle: a full one lets a held message land in the next (R211). -/
def Queue.pop (q : Queue) (cc : Nat) : Queue :=
  { q with msgs := q.msgs.drop 1, freed := if q.thresh.toNat ≤ q.msgs.length then cc + 1 else q.freed }

/-- A core whose queues have lost the popped messages. -/
def dropPops (k : Core) (cc : Nat) : List Nat → Core
  | [] => k
  | q :: r => dropPops (k.onQueue q fun x => x.pop cc) cc r

/-- The payload of a message as one 1,024-bit operand: four chunks, absent ones 0 (R79). -/
def msgLanes (x : QMsg) : Nat :=
  if x.token then 0
  else (x.chunks.getD 0 0).toNat + (x.chunks.getD 1 0).toNat * 2 ^ 256 + (x.chunks.getD 2 0).toNat * 2 ^ 512 +
       (x.chunks.getD 3 0).toNat * 2 ^ 768

/-- The bytes of a message in order. -/
def msgBytes (x : QMsg) : Bytes := (x.chunks.map fun ch => toBytes 32 ch.toNat).flatten

end Sys2Proof.Machine
end

