-- ==== Sys2Proof/Machine/Flags.lean ====
section
/-! DEFINITION. Scalar arithmetic, relations and predicate logic (R86), and the writes of scalar registers and
predicates. -/

namespace Sys2Proof.Machine

open Sys2Proof

/-- Scalar register n of a slot; all 32 are general (R86). -/
def readS (a : SlotArch) (n : Nat) : BitVec 64 := vget a.s n

def writeS (a : SlotArch) (n : Nat) (v : BitVec 64) : SlotArch := { a with s := vset a.s n v }

/-- A predicate write; one to p0 is discarded (R48). -/
def writeP (a : SlotArch) (n : Nat) (v : Bool) : SlotArch :=
  if n = 0 then a
  else { a with p := BitVec.ofNat 8 (a.p.toNat - b2n (bitOf a.p.toNat n) * 2 ^ n + b2n v * 2 ^ n) }

/-- ALU by FUNC (R86): shifts use the low six bits of the second operand. -/
def alu (func : Nat) (a b : BitVec 64) : BitVec 64 :=
  let n := b.toNat % 64
  match func with
  | 0 => a + b
  | 1 => a - b
  | 2 => a &&& b
  | 3 => a ||| b
  | 4 => a ^^^ b
  | 5 => a <<< n
  | 6 => a >>> n
  | 7 => a.sshiftRight n
  | 8 => if a.toInt < b.toInt then a else b
  | 9 => if a.toInt < b.toInt then b else a
  | 10 => if a.toNat < b.toNat then a else b
  | _ => if a.toNat < b.toNat then b else a

/-- SHIFTI by its kind (R86). -/
def shiftImm (kind amount : Nat) (a : BitVec 64) : BitVec 64 :=
  match kind with
  | 0 => a <<< amount
  | 1 => a >>> amount
  | 2 => a.sshiftRight amount
  | _ => a.rotateRight amount

/-- The relations of CMP and CMPI (R86). -/
def relation (func : Nat) (a b : BitVec 64) : Bool :=
  match func with
  | 0 => a == b
  | 1 => a != b
  | 2 => a.toInt < b.toInt
  | 3 => a.toNat < b.toNat
  | 4 => b.toInt ≤ a.toInt
  | _ => b.toNat ≤ a.toNat

/-- The predicate logic of PLOG (R86). -/
def plog (func : Nat) (a b : Bool) : Bool :=
  match func with
  | 0 => a && b
  | 1 => a || b
  | 2 => xor a b
  | _ => a && !b

/-- The immediate as a sign-extended 64-bit value. -/
def immS (w : Nat) : BitVec 64 := BitVec.ofInt 64 (sImmS w)

/-- MOVK (R86): one quarter of the register replaced. -/
def movk (old : BitVec 64) (k imm : Nat) : BitVec 64 :=
  BitVec.ofNat 64 (old.toNat - fld old.toNat (16 * k) 16 * 2 ^ (16 * k) + imm * 2 ^ (16 * k))

/-- The value a purely scalar instruction
writes to RD, from the registers as they stood before the bundle (R91); pc is the bundle's address. -/
def scalarResult (a : SlotArch) (w pc : Nat) : Option (BitVec 64) :=
  let x := readS a (sRs1 w)
  let y := readS a (sRs2 w)
  match sOp w with
  | 0x01 => some (alu (sFunc w) x y)
  | 0x02 => some (x + immS w)
  | 0x03 => some (movk (readS a (sRd w)) (sRs1 w % 4) (sImm w))
  | 0x04 => some (x &&& BitVec.ofNat 64 (sImm w))
  | 0x05 => some (x ||| BitVec.ofNat 64 (sImm w))
  | 0x06 => some (shiftImm (fld (sImm w) 6 2) (fld (sImm w) 0 6) x)
  | 0x07 => some (x * y)
  | 0x0F => some (BitVec.ofNat 64 (pc + 16))
  | 0x17 => some (vget a.sd (sImm w % 8))
  | _ => none

/-- The predicate a compare or logic instruction writes, with its value. -/
def predResult (a : SlotArch) (w : Nat) : Option (Nat × Bool) :=
  let x := readS a (sRs1 w)
  match sOp w with
  | 0x08 => some (sRd w % 8, relation (sFunc w) x (readS a (sRs2 w)))
  | 0x09 => some (sRd w % 4, relation (sRd w / 4) x (immS w))
  | 0x1E => some (sRd w % 8, plog (sFunc w) (readP a (sRs1 w % 8)) (readP a (sRs2 w % 8)))
  | _ => none

/-- The address of a taken branch, window-relative, or none for a bundle that does not branch; a negative address is
one outside every window. -/
def branchTarget (a : SlotArch) (w pc : Nat) : Option Int :=
  match sOp w with
  | 0x0E | 0x0F => some ((pc : Int) + 16 * sImmS w)
  | 0x10 => some ((((readS a (sRs1 w)).toNat / 16 * 16 : Nat)) : Int)
  | _ => none

end Sys2Proof.Machine
end

