-- ==== Sys2Proof/Machine/Float.lean ====
section
/-! DEFINITION. Number formats, exact values, rounding and conversion (R94 to R97, R114 to R121). An exact value is a
sign, a natural significand and a power of two; every operation is computed exactly and rounded once. -/

namespace Sys2Proof.Machine

open Sys2Proof

/-- An exact value: NaN, an infinity, or (−1)^neg · m · 2^e, whose zero has a sign. -/
inductive FVal where
  | nan
  | inf (neg : Bool)
  | fin (neg : Bool) (m : Nat) (e : Int)
  deriving DecidableEq, Repr, Inhabited

/-! ## The formats of R94 -/

/-- Element width in bits. -/
def fmtWidth (f : Nat) : Nat :=
  match f with
  | 4 | 9 => 16
  | 5 | 6 => 6
  | 7 | 8 => 4
  | 0xA | 0xB => 32
  | _ => 8

/-- An integer format. -/
def fmtIsInt (f : Nat) : Bool := f == 2 || f == 3 || f == 8 || f == 0xB

/-- A signed integer format. -/
def fmtSigned (f : Nat) : Bool := f == 2 || f == 8 || f == 0xB

/-- Width p of the significand field of a floating-point format. -/
def fmtP (f : Nat) : Nat :=
  match f with
  | 0 => 3
  | 1 => 2
  | 4 => 7
  | 5 => 2
  | 6 => 3
  | 7 => 1
  | 9 => 10
  | _ => 23

/-- Exponent bias. -/
def fmtBias (f : Nat) : Nat :=
  match f with
  | 0 => 7
  | 1 => 15
  | 4 => 127
  | 5 => 3
  | 6 => 1
  | 7 => 1
  | 9 => 15
  | _ => 127

/-- Largest exponent field. -/
def fmtEmask (f : Nat) : Nat := 2 ^ (fmtWidth f - 1 - fmtP f) - 1

/-- FP32, FP16, BF16 and FP8-E5M2: all-ones exponents are infinities and NaNs. -/
def fmtIeee (f : Nat) : Bool := f == 1 || f == 4 || f == 9 || f == 0xA

/-- The code of the largest finite magnitude. -/
def fmtMaxCode (f : Nat) : Nat :=
  if fmtIeee f then fmtEmask f * 2 ^ fmtP f - 1
  else if f = 0 then 0x7E
  else 2 ^ (fmtWidth f - 1) - 1

/-- The canonical NaN of R95; the formats without NaN write +0 (R116). -/
def fmtNan (f : Nat) : Nat :=
  match f with
  | 0 | 1 => 0x7F
  | 4 => 0x7FC0
  | 9 => 0x7E00
  | 0xA => 0x7FC00000
  | _ => 0

/-- The value of a signed or unsigned integer element. -/
def intOf (f v : Nat) : Int := if fmtSigned f then sfld v 0 (fmtWidth f) else (fld v 0 (fmtWidth f) : Int)

/-- An integer as an exact value. -/
def ofIntVal (i : Int) : FVal := .fin (i < 0) i.natAbs 0

/-- The exact value of an element (R94). -/
def fdecode (f v : Nat) : FVal :=
  if fmtIsInt f then ofIntVal (intOf f v)
  else
    let p := fmtP f
    let neg := bitOf v (fmtWidth f - 1)
    let e := fld v p (fmtWidth f - 1 - p)
    let m := fld v 0 p
    if fmtIeee f && e == fmtEmask f then (if m = 0 then .inf neg else .nan)
    else if f = 0 && e == 15 && m == 7 then .nan
    else if e = 0 then .fin neg m (1 - (fmtBias f : Int) - p)
    else .fin neg (2 ^ p + m) ((e : Int) - fmtBias f - p)

/-! ## Rounding (R82, R114, R119) -/

/-- Whether a magnitude with remainder r of 2^sh below its last place, and quotient q, rounds away from zero. Mode 7 is
the model's own: to nearest, a tie to the larger value (R104). -/
def roundsAway (rm rnd : Nat) (neg : Bool) (q r sh : Nat) : Bool :=
  match rm with
  | 0 => 2 ^ sh < 2 * r || (2 * r == 2 ^ sh && q % 2 == 1)
  | 1 => false
  | 2 => neg && 0 < r
  | 3 => !neg && 0 < r
  | 4 => rnd < r * 2 ^ 8 / 2 ^ sh
  | 5 => rnd < r * 2 ^ 12 / 2 ^ sh
  | 6 => rnd < r * 2 ^ 16 / 2 ^ sh
  | _ => 2 ^ sh < 2 * r || (2 * r == 2 ^ sh && !neg)

/-- The magnitude m · 2^e as a whole number of 2^q, rounded. -/
def roundAt (rm rnd : Nat) (neg : Bool) (m : Nat) (e q : Int) : Nat :=
  if q ≤ e then m * 2 ^ (e - q).toNat
  else
    let sh := (q - e).toNat
    let n := m / 2 ^ sh
    n + b2n (roundsAway rm rnd neg n (m % 2 ^ sh) sh)

/-- Round bits that a stochastic mode draws; 0 for the others. -/
def rmBits (rm : Nat) : Nat :=
  match rm with
  | 4 => 8
  | 5 => 12
  | 6 => 16
  | _ => 0

/-- A signed code: the sign bit above a magnitude code. -/
def withSign (f : Nat) (neg : Bool) (code : Nat) : Nat := code + b2n neg * 2 ^ (fmtWidth f - 1)

/-- The overflow result of a floating-point destination (R116). -/
def overflowCode (f rm : Nat) (neg satn : Bool) : Nat :=
  if f = 0 then (if satn then fmtNan 0 else withSign 0 neg 0x7E)
  else if !fmtIeee f then withSign f neg (fmtMaxCode f)
  else
    let toInf := match rm with
      | 1 => false
      | 2 => neg
      | 3 => !neg
      | _ => true
    withSign f neg (fmtMaxCode f + b2n toInf)

/-- A magnitude n · 2^q, n < 2^(p+1) or n = 2^(p+1), q at least the subnormal place, as a code; none beyond the largest
finite magnitude. -/
def magCode (f n : Nat) (q : Int) : Option Nat :=
  let p := fmtP f
  let n' := if 2 ^ (p + 1) ≤ n then n / 2 else n
  let q' := if 2 ^ (p + 1) ≤ n then q + 1 else q
  let code := if n' < 2 ^ p then n' else ((q' + p + fmtBias f).toNat - 1) * 2 ^ p + n'
  if code ≤ fmtMaxCode f then some code else none

/-- The exact value m · 2^e rounded to a floating-point format, before SUBN. -/
def roundFloat (f rm rnd : Nat) (satn neg : Bool) (m : Nat) (e : Int) : Nat :=
  if m = 0 then withSign f neg 0
  else
    let p := fmtP f
    let q := max ((Nat.log2 m : Int) + e - p) (1 - (fmtBias f : Int) - p)
    match magCode f (roundAt rm rnd neg m e q) q with
    | some c => withSign f neg c
    | none => overflowCode f rm neg satn

/-- SUBN on a result (R115): a non-zero result below the smallest normal becomes a zero of its sign. -/
def flush (f : Nat) (subn : Bool) (code : Nat) : Nat :=
  if !subn && !fmtIsInt f && fld code 0 (fmtWidth f - 1) < 2 ^ fmtP f
  then withSign f (bitOf code (fmtWidth f - 1)) 0 else code

/-- The ends of an integer format's range. -/
def intMin (f : Nat) : Int := if fmtSigned f then -((2 ^ (fmtWidth f - 1) : Nat) : Int) else 0
def intMax (f : Nat) : Int := if fmtSigned f then (2 ^ (fmtWidth f - 1) : Nat) - 1 else (2 ^ fmtWidth f : Nat) - 1

/-- An integer result under OVF (R83, R116). -/
def fitInt (f : Nat) (ovf : Bool) (i : Int) : Nat :=
  if ovf then ofInt (fmtWidth f) i
  else ofInt (fmtWidth f) (if i < intMin f then intMin f else if intMax f < i then intMax f else i)

/-- An exact value rounded once to a format under RM, OVF, SATN and SUBN (R114 to R116). -/
def fround (f rm rnd : Nat) (ovf satn subn : Bool) (v : FVal) : Nat :=
  if fmtIsInt f then
    match v with
    | .nan => 0
    | .inf neg => ofInt (fmtWidth f) (if neg then intMin f else intMax f)
    | .fin neg m e =>
      let n : Int := roundAt rm rnd neg m e 0
      fitInt f ovf (if neg then -n else n)
  else
    match v with
    | .nan => fmtNan f
    | .inf neg => if fmtIeee f then withSign f neg (fmtMaxCode f + 1) else overflowCode f rm neg satn
    | .fin neg m e => flush f subn (roundFloat f rm rnd satn neg m e)

/-! ## Exact arithmetic -/

/-- Whether an exact value is zero. -/
def FVal.isZero (v : FVal) : Bool :=
  match v with
  | .fin _ m _ => m == 0
  | _ => false

def FVal.isNan (v : FVal) : Bool :=
  match v with
  | .nan => true
  | _ => false

def FVal.isInf (v : FVal) (neg : Bool) : Bool :=
  match v with
  | .inf n => n == neg
  | _ => false

def FVal.negative (v : FVal) : Bool :=
  match v with
  | .nan => false
  | .inf n => n
  | .fin n _ _ => n

def FVal.neg (v : FVal) : FVal :=
  match v with
  | .nan => .nan
  | .inf n => .inf (!n)
  | .fin n m e => .fin (!n) m e

/-- A finite value as an integer number of 2^g, g at or below its exponent. -/
def FVal.units (v : FVal) (g : Int) : Int :=
  match v with
  | .fin neg m e =>
    let n : Int := (m * 2 ^ (e - g).toNat : Nat)
    if neg then -n else n
  | _ => 0

/-- Exponent of a finite value's last place. -/
def FVal.place (v : FVal) : Int :=
  match v with
  | .fin _ _ e => e
  | _ => 0

/-- The exact sum; an exact zero is −0 when both are −0, or under RDN when the signs differ (IEEE 754-2019). -/
def fadd (rm : Nat) (a b : FVal) : FVal :=
  match a, b with
  | .nan, _ | _, .nan => .nan
  | .inf x, .inf y => if x = y then .inf x else .nan
  | .inf x, _ => .inf x
  | _, .inf y => .inf y
  | .fin x m e, .fin y n d =>
    let g := min e d
    let s := (FVal.fin x m e).units g + (FVal.fin y n d).units g
    if s = 0 then .fin (if x = y then x else rm == 2) 0 0
    else .fin (s < 0) s.natAbs g

/-- The exact product. -/
def fmul (a b : FVal) : FVal :=
  match a, b with
  | .nan, _ | _, .nan => .nan
  | .inf x, v => if v.isZero then .nan else .inf (xor x v.negative)
  | v, .inf y => if v.isZero then .nan else .inf (xor y v.negative)
  | .fin x m e, .fin y n d => .fin (xor x y) (m * n) (e + d)

/-- Less-than on values that are not NaN, with −0 equal to +0. -/
def flt (a b : FVal) : Bool :=
  match a, b with
  | .nan, _ | _, .nan => false
  | .inf true, .inf true => false
  | .inf true, _ => true
  | .inf false, _ => false
  | _, .inf y => !y
  | .fin _ _ e, .fin _ _ d => a.units (min e d) < b.units (min e d)

/-- Equality of values, −0 equal to +0, NaN equal to nothing. -/
def feq (a b : FVal) : Bool := !a.isNan && !b.isNan && !flt a b && !flt b a

/-- VMIN and VMAX (R117): NaN if either is NaN, −0 below +0. -/
def fminmax (isMax : Bool) (a b : FVal) : FVal :=
  if a.isNan || b.isNan then .nan
  else
    let below := flt a b || (feq a b && a.negative)
    if below then (if isMax then b else a) else (if isMax then a else b)

/-! ## Integer roots and powers, for the approximations (R87) -/

/-- The integer square root, by bits from 2^k down. -/
def isqrtAux : Nat → Nat → Nat → Nat
  | 0, _, r => r
  | k + 1, n, r =>
    let r' := r + 2 ^ k
    isqrtAux k n (if r' * r' ≤ n then r' else r)

/-- The integer square root of a number below 2^128. -/
def isqrt (n : Nat) : Nat := isqrtAux 64 n 0

/-- 2^f in units of 2^−60, for f given by its k fraction bits, c being 2^(2^−j) of the bit in turn. -/
def exp2Aux : Nat → Nat → Nat → Nat → Nat
  | 0, _, _, acc => acc
  | k + 1, frac, c, acc =>
    exp2Aux k frac (isqrt (c * 2 ^ 60)) (if bitOf frac k then acc * c / 2 ^ 60 else acc)

/-- 2^(frac / 2^k) in units of 2^−60. -/
def exp2Frac (k frac : Nat) : Nat := exp2Aux k frac (isqrt (2 * 2 ^ 120)) (2 ^ 60)

/-- A positive FP32 code moved by a number of units in the last place, staying a finite positive code. -/
def nudge (code : Nat) (by_ : Int) : Nat := (min (max ((code : Int) + by_) 0) 0x7F7FFFFF).toNat

/-- The offset of an approximation whose result lies within n ulp: from the value cut toward zero, −n + 1 to n, or
−n to n where that value is exact (log 9). -/
def approxOff (op : Nat) (x : Nat) (n : Nat) (exact : Bool) : Int :=
  let pick := Config.ulpPick op (BitVec.ofNat 32 x)
  if exact then (pick % (2 * n + 1) : Nat) - (n : Int) else (pick % (2 * n) : Nat) - (n : Int) + 1

/-- An approximation's FP32 code: the magnitude m · 2^e cut toward zero, moved by its offset, under SUBN. -/
def approxCode (op x n : Nat) (exact neg subn : Bool) (m : Nat) (e : Int) : Nat :=
  let base := roundFloat 0xA 1 0 false false m e
  if (Nat.log2 m : Int) + e ≥ 128 then withSign 0xA neg 0x7F800000
  else
    let ex := exact && fdecode 0xA base == .fin false m e || exact && (fdecode 0xA base).units (min e (-200)) ==
      (FVal.fin false m e).units (min e (-200))
    flush 0xA subn (withSign 0xA neg (nudge base (approxOff op x n ex)))

/-- 2^a (R87), with the special values of IEEE 754-2019 (log 17). -/
def vexp2 (subn : Bool) (x : Nat) : Nat :=
  match fdecode 0xA x with
  | .nan => fmtNan 0xA
  | .inf neg => if neg then 0 else 0x7F800000
  | .fin neg m e =>
    -- a in units of 2^−60 where it is small enough to matter
    let n : Nat := if 0 ≤ e then m * 2 ^ (min e 10).toNat * 2 ^ 60 else m * 2 ^ 60 / 2 ^ (-e).toNat
    let whole : Nat := n / 2 ^ 60
    if 1000 ≤ whole then (if neg then 0 else 0x7F800000)
    else
      let fr : Nat := n % 2 ^ 60
      if fr = 0 && (0 ≤ e || m % 2 ^ (-e).toNat == 0) then
        approxCode 0 x 2 true false subn 1 (if neg then -(whole : Int) else whole)
      else if neg then approxCode 0 x 2 false false subn (exp2Frac 60 (2 ^ 60 - max fr 1)) (-60 - (whole : Int) - 1)
      else approxCode 0 x 2 false false subn (exp2Frac 60 fr) ((whole : Int) - 60)

/-- 1/a (R87). -/
def vrcp (subn : Bool) (x : Nat) : Nat :=
  match fdecode 0xA x with
  | .nan => fmtNan 0xA
  | .inf neg => withSign 0xA neg 0
  | .fin neg m e =>
    if m = 0 then withSign 0xA neg 0x7F800000
    else approxCode 1 x 1 (2 ^ 80 % m == 0) neg subn (2 ^ 80 / m) (-80 - e)

/-- 1/√a (R87). -/
def vrsq (subn : Bool) (x : Nat) : Nat :=
  match fdecode 0xA x with
  | .nan => fmtNan 0xA
  | .inf neg => if neg then fmtNan 0xA else 0
  | .fin neg m e =>
    if m = 0 then withSign 0xA neg 0x7F800000
    else if neg then fmtNan 0xA
    else
      let odd := e % 2 != 0
      let m' := if odd then 2 * m else m
      let e' := if odd then e - 1 else e
      let r := isqrt (2 ^ 120 / m')
      approxCode 2 x 1 (r * r * m' == 2 ^ 120) false subn r (-60 - e' / 2)

end Sys2Proof.Machine
end

