-- ==== Sys2Proof/Machine/Vector.lean ====
section
/-! DEFINITION. The vector engine on 1,024-bit images (R113 to R122, R135, R136) and the stochastic generators. -/

namespace Sys2Proof.Machine

open Sys2Proof

/-! ## Generators (R120 to R122) -/

/-- One advance of a generator state. -/
def advance (x : BitVec 64) : BitVec 64 :=
  let x := x ^^^ (x <<< 13)
  let x := x ^^^ (x >>> 7)
  x ^^^ (x <<< 17)

/-- The states of a slot's 32 generators. -/
abbrev Gens := Vector (BitVec 64) 32

/-- One draw of a lane under a rounding mode: the top bits of the state after one advance; no advance unless the mode
is stochastic. -/
def drawLane (rm : Nat) (g : Gens) (lane : Nat) : Nat × Gens :=
  if rmBits rm = 0 then (0, g)
  else
    let x := advance (vget g lane)
    ((x >>> (64 - rmBits rm)).toNat, vset g lane x)

/-- The state SRSEED gives a lane (R122). -/
def seedLane (seed lindex slot lane : Nat) : BitVec 64 :=
  let key := lindex * 128 + slot * 32 + lane
  let z : BitVec 64 := BitVec.ofNat 64 (seed + (key + 1) * 0x9E3779B97F4A7C15)
  let z := (z ^^^ (z >>> 30)) * 0xBF58476D1CE4E5B9
  let z := (z ^^^ (z >>> 27)) * 0x94D049BB133111EB
  let z := z ^^^ (z >>> 31)
  if z = 0 then 0x2545F4914F6CDD1D else z

/-- SRSEED: all 32 states. -/
def seedAll (seed lindex slot : Nat) : Gens := Vector.ofFn fun l => seedLane seed lindex slot l.val

/-! ## Elements of an image (R135) -/

/-- Elements of a format in a register: 6-bit elements count as 8 bits. -/
def fmtCount (f : Nat) : Nat := if f = 5 || f = 6 then 128 else 1024 / fmtWidth f

/-- Element i of width w. -/
def elem (img w i : Nat) : Nat := fld img (w * i) w

/-- An image built from element codes, in order, drawing for each one where the mode is stochastic: lane i says whose
generator draws, f i rnd is the element's code. -/
def vbuild (n w rm : Nat) (lane : Nat → Nat) (f : Nat → Nat → Nat) (g : Gens) : Nat × Gens :=
  (List.range n).foldl (fun acc i =>
    let d := drawLane rm acc.2 (lane i)
    (acc.1 + fld (f i d.1) 0 w * 2 ^ (w * i), d.2)) (0, g)

/-- The same without draws. -/
def vbuild0 (n w : Nat) (f : Nat → Nat) : Nat :=
  (List.range n).foldl (fun acc i => acc + fld (f i) 0 w * 2 ^ (w * i)) 0

/-- One element of VADD, VSUB, VMUL, VMIN, VMAX (opcodes 1, 2, 3, 5, 6) in an integer format (R117). -/
def intElem (op f : Nat) (ovf : Bool) (x y : Nat) : Nat :=
  let a := intOf f x
  let b := intOf f y
  match op with
  | 1 => fitInt f ovf (a + b)
  | 2 => fitInt f ovf (a - b)
  | 3 => fitInt f ovf (a * b)
  | 5 => if a < b then x else y
  | _ => if a < b then y else x

/-- The same in a floating-point format: exact, then rounded once (R114); the minimum and maximum are exact. -/
def floatElem (op f rm rnd : Nat) (subn : Bool) (x y : Nat) : Nat :=
  let a := fdecode f x
  let b := fdecode f y
  match op with
  | 1 => fround f rm rnd false false subn (fadd rm a b)
  | 2 => fround f rm rnd false false subn (fadd rm a b.neg)
  | 3 => fround f rm rnd false false subn (fmul a b)
  | 5 => fround f 0 0 false false subn (fminmax false a b)
  | _ => fround f 0 0 false false subn (fminmax true a b)

/-- The relation of VCMP: 0 EQ, 1 NE, 2 LT, 3 LE (R87, R117). -/
def vrel (rel f x y : Nat) : Bool :=
  if fmtIsInt f then
    let a := intOf f x
    let b := intOf f y
    match rel with
    | 0 => a == b
    | 1 => a != b
    | 2 => a < b
    | _ => a ≤ b
  else
    let a := fdecode f x
    let b := fdecode f y
    match rel with
    | 0 => feq a b
    | 1 => !feq a b
    | 2 => flt a b
    | _ => flt a b || feq a b

/-- VSHL and VSHR on one element (R87): the amount is the other element read unsigned. -/
def shiftElem (right : Bool) (f x amount : Nat) : Nat :=
  let w := fmtWidth f
  if !right then (if w ≤ amount then 0 else x * 2 ^ amount % 2 ^ w)
  else if fmtSigned f then ofInt w (intOf f x / (2 ^ min amount w : Nat))
  else x / 2 ^ amount

/-- VCVT (R136): N elements of the wider width, 6-bit counting as 8. -/
def vcvt (src dst rm : Nat) (ovf satn subn : Bool) (a : Nat) (g : Gens) : Nat × Gens :=
  let cw (f : Nat) := if f = 5 || f = 6 then 8 else fmtWidth f
  let n := 1024 / max (cw src) (cw dst)
  let ws := fmtWidth src
  vbuild n (fmtWidth dst) rm (fun i => ws * i / 32)
    (fun i rnd => fround dst rm rnd ovf satn subn (fdecode src (elem a ws i))) g

/-- One level of the tree of VRED: lane l + k combined into lane l for l below k, drawing in lane order (R118). -/
def vredLevel (sum : Bool) (step : Nat → Nat → Nat → Nat) (rm k : Nat) (ls : List Nat) (g : Gens) : List Nat × Gens :=
  (List.range k).foldl (fun acc l =>
    let d := if sum then drawLane rm acc.2 l else (0, acc.2)
    (acc.1 ++ [step (ls.getD l 0) (ls.getD (l + k) 0) d.1], d.2)) ([], g)

/-- VRED: 0 sum, 1 max, 2 min (R118). SUBN acts on the result of the whole VRED. -/
def vred (kind f rm : Nat) (ovf subn : Bool) (a : Nat) (g : Gens) : Nat × Gens :=
  let step (x y rnd : Nat) : Nat :=
    if fmtIsInt f then intElem (match kind with | 0 => 1 | 1 => 6 | _ => 5) f ovf x y
    else
      match kind with
      | 0 => fround f rm rnd false false true (fadd rm (fdecode f x) (fdecode f y))
      | k => fround f 0 0 false false true (fminmax (k == 1) (fdecode f x) (fdecode f y))
  let sum := kind == 0 && !fmtIsInt f
  let ls := (List.range 32).map fun l => elem a 32 l
  let r := [16, 8, 4, 2, 1].foldl (fun acc k => vredLevel sum step rm k acc.1 acc.2) (ls, g)
  (flush f subn (r.1.getD 0 0), r.2)

/-- One lane of a pair instruction (R113): hi as it is written, and lo from the exact sum or product less that hi (log 23). -/
def pairLane (subn : Bool) (s : FVal) : Nat × Nat :=
  let hi := fround 0xA 0 0 false false subn s
  let lo := match s, fdecode 0xA hi with
    | .fin n m e, .fin n' m' e' => fround 0xA 0 0 false false subn
        (if m = 0 then .fin false 0 0 else fadd 0 (.fin n m e) (.fin (!n') m' e'))
    | _, _ => 0
  (hi, lo)

/-- The exact sum of several values under one rule for zeros: −0 only when every one is −0. -/
def fsum (vs : List FVal) : FVal :=
  match vs with
  | [] => .fin false 0 0
  | v :: r => r.foldl (fadd 0) v

/-- What a V part computes (R87): the image for DST, the image for DST + 1 of a pair instruction, and the generators.
a, b, c are the source images, a1 and b1 the odd registers of pair sources, x the scalar operand. -/
def vcompute (subn : Bool) (w a b c a1 b1 x : Nat) (g : Gens) : Nat × Nat × Gens :=
  let f := vFmt w
  let rm := vRm w
  let n := fmtCount f
  let ew := fmtWidth f
  let lane (i : Nat) := ew * i / 32
  let one (img : Nat) : Nat × Nat × Gens := (img, 0, g)
  let arith (op : Nat) : Nat × Nat × Gens :=
    if fmtIsInt f then one (vbuild0 n ew fun i => intElem op f (vOvf w) (elem a ew i) (elem b ew i))
    else
      let r := vbuild n ew (if op ≤ 3 then rm else 0) lane
        (fun i rnd => floatElem op f rm rnd subn (elem a ew i) (elem b ew i)) g
      (r.1, 0, r.2)
  let pair (s : Nat → FVal) : Nat × Nat × Gens :=
    (vbuild0 32 32 fun l => (pairLane subn (s l)).1, vbuild0 32 32 fun l => (pairLane subn (s l)).2, g)
  let d (img l : Nat) : FVal := fdecode 0xA (elem img 32 l)
  match vOp w with
  | 0x01 => arith 1
  | 0x02 => arith 2
  | 0x03 => arith 3
  | 0x04 =>
    let r := vbuild n ew rm lane (fun i rnd => fround f rm rnd false false subn
      (fadd rm (fmul (fdecode f (elem a ew i)) (fdecode f (elem b ew i))) (fdecode f (elem c ew i)))) g
    (r.1, 0, r.2)
  | 0x05 => arith 5
  | 0x06 => arith 6
  | 0x07 => one (vbuild0 n ew fun i => if vrel (vSrc3 w / 8) f (elem a ew i) (elem b ew i) then 2 ^ ew - 1 else 0)
  | 0x08 => one (vbuild0 n ew fun i => if elem c ew i != 0 then elem a ew i else elem b ew i)
  | 0x09 => one (a &&& b)
  | 0x0A => one (a ||| b)
  | 0x0B => one (a ^^^ b)
  | 0x0C => one (vbuild0 n ew fun i => shiftElem false f (elem a ew i) (elem b ew i))
  | 0x0D => one (vbuild0 n ew fun i => shiftElem true f (elem a ew i) (elem b ew i))
  | 0x0E =>
    let r := vcvt (vSrc3 w % 16) f rm (vOvf w) (bitOf (vSrc3 w) 5) subn a g
    (r.1, 0, r.2)
  | 0x0F =>
    let r := vred (vSrc3 w / 8) f rm (vOvf w) subn a g
    (r.1, 0, r.2)
  | 0x10 => one (vbuild0 32 32 fun l => elem a 32 (elem b 32 l % 32))
  | 0x11 => one (vbuild0 32 32 fun _ => x % 2 ^ 32)
  | 0x12 => one (vbuild0 32 32 fun l => vexp2 subn (elem a 32 l))
  | 0x13 => one (vbuild0 32 32 fun l => vrcp subn (elem a 32 l))
  | 0x14 => one (vbuild0 32 32 fun l => vrsq subn (elem a 32 l))
  | 0x18 => pair fun l => fadd 0 (d a l) (d b l)
  | 0x19 => pair fun l => fmul (d a l) (d b l)
  | 0x1A => pair fun l => fsum [d a l, d a1 l, d b l, d b1 l]
  | 0x1B => pair fun l => fadd 0 (d a l) (d a1 l)
  | _ => one 0

end Sys2Proof.Machine
end

