-- ==== Sys2Proof/Machine/Tile.lean ====
section
/-! DEFINITION. The arithmetic of tile operations (R98 to R112, R123 to R128): scales, products, limbs, the alignment
rule, integer accumulation, and the conversion of accumulator rows. -/

namespace Sys2Proof.Machine

open Sys2Proof

/-- A 4-bit format. -/
def fmt4 (f : Nat) : Bool := f == 7 || f == 8

/-- K extent of a tile operation (R98). -/
def kExtent (fa fb : Nat) : Nat := if fmt4 fa && fmt4 fb then 32 else 16

/-- Bytes of a streamed row (R124). -/
def sRowBytes (fa kt : Nat) : Nat := kt * fmtWidth fa / 8

/-- Bytes of a weight row or an output row (R124). -/
def oRowBytes (f : Nat) : Nat := 32 * fmtWidth f / 8

/-- Rows that a TILE.LD loads, and the tile's bytes (R124). -/
def ldRows (fb : Nat) : Nat := if fmt4 fb then 32 else 16
def ldBytes (fb : Nat) : Nat := ldRows fb * oRowBytes fb

/-- Cycles of the load path (R126). -/
def ldCycles (fb : Nat) (queue : Bool) : Nat := if queue then 2 else (ldBytes fb + 127) / 128

/-- Limb pairs of a TILE.MAC mode, in pass order (R109); none for the one-pass pairs. -/
def limbPairs (fa : Nat) (exact : Bool) : List (Nat × Nat) :=
  if fa = 9 then [(0, 0), (0, 1), (1, 0)] ++ (if exact then [(1, 1)] else [])
  else if fa = 0xA then
    [(0, 0), (0, 1), (1, 0), (0, 2), (1, 1), (2, 0)] ++ (if exact then [(1, 2), (2, 1), (2, 2)] else [])
  else []

/-- Passes per row P (R128). -/
def passes (fa : Nat) (exact : Bool) : Nat := max 1 (limbPairs fa exact).length

/-- The value of a scale byte (R99). -/
def scaleVal (sfmt : Nat) (b : Byte) : FVal :=
  match sfmt with
  | 1 => if b.toNat = 0xFF then .nan else .fin false 1 ((b.toNat : Int) - 127)
  | 2 => fdecode 0 b.toNat
  | _ => .fin false 1 0

/-! ## Scale descriptors (R84, R100) -/

def sdFmt (v : Nat) : Nat := fld v 0 2
def sdBlk (v : Nat) : Nat := 8 * 2 ^ fld v 2 3
def sdDir (v : Nat) : Bool := bitOf v 5
def sdBase (v : Nat) : Nat := fld v 8 19
def sdStride (v : Nat) : Nat := fld v 32 16

/-- The window-relative offset of the scale of position k along K in row or column r (R100). -/
def scaleOff (v r k : Nat) : Nat :=
  if sdDir v then sdBase v + k * sdStride v + r / sdBlk v else sdBase v + r * sdStride v + k / sdBlk v

/-! ## Products (R101, R108 to R110) -/

/-- Limb i of an element's integer significand (R108). -/
def limb (f m i : Nat) : Nat := if f = 9 then fld (m * 32) (8 * (1 - i)) 8 else fld m (8 * (2 - i)) 8

/-- The product of two elements of a TILE.MAC mode: FP16 and FP32 significands by the included limb pairs, every other
pair whole. A product whose included limb products are all zero, though it is not, keeps the exact product's sign: the spec states none, and it decides between −0 and +0
of an all-zero sum (DESIGN CHOICE, log 81). -/
def elemProduct (fa : Nat) (exact : Bool) (a b : FVal) : FVal :=
  match limbPairs fa exact, a, b with
  | [], _, _ => fmul a b
  | ps, .fin x m e, .fin y n d =>
    let last := if fa = 9 then 2 else 4
    let lo : Int := if fa = 9 then 10 else 0
    .fin (xor x y) ((ps.map fun p => limb fa m p.1 * limb fa n p.2 * 2 ^ (8 * (last - p.1 - p.2))).sum) (e + d - lo)
  | _, _, _ => fmul a b

/-- The product of streamed element a under sa and weight b under sb (R101). -/
def scaledProduct (fa : Nat) (exact : Bool) (a sa b sb : FVal) : FVal :=
  if a.isNan || b.isNan || sa.isNan || sb.isNan then .nan
  else if (a.isInf true || a.isInf false || b.isInf true || b.isInf false) && (sa.isZero || sb.isZero) then .nan
  else fmul (elemProduct fa exact a b) (fmul sa sb)

/-! ## Accumulation (R104 to R106, R111) -/

/-- floor(log2 |t|) of a non-zero finite term. -/
def leadOf (v : FVal) : Int :=
  match v with
  | .fin _ m e => (Nat.log2 m : Int) + e
  | _ => 0

/-- A term cut to the grid 2^g toward −∞, in units of the grid. -/
def gridFloor (g : Int) (v : FVal) : Int :=
  match v with
  | .fin neg m e =>
    let n : Int := if neg then -(m : Int) else m
    if g ≤ e then n * (2 ^ (e - g).toNat : Nat) else n / (2 ^ (g - e).toNat : Nat)
  | _ => 0

/-- Whether the cut changed the term. -/
def gridCut (g : Int) (v : FVal) : Bool :=
  match v with
  | .fin _ m e => e < g && m % 2 ^ (g - e).toNat != 0
  | _ => false

/-- The alignment rule of R104, with the pair form of R111: the main and the low word. The low word is formed from the main word before SUBN acts on it; the spec does not say
which (DESIGN CHOICE, log 82). -/
def accumulate (subn pair : Bool) (ts : List FVal) : Nat × Nat :=
  if ts.any FVal.isNan || (ts.any (·.isInf true) && ts.any (·.isInf false)) then (fmtNan 0xA, 0)
  else if ts.any (·.isInf true) then (0xFF800000, 0)
  else if ts.any (·.isInf false) then (0x7F800000, 0)
  else
    let nz := ts.filter fun t => !t.isZero
    match nz with
    | [] => (if ts.all FVal.negative then 0x80000000 else 0, 0)
    | t :: r =>
      let g : Int := r.foldl (fun a v => max a (leadOf v)) (leadOf t) - 63
      let s : Int := (nz.map (gridFloor g)).sum
      let sticky := nz.any (gridCut g)
      if s = 0 then (0, 0)
      else
        let hi := roundFloat 0xA (if sticky then 7 else 0) 0 false (s < 0) s.natAbs g
        let lo := if !pair then 0 else match fdecode 0xA hi with
          | .fin n m e => fround 0xA 0 0 false false subn
              (fadd 0 (.fin (s < 0) s.natAbs g) (.fin (!n) m e))
          | _ => 0
        (flush 0xA subn hi, lo)

/-- One TILE.MAC over one row (R104 to R106, R111, R123): stream and weight images, scale bytes by index
(32·row + k and 32·k + column), and the row as it stands. -/
def macRow (fa fb kt : Nat) (exact pair clr ovf subn : Bool) (sfa sfb : Nat) (stream weights : Nat)
    (scA scB : Bytes) (m : Nat) (row : AccRow) : AccRow :=
  let int := fmtIsInt fa && fmtIsInt fb && sfa == 0 && sfb == 0
  let a (k : Nat) : Nat := elem stream (fmtWidth fa) (m * kt + k)
  let b (k n : Nat) : Nat := elem weights (fmtWidth fb) (k * 32 + n)
  if int then
    { isInt := true, low := 0,
      main := BitVec.ofNat 1024 (vbuild0 32 32 fun n =>
        let s := ((List.range kt).map fun k => intOf fa (a k) * intOf fb (b k n)).sum
        fitInt 0xB ovf (s + if clr then 0 else intOf 0xB (elem row.main.toNat 32 n))) }
  else
    let entry (n : Nat) : Nat × Nat :=
      let ps := (List.range kt).map fun k =>
        scaledProduct fa exact (fdecode fa (a k)) (scaleVal sfa (scA.getD (32 * m + k) 0))
          (fdecode fb (b k n)) (scaleVal sfb (scB.getD (32 * k + n) 0))
      let old := if clr then [] else
        [fdecode 0xA (elem row.main.toNat 32 n), fdecode 0xA (elem row.low.toNat 32 n)]
      accumulate subn pair (ps ++ old)
    { isInt := false, main := BitVec.ofNat 1024 (vbuild0 32 32 fun n => (entry n).1),
      low := BitVec.ofNat 1024 (vbuild0 32 32 fun n => (entry n).2) }

/-- The exact value of an accumulator entry as TILE.ST reads it (R112). -/
def entryVal (row : AccRow) (n : Nat) : FVal :=
  if row.isInt then ofIntVal (intOf 0xB (elem row.main.toNat 32 n))
  else
    let hi := fdecode 0xA (elem row.main.toNat 32 n)
    let lo := fdecode 0xA (elem row.low.toNat 32 n)
    if lo.isZero then hi else fadd 0 hi lo

/-- One row of TILE.ST output under FMT, RM, OVF, SATN and SUBN; lane n draws for column n (R112, R121, R132). -/
def stRow (f rm : Nat) (ovf satn subn : Bool) (row : AccRow) (g : Gens) : Bytes × Gens :=
  let r := vbuild 32 (fmtWidth f) rm id (fun n rnd => fround f rm rnd ovf satn subn (entryVal row n)) g
  (toBytes (oRowBytes f) r.1, r.2)

/-- The output of a TILE.ST, rows in ascending order. -/
def stRows (f rm : Nat) (ovf satn subn : Bool) (rows : List AccRow) (g : Gens) : Bytes × Gens :=
  rows.foldl (fun acc row =>
    let r := stRow f rm ovf satn subn row acc.2
    (acc.1 ++ r.1, r.2)) ([], g)

/-- An accumulator row of a core. -/
def Core.accRow (k : Core) (i : Nat) : AccRow := agetD k.acc i {}

def Core.setAcc (k : Core) (i : Nat) (r : AccRow) : Core := { k with acc := aset k.acc i r }

/-- Rows set to all-zero bits, their type kept (R103). -/
def Core.zeroAcc (k : Core) (first n : Nat) : Core :=
  (List.range n).foldl (fun k i => k.setAcc (first + i) { k.accRow (first + i) with main := 0, low := 0 }) k

/-- The rows of a TILE.MAC updated (R104 to R107). -/
def Core.macRows (k : Core) (fa : Nat) (buf : WBuf) (sfa : Nat) (exact pair clr ovf subn : Bool) (acc rows : Nat)
    (stream scales : Bytes) : Core :=
  let fb := buf.fmtb.toNat
  let kt := kExtent fa fb
  let img := ofBytes stream
  let wimg := ofBytes buf.tile
  (List.range rows).foldl (fun k m =>
    k.setAcc (acc + m) (macRow fa fb kt exact pair clr ovf subn sfa buf.sfmt.toNat img wimg scales buf.scales m
      (k.accRow (acc + m)))) k

end Sys2Proof.Machine
end

