-- ==== Sys2Proof/Machine/Inject.lean ====
section
/-! DEFINITION. What enters the mesh from a core: paths and seams, token buckets, flits and messages, send ports, and
huddle signals (R176 to R186, R193 to R195, R203, R213, R214, R218 to R224, R266, R268). -/

namespace Sys2Proof.Machine

open Sys2Proof

/-! ## Paths (R187, R203, R264) -/

/-- Width of a link: 1 fenced, 2 half, 3 full (R22, R42; DESIGN CHOICE of log 7: every link is full as shipped); south selects the S link of the core, else its E link. -/
def Mach.linkWidth (m : Mach) (c : Nat) (south : Bool) : Nat := agetD m.wafer.links (c * 2 + b2n south) 3

/-- Whether a link crosses a seam (R21). -/
def linkSeam (c : Nat) (south : Bool) : Bool := if south then coreY c % 48 == 47 else coreX c % 48 == 47

/-- Cycles per flit on a link (R176). -/
def Mach.linkCycles (m : Mach) (c : Nat) (south : Bool) : Nat :=
  (if linkSeam c south then 2 else 1) * (if m.linkWidth c south = 2 then 2 else 1)

/-- Cycles per flit on the slowest link of the path (R152, R203). -/
def Mach.pathCycles (m : Mach) (c d : Nat) : Nat :=
  let xs := (List.range (absDiff (coreX c) (coreX d))).map fun i =>
    m.linkCycles (coreAt (min (coreX c) (coreX d) + i) (coreY c)) false
  let ys := (List.range (absDiff (coreY c) (coreY d))).map fun i =>
    m.linkCycles (coreAt (coreX d) (min (coreY c) (coreY d) + i)) true
  (xs ++ ys).foldl max 1

/-- Vertical segments that the columns from a to b cross in field row j, and horizontal ones that the rows from a to b
cross in field column i (R264). -/
def vertSegs (a b j : Nat) : List Nat :=
  ((List.range 7).filter fun k => min a b < 48 * (k + 1) && 48 * (k + 1) ≤ max a b).map fun k => k * 7 + j

def horizSegs (a b i : Nat) : List Nat :=
  ((List.range 6).filter fun k => min a b < 48 * (k + 1) && 48 * (k + 1) ≤ max a b).map fun k => 49 + k * 8 + i

/-- Segments of the path between two cores. -/
def pathSegs (c d : Nat) : List Nat :=
  vertSegs (coreX c) (coreX d) (coreY c / 48) ++ horizSegs (coreY c) (coreY d) (coreX d / 48)

/-! ## Multicast targets (R193) -/

def mcX0 (t : Nat) : Nat := fld t 0 9
def mcY0 (t : Nat) : Nat := fld t 9 9
def mcX1 (t : Nat) : Nat := fld t 18 9
def mcY1 (t : Nat) : Nat := fld t 27 9
def mcSpace (t : Nat) : Nat := fld t 36 4
def mcGran (t : Nat) : Nat := fld t 40 14
def mcXs (t : Nat) : Nat := fld t 54 3 + 1
def mcYs (t : Nat) : Nat := fld t 57 3 + 1

/-- Whether a column, a row holds members. -/
def mcCol (t x : Nat) : Bool := mcX0 t ≤ x && x ≤ mcX1 t && (x - mcX0 t) % mcXs t == 0
def mcRow (t y : Nat) : Bool := mcY0 t ≤ y && y ≤ mcY1 t && (y - mcY0 t) % mcYs t == 0

/-- Whether a core is a member. -/
def mcMember (t c : Nat) : Bool := mcCol t (coreX c) && mcRow t (coreY c)

/-- The member columns and rows. -/
def mcCols (t : Nat) : List Nat := (List.range 384).filter (mcCol t)
def mcRows (t : Nat) : List Nat := (List.range 336).filter (mcRow t)

/-- The segments that a multicast's tree from core c crosses, each once (R194, R266). -/
def treeSegs (c t : Nat) : List Nat :=
  let cols := mcCols t
  let rows := mcRows t
  ((cols.map fun x => vertSegs (coreX c) x (coreY c / 48) ++
      (rows.map fun y => horizSegs (coreY c) y (x / 48)).flatten).flatten).eraseDups

/-! ## Token buckets (R266, R268) -/

def injKey (c cid : Nat) : Nat := (c * 1024 + cid) * 4
def seamKey (c cid : Nat) : Nat := (c * 1024 + cid) * 4 + 1
def ubKey (c cid : Nat) : Nat := (c * 1024 + cid) * 4 + 2
def egressKey (p tag : Nat) : Nat := (p * 65536 + tag) * 4 + 3

/-- Whether an access of n tokens can begin: the bucket holds them, or, for one larger than its depth, is full (log 87); nothing is owed to it. -/
def Bucket.has (b : Bucket) (n : Nat) : Bool := n == 0 || (0 < b.rate && b.owed == 0 && min n (2 * b.rate) ≤ b.tokens)

/-- A bucket charged n tokens: what it does not hold is owed, and paid by the next refills. -/
def Bucket.take (b : Bucket) (n : Nat) : Bucket :=
  { b with tokens := b.tokens - min n b.tokens, owed := b.owed + (n - min n b.tokens), charged := b.charged + n }

/-- Tokens of all that was charged that have been paid. -/
def Bucket.paid (b : Bucket) : Nat := b.charged - b.owed

/-- Whether n tokens of a bucket can be had; a bucket that admission has not set up limits nothing (log 24). -/
def Mach.hasTok (m : Mach) (key n : Nat) : Bool :=
  match aget m.buckets key with
  | some b => b.has n
  | none => true

/-- Take n tokens. -/
def Mach.takeTok (m : Mach) (key n : Nat) : Mach :=
  match aget m.buckets key with
  | some b => { m with buckets := aset m.buckets key (b.take n) }
  | none => m

/-- Whether a context's tokens admission n flits from core c over s seam segments. -/
def Mach.hasFlitTok (m : Mach) (c cid n s : Nat) : Bool :=
  m.hasTok (injKey c cid) n && m.hasTok (seamKey c cid) (n * s)

def Mach.takeFlitTok (m : Mach) (c cid n s : Nat) : Mach :=
  (m.takeTok (injKey c cid) n).takeTok (seamKey c cid) (n * s)

/-- What must have been paid to a bucket before flit i of a message goes, each flit costing n; nothing where the bucket holds the tokens of the whole message. -/
def Mach.dueAt (m : Mach) (key n flits i : Nat) : List (Nat × Nat) :=
  match aget m.buckets key with
  | some b => if b.tokens < n * flits then [(key, b.charged + n * (i + 1))] else []
  | none => []

/-- The flits of a message of a context at core c, whose path crosses s seam segments, charged to its buckets (R266); firmware's take no tokens (R268). -/
def Mach.payFlits (m : Mach) (c cid s : Nat) (fs : List Flit) : List Flit × Mach :=
  if fs.any fun f => f.fw then (fs, m)
  else (fs.zipIdx.map fun x => { x.1 with due := m.dueAt (injKey c cid) 1 fs.length x.2 ++ m.dueAt (seamKey c cid) s fs.length x.2 },
        m.takeFlitTok c cid fs.length s)

/-- Whether the tokens of a flit have been paid. -/
def Mach.duePaid (m : Mach) (f : Flit) : Bool := f.due.all fun d => match aget m.buckets d.1 with
  | some b => d.2 ≤ b.paid
  | none => true

/-! ## Router buffers (R183) -/

/-- Key of an input buffer: port (0 N, 1 E, 2 S, 3 W, 4 local, 5 attachment), channel, virtual channel. -/
def bufKey (port ch : Nat) (det : Bool) : Nat := port * 16 + ch * 2 + b2n det

/-- Flits that a buffer of a channel holds. -/
def bufCap (ch : Nat) : Nat := if ch = 5 then 4 else 8

def Core.buf (k : Core) (key : Nat) : List Flit := agetD k.router.bufs key []

def Core.setBuf (k : Core) (key : Nat) (l : List Flit) : Core :=
  { k with router := { k.router with bufs := if l.isEmpty then adel k.router.bufs key else aset k.router.bufs key l } }

/-- Whether n flits of an ordinary channel can enter the router from the core. -/
def Core.hasRoom (k : Core) (port ch n : Nat) : Bool := (k.buf (bufKey port ch false)).length + n ≤ bufCap ch

/-- Flits put at the end of an input buffer. -/
def Core.enqueue (k : Core) (port ch : Nat) (fs : List Flit) : Core :=
  let key := bufKey port ch false
  k.setBuf key (k.buf key ++ fs)

/-- A message as flits: one per chunk, a token as one flit (R178, R181). -/
def mkMsg (base : Flit) (chunks : List (BitVec 256)) : List Flit :=
  match chunks with
  | [] => [{ base with token := true, head := true, tail := true, rest := 0 }]
  | _ => (List.range chunks.length).map fun i =>
      { base with pay := chunks.getD i 0, head := i == 0, tail := i + 1 == chunks.length,
                  rest := chunks.length - 1 - i }

/-- A message's bytes as chunks, the last one zero-filled. -/
def chunksOf : Nat → Bytes → List (BitVec 256)
  | 0, _ => []
  | n + 1, b => if b.isEmpty then [] else BitVec.ofNat 256 (ofBytes (b.take 32)) :: chunksOf n (b.drop 32)

/-- Bytes as 32 B chunks. -/
def toChunks (b : Bytes) : List (BitVec 256) := chunksOf b.length b

/-! ## Send ports (R80, R213, R214) -/

/-- The binding of a send port as a target: channel, target, whether it is a multicast, and its logical core; none
where the port is unbound or its group is not valid (R195). -/
def sendTarget (k : Core) (cid v : Nat) : Option (Nat × Nat × Bool × Nat) :=
  let q := fld v 2 3
  match fld v 0 2 with
  | 1 => some (2, waOf 2 (fld v 5 17) q, false, fld v 5 17)
  | 2 => some (3, fld v 5 9 + fld v 14 9 * 2 ^ 9 + fld v 23 9 * 2 ^ 18 + fld v 32 9 * 2 ^ 27 + 2 * 2 ^ 36 +
                  q * 2 ^ 40 + fld v 41 3 * 2 ^ 54 + fld v 44 3 * 2 ^ 57, true, 0)
  | 3 => (aget k.router.groups (cid * 256 + fld v 5 8)).map fun g =>
      (3, g.toNat % 2 ^ 36 + 2 * 2 ^ 36 + q * 2 ^ 40 + g.toNat / 2 ^ 54 * 2 ^ 54, true, 0)
  | _ => none

/-- Whether sends to a logical core are held by a substitution in progress (R416). -/
def Mach.holding (m : Mach) (core : Nat) : Bool :=
  m.wafer.subst.toList.any fun e => e.orig == core && e.holding

/-- Seam segments that a target's flits cross from core c. -/
def Mach.targetSegs (m : Mach) (c : Nat) (mc : Bool) (target core : Nat) : Nat :=
  if mc then (treeSegs c target).length else min 1 (seams c (m.runs core))

/-- Whether a message of n flits (a token counts one) can enter the router at a bound port, with pre flits of the same
bundle before it (R80, R268). -/
def Mach.canSend (m : Mach) (c cid v n pre : Nat) : Bool :=
  match sendTarget (m.core c) cid v with
  | none => true
  | some (ch, target, mc, core) =>
    (m.core c).hasRoom 4 ch (n + pre) && m.hasFlitTok c cid (n + pre) (m.targetSegs c mc target core) &&
    (mc || !m.holding core)

/-- Count a message of a slot as not yet acknowledged, or, to its own core, not yet delivered (R85). -/
def countSent (v : Slot) (own : Bool) : Slot :=
  if own then { v with run := { v.run with localMsgs := v.run.localMsgs + 1 } }
  else { v with run := { v.run with acks := v.run.acks + 1 } }

/-- Send one message of a slot through a send-port value (R214), with SLOT_PC at the issue of its bundle; nothing where the port is unbound. A copy that a multicast
makes for the slot's own core counts as a message to that core, too (R85). -/
def Mach.send (m : Mach) (c s pc v : Nat) (chunks : List (BitVec 256)) : Mach :=
  let k := m.core c
  let cid := (k.slot s).ctl.cid.toNat
  match sendTarget k cid v with
  | none => m
  | some (ch, target, mc, core) =>
    let dest := m.runs core
    let t := if mc then target else waOf 2 dest (waOff target)
    let base : Flit := { src := c, cid := BitVec.ofNat 10 cid, chan := ch, op := 2, tag := BitVec.ofNat 8 (s * 64),
                         target := BitVec.ofNat 60 t, mc := mc, wa := BitVec.ofNat 48 (if mc then 0 else target),
                         why := if mc then .mcast k.router.mcSerial else .store s pc, front := m.cc + 1 }
    let paid := m.payFlits c cid (m.targetSegs c mc target core) (mkMsg base chunks)
    paid.2.onCore c fun k =>
      let k := { k with router := { k.router with mcSerial := k.router.mcSerial + b2n mc } }
      (k.enqueue 4 ch paid.1).onSlot s fun x =>
        if mc && mcMember target (m.logical c) then countSent (countSent x false) true else countSent x (!mc && dest == c)

/-- Send a one-message WRITE of a slot's store on REQ or BULK (R181). wa is the logical wafer address. -/
def Mach.sendWrite (m : Mach) (c s ch : Nat) (why : Why) (wa : Nat) (data : Bytes) : Mach :=
  let cid := ((m.core c).slot s).ctl.cid.toNat
  let dest := m.runs (waCore wa)
  let chunks := toChunks data
  let base : Flit := { src := c, cid := BitVec.ofNat 10 cid, chan := ch, op := 0,
                       tag := BitVec.ofNat 8 (s * 64 + (data.length - 1) % 32),
                       target := BitVec.ofNat 60 (waOf (waSpace wa) dest (waOff wa)), wa := BitVec.ofNat 48 wa,
                       why := why, front := m.cc + 1 }
  let paid := m.payFlits c cid (min 1 (seams c dest)) (mkMsg base chunks)
  paid.2.onCore c fun k => k.enqueue 4 ch paid.1

/-- Send a READ of n bytes with a read ID (R181). -/
def Mach.sendRead (m : Mach) (c s rid : Nat) (why : Why) (wa n : Nat) : Mach :=
  let cid := ((m.core c).slot s).ctl.cid.toNat
  let dest := m.runs (waCore wa)
  let f : Flit := { src := c, cid := BitVec.ofNat 10 cid, chan := 0, op := 1, tag := BitVec.ofNat 8 (s * 64 + rid),
                    target := BitVec.ofNat 60 (waOf (waSpace wa) dest (waOff wa)), wa := BitVec.ofNat 48 wa,
                    pay := BitVec.ofNat 256 n, why := why, front := m.cc + 1 }
  let paid := m.payFlits c cid (min 1 (seams c dest)) [f]
  paid.2.onCore c fun k => k.enqueue 4 0 paid.1

/-- Whether a request of n flits to a logical core can enter on a channel. -/
def Mach.canRequest (m : Mach) (c cid ch n pre core : Nat) : Bool :=
  (m.core c).hasRoom 4 ch (n + pre) && m.hasFlitTok c cid (n + pre) (min 1 (seams c (m.runs core))) && !m.holding core

/-! ## Huddles (R216 to R224) -/

/-- Set the HUDDLE wake bit of every slot of the owning context on the core (R221); a new event is an edge of its own. -/
def Core.wakeOwner (k : Core) (owner : Option (BitVec 10)) (cc : Nat) : Core :=
  match owner with
  | none => k
  | some cid =>
    let own (v : Slot) : Bool := v.ctl.st != SlotSt.empty && v.ctl.cid == cid
    { k with slots := k.slots.map (fun (v : Slot) => if own v then v.pend 1 cc else v),
             pwr := { k.pwr with edges := k.pwr.edges.filter fun e => !(e.2 == 1 && own (k.slot e.1)) } }

/-- Take back the wake bits that this cycle has set, unless another huddle of the owner has set them too (R222). -/
def Core.unwakeOwner (k : Core) (owner : Option (BitVec 10)) (cc : Nat) : Core :=
  match owner with
  | none => k
  | some cid =>
    if k.huddles.toList.any fun h => h.owner == owner && h.cyc.any fun y => y.at_ == cc && y.woke then k
    else { k with slots := k.slots.map (fun (v : Slot) =>
      match (if v.ctl.st != SlotSt.empty && v.ctl.cid == cid then v.noted 0 cc else none) with
      | some (o, _) => { v with ctl := { v.ctl with pendHuddle := o == 1 }, run := { v.run with sets := adel v.run.sets 0 } }
      | none => v) }

/-- A huddle armed with a non-zero target whose count meets it (R219, R220). -/
def Huddle.met (h : Huddle) : Bool := h.state == 1 && h.target != 0 && h.target.toNat ≤ h.count.toNat

/-- The release of R219: the huddle after it, and whether it released. -/
def Huddle.release (h : Huddle) (cc : Nat) : Huddle × Bool :=
  if h.met then
    match h.mode with
    | 0 => if h.releasedAt = some cc then (h, false)
           else ({ h with count := h.count - h.target, phase := h.phase + 1, releasedAt := some cc }, true)
    | 2 => ({ h with count := h.count - h.target, state := 2, releasedAt := some cc }, true)
    | _ => (h, false)
  else (h, false)

/-- What a cycle has brought a huddle so far: nothing yet where the record is an older one's. -/
def Huddle.today (h : Huddle) (cc : Nat) : HudCyc :=
  let new : HudCyc := { at_ := cc, count := h.count, target := h.target, mode := h.mode, state := h.state, phase := h.phase, sat := h.sat,
                        passAt := h.passAt, releasedAt := h.releasedAt }
  match h.cyc with
  | some y => if y.at_ = cc then y else new
  | none => new

/-- COUNT before the cycle's signals: the debugger's write comes first (R222). -/
def HudCyc.base (y : HudCyc) : Nat := (y.write.getD y.count).toNat

/-- COUNT with the cycle's signals, before it saturates (R218). -/
def HudCyc.total (y : HudCyc) : Nat := y.base + y.locals + y.remotes

/-- A huddle with what a cycle brings it applied in the order of R222: the debugger's write, the arm, every signal, and one evaluation of a release.
Answers whether it wakes the owner's slots (R221). A wait that the outcome lets pass can issue in the next cycle, or, when a local signal made the
difference, in the one after it (R54, R59). -/
def Huddle.settle (h : Huddle) (cc : Nat) (y : HudCyc) : Huddle × Bool :=
  let armed := y.armed.getD (y.target, y.mode)
  let h : Huddle :=
    { h with count := BitVec.ofNat 24 (min y.total 0xFFFFFF - y.taken), target := armed.1, mode := armed.2,
             state := if y.armed.isSome then 1 else y.state, phase := y.phase, sat := y.sat || 0xFFFFFF < y.total,
             passAt := if y.armed.isSome then cc + 1 else y.passAt, releasedAt := y.releasedAt }
  let at_ := if h.target.toNat + y.taken ≤ y.base + y.remotes then cc + 1 else cc + 2
  let r := h.release cc
  let sem := h.met && h.mode == 1 && 0 < y.locals + y.remotes
  if r.2 then ({ r.1 with passAt := at_ }, true)
  else if sem then ({ h with passAt := if h.target.toNat + y.taken ≤ y.base then h.passAt else at_ }, true)
  else (h, false)

/-- Something reaches huddle h of a core in a cycle: what the cycle has brought is applied anew, from the values before it (R222). -/
def Core.hudInput (k : Core) (h cc : Nat) (f : HudCyc → HudCyc) : Core :=
  let hud := k.huddle h
  let y := f (hud.today cc)
  let r := hud.settle cc y
  let k := k.onHuddle h fun _ => { r.1 with cyc := some { y with woke := r.2 } }
  if r.2 then k.wakeOwner hud.owner cc else if y.woke then k.unwakeOwner hud.owner cc else k

/-- A signal reaches a huddle of the core: from the core itself, or over the mesh (R218, R222). -/
def Core.signal (k : Core) (h amount cc : Nat) (own : Bool) : Core :=
  if amount = 0 then k
  else k.hudInput h cc fun y => if own then { y with locals := y.locals + amount } else { y with remotes := y.remotes + amount }

/-- HUD.ARM (R217): target, mode, ARMED, and the SEEN phases of the context's slots (R222). -/
def Core.arm (k : Core) (h target mode cc : Nat) (cid : BitVec 10) : Core :=
  let phase := ((k.huddle h).today cc).phase
  let k := { k with slots := k.slots.map (fun (v : Slot) =>
    if v.ctl.st != SlotSt.empty && v.ctl.cid == cid
    then { v with arch := { v.arch with seen := vset v.arch.seen h phase } } else v) }
  k.hudInput h cc fun y => { y with armed := some (BitVec.ofNat 24 target, BitVec.ofNat 2 mode) }

/-- A write of ones that clears SAT and UNSURE: what the hardware sets in the same cycle stays (R11, R229). -/
def Huddle.clearFlags (h : Huddle) (x cc : Nat) : Huddle :=
  let now := h.cyc.filter fun y => y.at_ == cc
  { h with sat := h.sat && (!bitOf x 60 || now.any fun y => 0xFFFFFF < y.total),
           unsure := h.unsure && (!bitOf x 61 || h.unsureAt == some cc),
           cyc := h.cyc.map fun y => { y with sat := y.sat && !bitOf x 60 } }

/-- Whether a HUD.WAIT of a slot can pass in a cycle (R219, R220); one that lags by more than the newest release passes at once. -/
def hudPasses (hud : Huddle) (seen : BitVec 8) (cc : Nat) : Bool :=
  (hud.passAt ≤ cc || (hud.state != 0 && hud.target != 0 && hud.mode == 0 && hud.phase != seen + 1)) &&
  (if hud.state == 0 then false
   else if hud.target == 0 then true
   else match hud.mode with
    | 0 => hud.phase != seen
    | 1 => hud.state == 1 && hud.target.toNat ≤ hud.count.toNat
    | _ => hud.state == 2)

/-- What a passing HUD.WAIT does (R219). -/
def Core.hudPass (k : Core) (s h cc : Nat) : Core :=
  let hud := k.huddle h
  if hud.target == 0 then k
  else match hud.mode with
    | 0 => k.onSlot s fun v =>
        { v with arch := { v.arch with seen := vset v.arch.seen h (vget v.arch.seen h + 1) } }
    | 1 => k.onHuddle h fun x =>
        { x with count := x.count - x.target, cyc := some { x.today cc with taken := (x.today cc).taken + x.target.toNat } }
    | _ => k

/-- Places free in the URGENT queue of a core (R185). -/
def Core.urgRoom (k : Core) : Nat := 8 - k.router.urgQ.length

/-- The SIGNAL flit of a history record (R224). -/
def signalFlit (m : Mach) (c s : Nat) (r : HistRec) (resent : Bool) : Flit :=
  let cid := ((m.core c).slot s).ctl.cid
  let dest := m.runs (waCore r.target.toNat)
  { src := c, cid := cid, chan := 5, op := 3, tag := BitVec.ofNat 8 (s * 64),
    target := BitVec.ofNat 60 (waOf 3 dest (waOff r.target.toNat)), wa := r.target,
    pay := BitVec.ofNat 256 (r.amount.toNat + r.sseq.toNat * 2 ^ 16 + m.logical c * 2 ^ 32 + s * 2 ^ 49 +
      b2n resent * 2 ^ 51 + b2n r.mover * 2 ^ 52 + r.issue.toNat * 2 ^ 64),
    why := .none, front := m.cc + 1 }

/-- A SIGNAL flit of a slot enters the URGENT queue, with its token (R185, R268). -/
def Mach.putUrgent (m : Mach) (c s : Nat) (f : Flit) (wa : Nat) : Mach :=
  let paid := m.payFlits c ((m.core c).slot s).ctl.cid.toNat (min 1 (seams c (m.runs (waCore wa)))) [f]
  paid.2.onCore c fun k => { k with router := { k.router with urgQ := k.router.urgQ ++ paid.1 } }

/-- A NOTE of the hardware or of firmware for a core enters the URGENT queue of another one while it has room (R179, R180); its payload is internal to firmware, and what it
brings about has a command of its own. -/
def Mach.sendNote (m : Mach) (c d cid : Nat) : Mach :=
  if (m.core c).urgRoom = 0 || c = d then m
  else m.onCore c fun k =>
    let f : Flit := { src := c, cid := BitVec.ofNat 10 cid, chan := 5, op := 6, fw := true, target := BitVec.ofNat 60 (waOf 0xF d 0), front := m.cc + 1 }
    { k with router := { k.router with urgQ := k.router.urgQ ++ [f] } }

/-- A remote signal of a slot: sequence number, history and URGENT queue (R224, R226). -/
def Mach.remoteSignal (m : Mach) (c s wa amount : Nat) (mover : Bool) : Mach :=
  let v := (m.core c).slot s
  let r : HistRec := { target := BitVec.ofNat 48 wa, amount := BitVec.ofNat 16 amount, sseq := v.ali.hsseq,
                       mover := mover, issue := m.now }
  (m.putUrgent c s (signalFlit m c s r false) wa).onSlot c s fun x =>
    { x with ali := { x.ali with hsseq := x.ali.hsseq + 1 },
             run := { x.run with hist := (x.run.hist ++ [r]).drop (x.run.hist.length + 1 - 16) } }

/-- HUD.SIG or a mover completion (R218, R223): local to the core's own logical index, remote otherwise. -/
def Mach.hudSig (m : Mach) (c s wa amount : Nat) (mover : Bool) : Mach :=
  if waCore wa = m.logical c then m.onCore c fun k => k.signal (waOff wa) amount m.cc true
  else m.remoteSignal c s wa amount mover

/-- Whether a SIGNAL flit can enter the URGENT queue: it has room, and the context a token (R185, R268). -/
def Mach.canSigFar (m : Mach) (c cid wa : Nat) : Bool :=
  0 < (m.core c).urgRoom && m.hasFlitTok c cid 1 (min 1 (seams c (m.runs (waCore wa))))

/-- Whether a signal can be taken: at once when local, else with room on URGENT and a token (R185, R268). -/
def Mach.canSig (m : Mach) (c cid wa : Nat) : Bool := waCore wa == m.logical c || m.canSigFar c cid wa

end Sys2Proof.Machine
end

