-- ==== Sys2Proof/Machine/Memory.lean ====
section
/-! DEFINITION. A core's storage: scratchpad and under-bank with their poison marks, the scoreboard, and the cache
(R139, R148 to R155, R168). -/

namespace Sys2Proof.Machine

open Sys2Proof

/-! ## Scratchpad and under-bank with poison (R168) -/

/-- Words (of size u) fully covered by n bytes from an offset lose their poison. -/
def clearPoison (u : Nat) (ps : List Nat) (off n : Nat) : List Nat :=
  ps.filter fun w => !(off ≤ w * u && w * u + u ≤ off + n)

/-- The first poisoned word (of size u) that n bytes from an offset touch. -/
def poisonIn (u : Nat) (ps : List Nat) (off n : Nat) : Option Nat :=
  ps.find? fun w => w * u < off + n && off < w * u + u

/-- Bytes of a core's memory: space 0 scratchpad, 1 under-bank. -/
def Core.readMem (k : Core) (space off n : Nat) : Bytes :=
  if space = 0 then memRead k.sram off n else memRead k.ub off n

/-- Whether n bytes from an offset touch codeword w. -/
def touches (off n w : Nat) : Bool := off < w * 32 + 32 && w * 32 < off + n

/-- A write to a core's memory. The controller rewrites every codeword that it touches, so a symbol in error there is gone (R167). -/
def Core.writeMem (k : Core) (space off : Nat) (b : Bytes) : Core :=
  if space = 0 then { k with sram := memWrite k.sram off b, poisonS := clearPoison 8 k.poisonS off b.length }
  else { k with ub := memWrite k.ub off b, poisonU := clearPoison 32 k.poisonU off b.length,
                soft := k.soft.filter fun e => !touches off b.length e.1 }

/-- A store of the core itself: into scratchpad it comes before the remote writes of the same cycle (R155). -/
def Core.storeMem (k : Core) (space off : Nat) (b : Bytes) : Core :=
  let k := k.writeMem space off b
  if space = 0 then k.remote.foldl (fun k p => k.writeMem 0 p.1 p.2) k else k

/-- A write that a remote request brings (R155). -/
def Core.remoteMem (k : Core) (space off : Nat) (b : Bytes) : Core :=
  let k := k.writeMem space off b
  if space = 0 then { k with remote := k.remote ++ [(off, b)] } else k

/-! ## Errors of cells (R167, R168) -/

/-- A codeword of the under-bank becomes uncorrectable. -/
def Core.spoil (k : Core) (w : Nat) : Core :=
  { k with poisonU := if k.poisonU.contains w then k.poisonU else k.poisonU ++ [w], soft := adel k.soft w }

/-- Bits of one symbol of a codeword change: errors in two symbols are more than can be corrected. -/
def Core.soften (k : Core) (w sym : Nat) (err : BitVec 8) : Core :=
  if err == 0 || k.poisonU.contains w then k
  else match aget k.soft w with
    | none => { k with soft := aset k.soft w (sym, err) }
    | some (s, e) =>
      if s ≠ sym then k.spoil w
      else { k with soft := if e ^^^ err == 0 then adel k.soft w else aset k.soft w (sym, e ^^^ err) }

/-- Cells of a core that have changed. -/
def Core.cellErr (k : Core) (e : CellErr) : Core :=
  match e with
  | .sram w => { k with poisonS := if k.poisonS.contains w.val then k.poisonS else k.poisonS ++ [w.val] }
  | .symbol w sym err => k.soften w sym err
  | .codeword w => k.spoil w

def Mach.cellErrs (m : Mach) (c : Nat) (cells : List CellErr) : Mach :=
  if cells.isEmpty then m else m.onCore c fun k => cells.foldl Core.cellErr k

/-- A read of n bytes of the under-bank counts the codewords that it corrects, and those that it finds uncorrectable (R167, R168, R175). -/
def Core.countRead (k : Core) (space off n : Nat) : Core :=
  if space ≠ 1 then k
  else
    { k with mem := { k.mem with eccCorr := inc64 k.mem.eccCorr (k.soft.filter fun e => touches off n e.1).length,
                                 eccUncorr := inc64 k.mem.eccUncorr (k.poisonU.filter fun w => touches off n w).length } }

/-- The poisoned word or codeword that a read meets, as its byte offset. -/
def Core.poisonAt (k : Core) (space off n : Nat) : Option Nat :=
  if space = 0 then (poisonIn 8 k.poisonS off n).map (· * 8) else (poisonIn 32 k.poisonU off n).map (· * 32)

/-- The tier of an under-bank offset (R23). -/
def tierOf (off : Nat) : Nat := off / 0xC00000

/-- Whether a tier serves requests in a cycle: not in self-refresh, and past its wake time (R174). -/
def Core.tierReady (k : Core) (t cc : Nat) : Bool := !vget k.pwr.sr t && vget k.pwr.lastReq t ≤ cc

/-- Whether n bytes of a space can be accessed in a cycle. -/
def Core.memReady (k : Core) (space off cc : Nat) : Bool := space != 1 || k.tierReady (tierOf off) cc

/-- The cycle from which the latency of a request counts: one that finds its tier on the way out of self-refresh counts from its end
(R152, R174). -/
def Core.reqAt (k : Core) (space off cc : Nat) : Nat :=
  if space = 1 && !vget k.pwr.sr (tierOf off) then max cc (vget k.pwr.lastReq (tierOf off)) else cc

/-- Note a request to a space (R368). -/
def Core.touch (k : Core) (space off cc : Nat) : Core :=
  if space = 1 then { k with pwr := { k.pwr with lastReq := vset k.pwr.lastReq (tierOf off) cc } } else k

/-- Whether an offset is one of the core's scratchpad (R139) or under-bank. -/
def Core.validOff (k : Core) (space off n : Nat) : Bool :=
  match space with
  | 0 => off + n ≤ (6 - k.mem.cbanks) * 65536
  | 1 => off + n ≤ 0x1800000
  | _ => false

/-! ## The scoreboard (R133, R153, R154) -/

/-- Entries still held in a cycle. -/
def sbHeld (e : SbEntry) (cc : Nat) : Bool :=
  match e.upTo with
  | none => true
  | some t => cc ≤ t

/-- Free entries in a cycle. -/
def Core.sbFree (k : Core) (cc : Nat) : Nat := 32 - (k.sb.filter fun e => sbHeld e cc).length

/-- Whether an access of n bytes waits on a held entry (R154). -/
def Core.sbHit (k : Core) (cc space lo n : Nat) (write : Bool) : Bool :=
  k.sb.any fun e => sbHeld e cc && e.space == space && e.lo < lo + n && lo ≤ e.hi && (e.write || write)

/-- Take an entry; entries no longer held leave the list. -/
def Core.sbTake (k : Core) (cc slot space lo hi : Nat) (write : Bool) (upTo : Option Nat) : Nat × Core :=
  (k.sbNext, { k with sb := (k.sb.filter fun e => sbHeld e cc) ++
                        [{ id := k.sbNext, space := space, lo := lo, hi := hi, write := write, slot := slot, upTo := upTo }],
                      sbNext := k.sbNext + 1 })

/-- Free the entries with a number: held to the end of the cycle. -/
def Core.sbRelease (k : Core) (cc : Nat) (id : Nat) : Core :=
  { k with sb := k.sb.map fun e => if e.id == id then { e with upTo := some cc } else e }

/-! ## The cache (R148 to R150) -/

/-- Sets of the cache. -/
def Core.cacheSets (k : Core) : Nat := k.mem.cbanks * 128

def Core.findLine (k : Core) (tag : Nat) : Option Line := k.lines.find? fun l => l.tag == tag

/-- Whether a line lies in the core's own memory: its wafer address names the core's logical index. -/
def Mach.lineOwn (m : Mach) (c tag : Nat) : Bool := waCore (tag * 128) == m.logical c

/-- Put a line in the place of the one with its tag, or add it. -/
def Core.putLine (k : Core) (l : Line) : Core :=
  { k with lines := l :: k.lines.filter fun x => x.tag != l.tag }

/-- The line to evict for a new tag: none while its set has a free way, else the least recently used (R148). -/
def Core.victim (k : Core) (tag : Nat) : Option Line :=
  let inSet := k.lines.filter fun l => l.tag % k.cacheSets == tag % k.cacheSets
  if inSet.length + (k.fills.filter fun f => f.tag % k.cacheSets == tag % k.cacheSets).length < 4 then none
  else inSet.foldl (fun best l => match best with
    | none => some l
    | some b => if l.used ≤ b.used then some l else some b) none

/-- Whether the set of a new tag holds nothing but lines on their way: a miss has no place there yet (R148). -/
def Core.setBusy (k : Core) (tag : Nat) : Bool :=
  (k.victim tag).isNone && 4 ≤ (k.fills.filter fun f => f.tag % k.cacheSets == tag % k.cacheSets).length

/-- Slots on whose fence list a line stands (R150). -/
def Core.fenceSlots (k : Core) (tag : Nat) : List Nat := (List.range 4).filter fun s => (k.slot s).run.fence.contains tag

/-- Remove a line from every fence list. -/
def Core.unlist (k : Core) (tag : Nat) : Core :=
  { k with slots := k.slots.map (fun (v : Slot) => { v with run := { v.run with fence := v.run.fence.filter (· != tag) } }) }

/-- Whether a line can be written back now: to its own core's under-bank with its tier ready and tokens of its context, to another core with room and tokens
(R150, R174, R268). -/
def Mach.canWriteBack (m : Mach) (c : Nat) (l : Line) : Bool :=
  if m.lineOwn c l.tag then
    waSpace (l.tag * 128) != 1 || ((m.core c).memReady 1 (waOff (l.tag * 128)) m.cc && m.hasTok (ubKey c l.cid.toNat) 4)
  else m.canRequest c l.cid.toNat 0 4 0 (waCore (l.tag * 128))

/-- The bytes of a line. -/
def lineBytes (l : Line) : Bytes := toBytes 128 l.data.toNat

/-- The words of a line that are not poisoned, as offset and bytes; a line without poison in one part. -/
def cleanParts (l : Line) : List (Nat × Bytes) :=
  if l.poison == 0 then [(0, lineBytes l)]
  else ((List.range 16).filter fun i => !bitOf l.poison.toNat i).map fun i => (8 * i, ((lineBytes l).drop (8 * i)).take 8)

/-- The poisoned words of part i of a line, as offsets in its space. -/
def badWords (l : Line) (i : Nat) : List Nat :=
  (([0, 1, 2, 3].map fun j => 4 * i + j).filter (bitOf l.poison.toNat)).map fun w => waOff (l.tag * 128) + 8 * w

/-- A line goes to its home as one step, in a write-back by firmware (R140): its core's memory holds it afterwards, and the line is clean. -/
def Mach.writeHome (m : Mach) (c : Nat) (l : Line) : Mach :=
  if !l.dirty then m
  else
    let wa := l.tag * 128
    let m := m.onCore (if m.lineOwn c l.tag then c else m.runs (waCore wa)) fun k =>
      (cleanParts l).foldl (fun k p => k.writeMem (waSpace wa) (waOff wa + p.1) p.2) k
    m.onCore c fun k =>
      let k := (k.putLine { l with dirty := false }).unlist l.tag
      { k with mem := { k.mem with wb := inc64 k.mem.wb } }

/-- Write a dirty line back (R150): to the core's own memory at once, else as a WRITE on REQ with the CID of the context
that made it dirty, counted for every slot on whose fence list it stands and for the flush descriptor that asks for it, with its slot (R85). The line stays,
clean. -/
def Mach.writeBack (m : Mach) (c : Nat) (l : Line) (desc : Option (Nat × Nat) := none) : Mach :=
  if !l.dirty then m
  else
    let wa := l.tag * 128
    let slots := ((m.core c).fenceSlots l.tag ++ (desc.map (·.1)).toList).eraseDups
    let m :=
      if m.lineOwn c l.tag then
        (if waSpace wa = 1 then m.takeTok (ubKey c l.cid.toNat) 4 else m).onCore c fun k =>
          ((cleanParts l).foldl (fun k p => k.storeMem (waSpace wa) (waOff wa + p.1) p.2) k).touch (waSpace wa) (waOff wa) m.cc
      else
        let dest := m.runs (waCore wa)
        let base : Flit := { src := c, cid := l.cid, chan := 0, op := 0, tag := BitVec.ofNat 8 (l.slot * 64 + 31),
                             target := BitVec.ofNat 60 (waOf (waSpace wa) dest (waOff wa)), wa := BitVec.ofNat 48 wa,
                             why := .line slots desc, front := m.cc + 1 }
        let m := m.takeFlitTok c l.cid.toNat 4 (min 1 (seams c dest))
        m.onCore c fun k =>
          let fs := (mkMsg base (toChunks (lineBytes l))).zipIdx.map fun x => { x.1 with bad := badWords l x.2 }
          let k := k.enqueue 4 0 fs
          slots.foldl (fun k s => k.onSlot s fun v => { v with run := { v.run with acks := v.run.acks + 1 } }) k
    m.onCore c fun k =>
      let k := (k.putLine { l with dirty := false }).unlist l.tag
      { k with mem := { k.mem with wb := inc64 k.mem.wb } }

/-- A cached load of 8 bytes from a line that hits. -/
def lineLoad (l : Line) (off : Nat) : BitVec 64 := BitVec.ofNat 64 (fld l.data.toNat (8 * off) 64)

/-- The wafer address of the codeword, or of the word of SRAM, that holds an address (R168). -/
def unitWa (wa : Nat) : Nat := if waSpace wa = 0 then wa / 8 * 8 else wa / 32 * 32

/-- A line with 8 bytes stored. They cover a whole word of SRAM, whose poison is gone, but not a whole codeword of an under-bank (R168). -/
def lineStore (l : Line) (off : Nat) (v : BitVec 64) : Line :=
  { l with data := BitVec.ofNat 1024 (l.data.toNat - fld l.data.toNat (8 * off) 64 * 2 ^ (8 * off) +
                     v.toNat * 2 ^ (8 * off)),
           poison := if waSpace (l.tag * 128) = 0 then l.poison &&& ~~~ BitVec.ofNat 16 (2 ^ (off / 8)) else l.poison }

/-- Put a line on a slot's fence list (R150); the list's order is oldest first. -/
def Core.listFence (k : Core) (s tag : Nat) : Core :=
  k.onSlot s fun v =>
    if v.run.fence.contains tag then v else { v with run := { v.run with fence := v.run.fence ++ [tag] } }

/-- A fence list that is full has its oldest line written back before one more enters it (R150). -/
def Mach.fenceRoom (m : Mach) (c s tag : Nat) : Mach :=
  let run := ((m.core c).slot s).run
  if 32 ≤ run.fence.length && !run.fence.contains tag then
    match run.fence.head?.bind (m.core c).findLine with
    | some o => m.writeBack c o
    | none => m
  else m

/-- Store into a line that is present: dirty, of the storing context, on the slot's fence list; a full list first has
its oldest line written back (R150). -/
def Mach.cacheStore (m : Mach) (c s : Nat) (l : Line) (off : Nat) (v : BitVec 64) : Mach :=
  (m.fenceRoom c s l.tag).onCore c fun k =>
    let l := (k.findLine l.tag).getD l
    (k.putLine { lineStore l off v with dirty := true, used := m.cc, cid := (k.slot s).ctl.cid, slot := s }).listFence s
      l.tag

/-- Whether a store into a present line can be taken: an overflowing fence list needs its write-back to go (R150). -/
def Mach.canCacheStore (m : Mach) (c s tag : Nat) : Bool :=
  let run := ((m.core c).slot s).run
  if 32 ≤ run.fence.length && !run.fence.contains tag then
    match run.fence.head?.bind (m.core c).findLine with
    | some o => m.canWriteBack c o
    | none => true
  else true

end Sys2Proof.Machine
end

