-- ==== Sys2Proof/Machine/Csr.lean ====
section
/-! DEFINITION. The core CSR page: what each offset reads as, what context code may read and write, and what writes do
(R10 to R13, R66 to R69, R156, R175, R209, R211, R213, R226 to R229, R357, R365, R374, R430). -/

namespace Sys2Proof.Machine

open Sys2Proof

/-! ## Values -/

/-- A slot state's code (R60). -/
def stCode (st : SlotSt) : Nat :=
  match st with
  | .empty => 0
  | .loaded => 1
  | .running => 2
  | .parked => 3
  | .halted => 4
  | .quiesced => 5

/-- A domain state's code in PWR_STATE. -/
def domCode (d : Dom) : Nat :=
  match d with
  | .on => 0
  | .ret => 1
  | .off => 2

/-- A 64-bit register given as its low and its high word. -/
def slotReg (k : Core) (s o : Nat) : Option Nat :=
  let v := k.slot s
  let t := v.ctl
  match o with
  | 0x00 => some (stCode t.st + b2n t.ready * 8 + t.block.toNat * 16 + t.cid.toNat * 256)
  | 0x04 => some (t.weight.toNat + t.accBase.toNat * 256 + t.accRows.toNat * 2048)
  | 0x08 => some (b2n t.subn + 2 * b2n t.dbg)
  | 0x0C => some t.wakeMask.toNat
  | 0x10 => some (t.pc.toNat / 16 * 16)
  | 0x14 => some t.wakeCause.toNat
  | 0x18 => some t.timer.toNat
  | 0x1C => some (t.cause.toNat + b2n t.imprecise * 64 + b2n t.more * 128)
  | 0x20 => some t.faultPc.toNat
  | 0x24 => some (k.wakePend s).toNat
  | 0x28 => some t.faultAddr.toNat
  | 0x30 => some t.stepCount.toNat
  | 0x34 => some t.stepTag.toNat
  | 0x38 => some t.stepTime.toNat
  | 0x40 => some v.cnt.issue.toNat
  | 0x48 => some v.cnt.spare.toNat
  | 0x50 => some v.cnt.blkq.toNat
  | 0x58 => some v.cnt.blkh.toNat
  | 0x60 => some v.cnt.blks.toNat
  | 0x68 => some v.cnt.blko.toNat
  | 0x70 => some v.cnt.blkp.toNat
  | 0x80 | 0x88 | 0x90 | 0x98 | 0xA0 | 0xA8 | 0xB0 | 0xB8 => some (winReg t ((o - 0x80) / 8))
  | _ => none

/-- Q_STAT (R228): HELD where a message for the queue, at the head of a channel of the local output, has not been accepted (R211). -/
def queueStat (k : Core) (q : Nat) : Nat :=
  let b := k.queue q
  let held := k.router.lo.any fun e => match e.2 with
    | f :: _ => (e.1 == 2 || e.1 == 3) && (aget k.router.heldSince e.1).isSome &&
        (if f.mc then fld f.target.toNat 40 14 else waOff f.target.toNat) == q
    | [] => false
  b.msgs.length + (b.msgs.map fun x => x.chunks.length).sum * 64 + b2n (b.thresh.toNat ≤ b.msgs.length) * 2 ^ 15 +
    b2n held * 2 ^ 16

/-- The QUEUE block (R228). -/
def queueReg (k : Core) (s o : Nat) : Option Nat :=
  let v := k.slot s
  if o < 0x540 then
    let q := (o - 0x500) / 8
    let b := k.queue q
    if o % 8 = 0 then some (b.slot.toNat + b2n b.valid * 4 + b.port.toNat * 8 + b.thresh.toNat * 64)
    else if o % 8 = 4 then some (queueStat k q) else none
  else if 0x580 ≤ o && o < 0x5C0 && o % 8 == 0 then some (vget v.ali.sp ((o - 0x580) / 8)).toNat
  else match o with
    | 0x540 => some v.ali.hlimit.toNat
    | 0x544 => some v.ali.hstat.toNat
    | 0x548 => some v.ali.hsseq.toNat
    | 0x54C => some 0
    | 0x550 => some (((List.range 32).map fun h =>
        if (k.huddle h).owner = some v.ctl.cid && v.ctl.st != SlotSt.empty then 2 ^ h else 0).sum)
    | _ => none

/-- A huddle's register (R229). -/
def hudReg (h : Huddle) : Nat :=
  h.count.toNat + h.target.toNat * 2 ^ 24 + h.mode.toNat * 2 ^ 48 + h.state.toNat * 2 ^ 50 + h.phase.toNat * 2 ^ 52 +
    b2n h.sat * 2 ^ 60 + b2n h.unsure * 2 ^ 61

/-- The MEM block (R175). -/
def memReg (k : Core) (cc o : Nat) : Option Nat :=
  match o with
  | 0x700 => some (k.mem.cbanks + (2 ^ 6 - 2 ^ (6 - k.mem.cbanks)) * 256)
  | 0x704 => some k.mem.resident.toNat
  | 0x708 => some (32 - k.sbFree cc)
  | 0x70C => some ((vget k.care.temp 0).toNat + (vget k.care.temp 1).toNat * 256 + b2n (vget k.care.hot 0) * 2 ^ 16 +
      b2n (vget k.care.hot 1) * 2 ^ 17)
  | 0x710 => some k.mem.hit.toNat
  | 0x718 => some k.mem.miss.toNat
  | 0x720 => some k.mem.wb.toNat
  | 0x728 => some k.mem.eccCorr.toNat
  | 0x730 => some k.mem.eccUncorr.toNat
  | _ => none

/-- The PWR block (R374). -/
def pwrReg (k : Core) (s o : Nat) : Option Nat :=
  let p := k.pwr
  let a := (k.slot s).ali
  match o with
  | 0x900 => some a.depth.toNat
  | 0x904 => some (a.wakeSel.toNat * 2)
  | 0x908 => some p.retmask.toNat
  | 0x90C => some ((if p.logic = .on && p.gated then 3 else domCode p.logic) +
      ((List.range 6).map fun i => domCode (vget p.banks i) * 2 ^ (2 + 2 * i)).sum + domCode p.bankctl * 2 ^ 14 +
      b2n (vget p.sr 0) * 2 ^ 16 + b2n (vget p.sr 1) * 2 ^ 17 + p.iso.toNat * 2 ^ 18 + b2n p.lending * 2 ^ 26 +
      b2n p.fsleep * 2 ^ 27 + p.level * 2 ^ 28)
  | 0x910 | 0x914 => some p.voteCl.toNat
  | 0x918 | 0x91C => some p.voteBk.toNat
  | 0x920 => some 0
  | 0x924 => some (p.edepth.toNat + b2n p.lendDis * 4 + b2n p.nofs * 8 + b2n p.fwVoteCl * 16 + b2n p.fwVoteBk * 32)
  | 0x928 => some p.cntDrop.toNat
  | 0x930 => some p.cntBounce.toNat
  | 0x938 => some p.cntEdgelost.toNat
  | 0x940 => some p.cntRefuse.toNat
  | _ => none

/-- The sentry registers (R430). -/
def senReg (v : Slot) (o : Nat) : Option Nat :=
  match o with
  | 0xA00 => some (v.ali.frac.toNat + v.ali.partner.toNat * 256)
  | 0xA08 => some v.ali.sampled.toNat
  | 0xA10 => some v.ali.mismatch.toNat
  | 0xA18 => some v.ali.deferred.toNat
  | 0xA20 => some v.ali.lost.toNat
  | 0xA28 => some v.ali.reexec.toNat
  | _ => none

/-- What an offset of a core's CSR page holds, s being the slot whose copy an aliased register names; none for a
reserved offset (R13). -/
def Mach.csr (m : Mach) (c s o : Nat) : Option Nat :=
  let k := m.core c
  if o < 0x100 then
    match o with
    | 0x000 => some ((k.ident.map BitVec.toNat).getD (c + fieldOf c * 2 ^ 17))
    | 0x004 => some (m.logical c)
    | 0x008 => some (((List.range 4).map fun i =>
        b2n ((k.slot i).ctl.st != SlotSt.empty) * 2 ^ i + b2n ((k.slot i).ctl.st == SlotSt.parked) * 2 ^ (8 + i)).sum +
        k.ready4.toNat * 16)
    | 0x010 => some k.cycles.toNat
    | 0x018 => some k.skipped.toNat
    | 0x020 => some k.idle.toNat
    | _ => none
  else if o < 0x500 then
    let i := (o - 0x100) / 0x100
    (slotReg k i (o % 0x100)).map fun x => if o % 0x100 = 0x14 then (k.slot i).rcRead 3 m.cc x else x
  else if o < 0x600 then (queueReg k s o).map fun x => if o = 0x544 then (k.slot s).rcRead 4 m.cc x else x
  else if o < 0x700 then (if o % 8 = 0 then some (hudReg (k.huddle ((o - 0x600) / 8))) else none)
  else if o < 0x800 then memReg k m.cc o
  else if o < 0x900 then none
  else if o < 0xA00 then pwrReg k s o
  else if o < 0xA40 then senReg (k.slot s) o
  else if o < 0xB00 then some (agetD k.testRegs o 0).toNat
  else none

/-! ## Context code (R67) -/

/-- The page offset that CSRR and CSRW name (R86). -/
def csrOff (s imm : Nat) : Nat := if bitOf imm 12 then 0x100 + 0x100 * s + fld imm 0 8 else fld imm 0 12

/-- Whether a queue is assigned to a slot. -/
def Core.queueOf (k : Core) (s q : Nat) : Bool := (k.queue q).valid && (k.queue q).slot.toNat == s

/-- Whether a huddle is assigned to the context of a slot (R216). -/
def Core.hudOf (k : Core) (s h : Nat) : Bool :=
  (k.huddle h).owner == some (k.slot s).ctl.cid && (k.slot s).ctl.st != SlotSt.empty

/-- Whether context code of slot s may read an offset. -/
def csrReadOk (k : Core) (s o : Nat) : Bool :=
  if o < 0x100 then o == 0 || o == 4
  else if o < 0x500 then (o - 0x100) / 0x100 == s && (slotReg k s (o % 0x100)).isSome
  else if o < 0x540 then o % 4 == 0 && k.queueOf s ((o - 0x500) / 8)
  else if o < 0x600 then (queueReg k s o).isSome
  else if o < 0x700 then o % 8 == 0 && k.hudOf s ((o - 0x600) / 8)
  else if o < 0x800 then o == 0x700 || o == 0x704 || o == 0x70C
  else if o < 0x900 then false
  else if o < 0xA00 then o != 0x908 && o != 0x920 && (pwrReg k s o).isSome
  else if o < 0xA40 then (senReg (k.slot s) o).isSome
  else false

/-- Banks that lie wholly inside a slot's scratchpad window. -/
def bankInWin (t : SlotCtl) (b : Nat) : Bool :=
  let base := fld (winReg t 0) 0 19
  let size := fld (winReg t 4) 0 20
  base ≤ b * 65536 && b * 65536 + 65536 ≤ base + size

/-- Whether two 6-bit bank masks differ only in banks of the slot's window. -/
def banksChangeOk (t : SlotCtl) (old new : Nat) : Bool :=
  (List.range 6).all fun b => bitOf old b == bitOf new b || bankInWin t b

/-- Whether a 32-bit vote mask names only the slot's own byte (R365). -/
def voteOwn (s v : Nat) : Bool := v % 2 ^ 32 == fld v (8 * s) 8 * 2 ^ (8 * s)

/-- Whether context code of slot s may write v at an offset (R67 and each register's own rule). -/
def csrWriteOk (k : Core) (s o v : Nat) : Bool :=
  let t := (k.slot s).ctl
  if o < 0x100 then false
  else if o < 0x500 then (o - 0x100) / 0x100 == s && (slotReg k s (o % 0x100)).isSome
  else if o < 0x540 then
    o % 4 == 0 && k.queueOf s ((o - 0x500) / 8) &&
    (o % 8 == 4 || (fld v 3 3 < 6 && 1 ≤ fld v 6 6 && fld v 6 6 ≤ 32))
  else if o < 0x600 then
    (queueReg k s o).isSome && (o < 0x580 || sendPortOk t v)
  else if o < 0x700 then o % 8 == 0 && k.hudOf s ((o - 0x600) / 8)
  else if o < 0x800 then o == 0x704 && banksChangeOk t k.mem.resident.toNat (v % 64)
  else if o < 0x900 then false
  else match o with
    | 0x900 => v % 4 != 3
    | 0x904 => true
    | 0x908 => banksChangeOk t k.pwr.retmask.toNat (v % 64)
    | 0x910 | 0x914 | 0x918 | 0x91C => voteOwn s v
    | _ => false

/-- What a read of an offset does beside returning the value: RC registers clear, but for what the hardware has set in this cycle (R10, R11). -/
def csrReadEffect (k : Core) (s o cc : Nat) : Core :=
  if 0x100 ≤ o && o < 0x500 && o % 0x100 = 0x14 then k.onSlot ((o - 0x100) / 0x100) fun v =>
    { v with ctl := { v.ctl with wakeCause := BitVec.ofNat 6 (v.rcLeft 3 cc) } }
  else if o = 0x544 then k.onSlot s fun v => { v with ali := { v.ali with hstat := BitVec.ofNat 6 (v.rcLeft 4 cc) } }
  else k

/-- A write of SLOT_TIMER (R69): a timer that reaches zero in the same tick sets TIMER, and the write arms or disarms. -/
def timerWrite (v : Slot) (x : Nat) (tick : Nat) : Slot :=
  let kept := v.run.expTick == some tick || x % 2 ^ 32 = 0
  { v with ctl := { v.ctl with timer := BitVec.ofNat 32 x,
                               pendTimer := v.run.due || (kept && v.ctl.pendTimer) },
           run := { v.run with due := false } }

/-- A write into a slot's own SLOT block (R68). -/
def slotWrite (v : Slot) (o x tick cc : Nat) : Slot :=
  match o with
  | 0x08 => { v with ctl := { v.ctl with subn := bitOf x 0 } }
  | 0x0C => { v with ctl := { v.ctl with wakeEn := BitVec.ofNat 3 x } }
  | 0x18 => timerWrite v x tick
  | 0x24 => v.clearPend x cc
  | _ => v

/-- Q_HRESEND (R226): every signal of the history is to be sent again, oldest first; each enters the URGENT queue as room appears. -/
def Mach.resend (m : Mach) (c s : Nat) : Mach :=
  m.onSlot c s fun v => { v with run := { v.run with resend := v.run.resend ++ v.run.hist } }

/-- The effect of a legal CSRW of context code (R67). -/
def Mach.csrWrite (m : Mach) (c s o x : Nat) : Mach :=
  let mask := fld x (8 * s) 8 * 2 ^ (8 * s)
  if o < 0x100 then m
  else if o < 0x500 then m.onSlot c s fun v => slotWrite v (o % 0x100) x m.now.toNat m.cc
  else if o < 0x540 then
    if o % 8 = 0 then m.onCore c fun k => k.onQueue ((o - 0x500) / 8) fun q =>
      { q with port := BitVec.ofNat 3 (fld x 3 3), thresh := BitVec.ofNat 6 (fld x 6 6),
               freed := if q.thresh.toNat ≤ q.msgs.length then m.cc + 1 else q.freed }
    else m
  else if o < 0x600 then
    if 0x580 ≤ o then m.onSlot c s fun v => { v with ali := { v.ali with sp := vset v.ali.sp ((o - 0x580) / 8) (BitVec.ofNat 64 x) } }
    else if o = 0x540 then m.onSlot c s fun v => { v with ali := { v.ali with hlimit := BitVec.ofNat 32 x } }
    else if o = 0x54C && bitOf x 0 then m.resend c s
    else m
  else if o < 0x700 then
    m.onCore c fun k => k.onHuddle ((o - 0x600) / 8) fun h => h.clearFlags x m.cc
  else match o with
    | 0x704 => m.onCore c fun k => { k with mem := { k.mem with resident := BitVec.ofNat 6 x } }
    | 0x900 => m.onSlot c s fun v => { v with ali := { v.ali with depth := BitVec.ofNat 2 x } }
    | 0x904 => m.onSlot c s fun v => { v with ali := { v.ali with wakeSel := BitVec.ofNat 3 (x / 2) } }
    | 0x908 => m.onCore c fun k => { k with pwr := { k.pwr with retmask := BitVec.ofNat 6 x } }
    | 0x910 => m.onCore c fun k => { k with pwr := { k.pwr with voteCl := k.pwr.voteCl ||| BitVec.ofNat 32 mask } }
    | 0x914 => m.onCore c fun k => { k with pwr := { k.pwr with voteCl := k.pwr.voteCl &&& ~~~ BitVec.ofNat 32 mask,
                                                                 park := some m.cc } }
    | 0x918 => m.onCore c fun k => { k with pwr := { k.pwr with voteBk := k.pwr.voteBk ||| BitVec.ofNat 32 mask } }
    | 0x91C => m.onCore c fun k => { k with pwr := { k.pwr with voteBk := k.pwr.voteBk &&& ~~~ BitVec.ofNat 32 mask } }
    | _ => m

end Sys2Proof.Machine
end

