-- ==== Sys2Proof/Machine/Desc.lean ====
section
/-! DEFINITION. Mover descriptors: their fields, their checks, and the runs they name (R144, R159 to R161, R293,
R294). -/

namespace Sys2Proof.Machine

open Sys2Proof

def dSrc (r : Bytes) : Nat := le r 0x00 8
def dDst (r : Bytes) : Nat := le r 0x08 8
def dLen (r : Bytes) : Nat := le r 0x10 4 % 2 ^ 25
def dCnt1 (r : Bytes) : Nat := le r 0x14 2
def dCnt2 (r : Bytes) : Nat := le r 0x16 2
def dHaddr (r : Bytes) : Nat := le r 0x28 8
def dFcls (r : Bytes) : Nat := le r 0x30 2 % 4
def dFill (r : Bytes) : Bool := bitOf (le r 0x30 2) 2

/-- A signed 4-byte step. -/
def dStep (r : Bytes) (o : Nat) : Int := sfld (le r o 4) 0 32

/-- Zero-length (R160). -/
def dZero (r : Bytes) : Bool := dLen r == 0 || dCnt1 r == 0 || dCnt2 r == 0

/-- A non-zero reserved bit (R159, R161); a LEN0 above its range of 0x100_0000 counts as one: the spec gives the range and no effect of a value beyond it (DESIGN CHOICE,
log 83). -/
def dReserved (r : Bytes) : Bool :=
  fld (le r 0x10 4) 25 7 != 0 || 0x1000000 < dLen r || 2 ^ 48 ≤ dHaddr r || fld (le r 0x30 2) 3 13 != 0 || le r 0x32 14 != 0

/-- HADDR outside the queue-mask window (R161); 0 is none. -/
def dHaddrBad (t : SlotCtl) (r : Bytes) : Bool := dHaddr r != 0 && !hudAddrOk t (dHaddr r)

/-- The address of run i of plane p on a side (R159): 0 source, 1 destination. -/
def dRun (r : Bytes) (side p i : Nat) : Nat :=
  let base := if side = 0 then dSrc r else dDst r
  let s1 := dStep r (if side = 0 then 0x18 else 0x20)
  let s2 := dStep r (if side = 0 then 0x1C else 0x24)
  ofInt 64 ((base : Int) + p * s2 + i * s1)

def kindOf (a : Nat) : Nat := fld a 62 2

/-- The fields of a KIND 3 address (R293). -/
def fDev (a : Nat) : Nat := fld a 37 25
def fJti (a : Nat) : Nat := fld a 33 4
def fSpace (a : Nat) : Nat := fld a 31 2
def fLin (a : Nat) : Nat := fld a 0 31

/-- Size of fabric dimension d (0 X, 1 Y, 2 Z, 3 W), as held in SIZES − 1 fields of six bits (R292, R308). -/
def Mach.dimSize (m : Mach) (d : Nat) : Nat := fld m.fabric.sizes.toNat (6 * d) 6 + 1

/-- A coordinate's value in a dimension. -/
def coordOf (co d : Nat) : Nat := fld co (6 * d) 6

/-- Whether a coordinate is valid in the plane's sizes (R292). -/
def Mach.coordOk (m : Mach) (co : Nat) : Bool := (List.range 4).all fun d => coordOf co d < m.dimSize d

/-- The job tag that a context's list holds at an index (R293, R295). -/
def Mach.jobTagAt (m : Mach) (cid i : Nat) : Option Nat :=
  match m.ctx cid with
  | some x => (x.tags[i]?).map BitVec.toNat
  | none => none

/-- A KIND 3 address that the sending core refuses (R294). -/
def Mach.fabricBad (m : Mach) (cid : Nat) (a len : Nat) : Bool :=
  fSpace a == 3 || (m.jobTagAt cid (fJti a)).isNone || !m.coordOk (fDev a) || fDev a == m.fabric.coord.toNat ||
  !m.fabric.assigned || (fSpace a == 2 && (256 < len || fld (fLin a) 20 10 != 0))

/-- Whether every byte of every run of a side lies in the windows (R145, R161). -/
def Mach.runsOk (m : Mach) (c s : Nat) (r : Bytes) (side : Nat) (write : Bool) : Bool :=
  let t := ((m.core c).slot s).ctl
  (List.range (dCnt2 r)).all fun p => (List.range (dCnt1 r)).all fun i =>
    let a := dRun r side p i
    if kindOf a = 3 then !m.fabricBad t.cid.toNat a (dLen r) else (resolve t (m.logical c) a (dLen r) write).isSome

/-- Whether a descriptor faults (R161, R294). -/
def Mach.descBad (m : Mach) (c s : Nat) (kind : MvKind) (r : Bytes) : Bool :=
  let t := ((m.core c).slot s).ctl
  dReserved r || dHaddrBad t r ||
  (!dZero r && (match kind with
    | .go =>
      (dFill r && !(kindOf (dDst r) == 0 || kindOf (dDst r) == 1)) ||
      (!dFill r && kindOf (dSrc r) == 3 && kindOf (dDst r) == 3) ||
      (!dFill r && !m.runsOk c s r 0 false) || !m.runsOk c s r 1 true
    | _ => kindOf (dDst r) == 3 || !m.runsOk c s r 1 false))

/-- The first and last physical byte of a local side, with its space; none for a remote or fabric side, a FILL source,
or one outside its window (R153). -/
def Mach.localSpan (m : Mach) (c s : Nat) (r : Bytes) (side : Nat) (write : Bool) : Option (Nat × Nat × Nat) :=
  let t := ((m.core c).slot s).ctl
  let corners := [(0, 0), (0, dCnt1 r - 1), (dCnt2 r - 1, 0), (dCnt2 r - 1, dCnt1 r - 1)]
  let ps := corners.filterMap fun q =>
    let a := dRun r side q.1 q.2
    if kindOf a < 2 then resolve t (m.logical c) a (dLen r) write else none
  match ps with
  | [] => none
  | p :: rest =>
    if ps.length < 4 then none
    else some (p.space, rest.foldl (fun x y => min x y.off) p.off, rest.foldl (fun x y => max x y.off) p.off + dLen r - 1)

/-- The local ranges a mover instruction takes entries on: space, first, last, write (R153). -/
def Mach.descSpans (m : Mach) (c s : Nat) (kind : MvKind) (r : Bytes) : List (Nat × Nat × Nat × Bool) :=
  if dZero r then []
  else
    let src := if kind = .go && !dFill r then (m.localSpan c s r 0 false).map fun x => (x.1, x.2.1, x.2.2, false) else none
    let dst := (m.localSpan c s r 1 (kind = .go)).map fun x => (x.1, x.2.1, x.2.2, true)
    src.toList ++ dst.toList

/-- The 64 bytes of the descriptor that an s-register names, aligned down; none outside the window (R159). -/
def Mach.readDesc (m : Mach) (c s : Nat) (addr : Nat) : Option (Nat × Bytes) :=
  let k := m.core c
  if 2 ^ 19 ≤ addr then none
  else (spadAt (k.slot s).ctl (addr / 64 * 64) 64).map fun o => (o, k.readMem 0 o 64)

/-- The kind of a mover opcode. -/
def mvKind (op : Nat) : MvKind :=
  match op with
  | 8 => .go
  | 9 => .flush
  | _ => .inval

end Sys2Proof.Machine
end

