-- ==== Sys2Proof/Machine/Ready.lean ====
section
/-! DEFINITION. Fetch, the faults a bundle meets at issue, and whether a slot is ready (R53 to R59, R74, R85, R93,
R130, R133, R154). -/

namespace Sys2Proof.Machine

open Sys2Proof

/-! ## Fetch (R58, log 13) -/

/-- The bundle at the slot's PC, when its fetch buffer holds it. -/
def Slot.bundle (v : Slot) : Option Nat :=
  (v.run.fbuf.find? fun e => e.1 == v.ctl.pc.toNat).map fun e => e.2.toNat

/-- Addresses of a group's bundles that lie in the window and are not in the buffer. -/
def missing (v : Slot) (g : Nat) : List Nat :=
  [g, g + 16, g + 32, g + 48].filter fun a =>
    (spadAt v.ctl a 16).isSome && !(v.run.fbuf.any fun e => e.1 == a)

/-- Whether the buffer has a place for the bundle at an address: one of the 64 before the next bundle, or of the 64 from it on. -/
def nearPc (pc a : Nat) : Bool := pc ≤ a + 1024 && a < pc + 1024

/-- One cycle of fetch: the next group at or ahead of the PC that the buffer lacks is fetched, and bundles that the buffer has no place for leave it. -/
def fetchStep (k : Core) (s cc : Nat) : Core :=
  let v := k.slot s
  if v.ctl.st = .running && v.run.fetchAt ≤ cc then
    let pc := v.ctl.pc.toNat
    let lacks (g : Nat) : List Nat := (missing v g).filter (nearPc pc)
    let gs := (List.range 17).map fun i => pc / 64 * 64 + 64 * i
    let new := match gs.find? fun g => !(lacks g).isEmpty with
      | none => []
      | some g => (lacks g).filterMap fun a =>
        (spadAt v.ctl a 16).map fun o => (a, BitVec.ofNat 128 (ofBytes (k.readMem 0 o 16)))
    k.onSlot s fun v => { v with run := { v.run with fbuf := (v.run.fbuf ++ new).filter fun e => nearPc pc e.1 } }
  else k

/-! ## Encoding and value faults (R93) -/

/-- A bundle whose bits alone make it illegal. -/
def encodingFault (b : Nat) : Bool := fld b 112 5 != 0 || sIllegal (bS b) || vIllegal (bV b) || tIllegal (bT b)

/-- A part that runs and is legal. -/
def sLive (a : SlotArch) (b : Nat) : Bool := sRuns a b && !sIllegal (bS b)
def vLive (a : SlotArch) (b : Nat) : Bool := vRuns a b && !vIllegal (bV b)
def tLive (a : SlotArch) (b : Nat) : Bool := tRuns a b && !tIllegal (bT b)

/-- Illegal bundles that depend on a register or on loaded state (R74, R84, R89, R217). -/
def valueFault (a : SlotArch) (b : Nat) : Bool :=
  let ws := bS b
  let wt := bT b
  let x := (readS a (sRs1 ws)).toNat
  (sLive a b && ((sOp ws == 0x16 && !sdValueOk x) || (sOp ws == 0x18 && 2 ^ 24 ≤ x))) ||
  (tLive a b && tOp wt == 2 &&
    (let fb := (vget a.wbuf (b2n (bitOf wt 9))).fmtb.toNat
     !pairOk (tFmt wt) fb || (bitOf wt 12 && fmtIsInt (tFmt wt))))

/-- The window-relative scratchpad offset that LD and ST use: an address of the KIND 0 form, aligned down (R86, R144). -/
def sAddr (a : SlotArch) (w : Nat) : Option Nat :=
  let x := (readS a (sRs1 w) + immS w).toNat
  if x < 2 ^ 19 then some (x / 8 * 8) else none

/-- The same for VLD and VST (R87). -/
def vAddr (a : SlotArch) (w : Nat) : Option Nat :=
  let x := (readS a (fld w 22 5) + BitVec.ofInt 64 (32 * sfld w 10 12)).toNat
  if x < 2 ^ 19 then some (x / 4 * 4) else none

/-- The scratchpad address that a T operand's register holds (R78). -/
def tAddr (a : SlotArch) (w : Nat) : Option Nat :=
  let x := (readS a (tOpnd w % 32)).toNat
  if x < 2 ^ 19 then some x else none

/-- The physical range of n bytes at an optional window-relative address. -/
def rangeAt (t : SlotCtl) (o : Option Nat) (n : Nat) : Option Nat := o.bind fun x => spadAt t x n

/-- The address that LDX, STX name, aligned down. -/
def xAddr (a : SlotArch) (w : Nat) : Nat := (readS a (sRs1 w)).toNat / 8 * 8

/-- Whether the SLOT_PC range and branch targets lie in the window: the offending address of a taken branch (R58). -/
def targetFault (v : Slot) (b : Nat) : Option Nat :=
  if bStop b then none
  else match branchTarget v.arch (bS b) v.ctl.pc.toNat with
    | none => none
    | some x => if 0 ≤ x && (spadAt v.ctl x.toNat 16).isSome then none else some (ofInt 19 x)

/-- The offside fault of an S part, as what SLOT_FAULT_PC holds. -/
def Mach.sOffside (m : Mach) (c s b : Nat) : Option Nat :=
  let k := m.core c
  let v := k.slot s
  let a := v.arch
  let t := v.ctl
  let w := bS b
  let x := (readS a (sRs1 w)).toNat
  let bad (p : Bool) : Option Nat := if p then some t.pc.toNat else none
  match sOp w with
  | 0x0A | 0x0B => bad (rangeAt t (sAddr a w) 8).isNone
  | 0x0C => bad (resolve t (m.logical c) (xAddr a w) 8 false).isNone
  | 0x0D => bad (resolve t (m.logical c) (xAddr a w) 8 true).isNone
  | 0x0E | 0x0F | 0x10 => targetFault v b
  | 0x11 => bad (!csrReadOk k s (csrOff s (sImm w)))
  | 0x12 => bad (!csrWriteOk k s (csrOff s (sImm w)) x)
  | 0x18 | 0x1A => bad (!k.hudOf s (sImm w % 32))
  | 0x19 => bad (!hudAddrOk t x)
  | 0x1B | 0x1C => bad (sendTarget k t.cid.toNat (vget v.ali.sp (sImm w % 8)).toNat).isNone
  | 0x1D => bad (!popOk k s (sImm w % 8) 3)
  | _ => none

/-- The offside fault of a V part. -/
def vOffside (k : Core) (s b : Nat) : Bool :=
  let v := k.slot s
  let w := bV b
  ((vSrcs w).any fun o => 0x38 ≤ o && !popOk k s (o - 0x38) 1) ||
  (match vSends w with
   | some o => (sendTarget k v.ctl.cid.toNat (vget v.ali.sp o).toNat).isNone
   | none => false) ||
  ((vOp w == 0x1C || vOp w == 0x1D) && (rangeAt v.ctl (vAddr v.arch w) 128).isNone)

/-- Window-relative offsets of the scale bytes that a tile operation reads: row or column r below nr, position k below
nk (R100). -/
def scaleOffs (sd nr nk : Nat) : List (Nat × Nat × Nat) :=
  if sdFmt sd = 0 then []
  else ((List.range nr).map fun r => (List.range nk).map fun i => (r, i, scaleOff sd r i)).flatten

/-- The scale bytes of a T part: TILE.LD its weight scales, TILE.MAC its streamed scales. -/
def tScales (a : SlotArch) (w : Nat) : List (Nat × Nat × Nat) :=
  let sd := (vget a.sd (tScl w)).toNat
  match tOp w with
  | 1 => scaleOffs sd 32 (ldRows (tFmt w))
  | 2 => scaleOffs sd (tRows w) (kExtent (tFmt w) (vget a.wbuf (b2n (bitOf w 9))).fmtb.toNat)
  | _ => []

/-- Bytes that a tile operation reads or writes in scratchpad. -/
def tBytes (a : SlotArch) (w : Nat) : Nat :=
  match tOp w with
  | 1 => ldBytes (tFmt w)
  | 2 => tRows w * sRowBytes (tFmt w) (kExtent (tFmt w) (vget a.wbuf (b2n (bitOf w 9))).fmtb.toNat)
  | 3 => tRows w * oRowBytes (tFmt w)
  | _ => 0

/-- Whether the accumulator rows a T part names lie in the slot's block (R51). -/
def rowsOk (t : SlotCtl) (w : Nat) : Bool :=
  t.accBase.toNat * 32 ≤ tAcc w && tAcc w + tRows w ≤ (t.accBase.toNat + t.accRows.toNat) * 32

/-- The offside fault of a T part. -/
def Mach.tOffside (m : Mach) (c s b : Nat) : Bool :=
  let k := m.core c
  let v := k.slot s
  let a := v.arch
  let t := v.ctl
  let w := bT b
  let src : Bool := if 0x38 ≤ tOpnd w then !popOk k s (tOpnd w - 0x38) 2 else (rangeAt t (tAddr a w) (tBytes a w)).isNone
  let scl : Bool := (tScales a w).any fun x => (spadAt t x.2.2 1).isNone
  match tOp w with
  | 1 => src || scl
  | 2 => src || scl || !rowsOk t w
  | 3 => !rowsOk t w ||
      (if 0x38 ≤ tOpnd w then (sendTarget k t.cid.toNat (vget v.ali.sp (tOpnd w - 0x38)).toNat).isNone
       else (rangeAt t (tAddr a w) (tBytes a w)).isNone)
  | 4 => !rowsOk t w
  | 8 | 9 | 0xA => (m.readDesc c s (readS a (tOpnd w % 32)).toNat).isNone
  | _ => false

/-- The fault that a bundle raises at issue: cause and SLOT_FAULT_PC; encoding faults before window faults, the S part
before the V part before the T part (R93). -/
def Mach.bundleFault (m : Mach) (c s b : Nat) : Option (Nat × Nat) :=
  let v := (m.core c).slot s
  let pc := v.ctl.pc.toNat
  if encodingFault b || valueFault v.arch b then some (3, pc)
  else
    let sf := if sLive v.arch b then m.sOffside c s b else none
    match sf with
    | some x => some (1, x)
    | none =>
      if (vLive v.arch b && vOffside (m.core c) s b) || (tLive v.arch b && m.tOffside c s b) then some (1, pc) else none

/-! ## Blocking causes (R55) -/

/-- The backstop side of a queue: that of the plane in the slot storage the queue is assigned to (R254). -/
def Core.ring (k : Core) (q : Nat) : BackRing :=
  match (k.slot (k.queue q).slot.toNat).plane with
  | some p => agetD p.rings q {}
  | none => {}

/-- Messages of a queue that a consumer sees in a cycle: those that landed earlier (R54, R250), none while a spill of
the queue runs (R254). -/
def Core.available (k : Core) (q cc : Nat) : Nat :=
  if (k.ring q).spilling then 0 else ((k.queue q).msgs.filter fun x => x.landed < cc).length

/-- Cause 1: a legal queue operand lacks messages that landed before this cycle (R53, R54). -/
def blocksQueue (k : Core) (s b cc : Nat) : Bool :=
  let p := popsOf (k.slot s).arch b
  let all := (p.1.filter fun q => popOk k s q 1) ++ (p.2.1.filter fun q => popOk k s q 2) ++
             (p.2.2.filter fun q => popOk k s q 3)
  all.any fun q => k.available q cc < all.count q

/-- Cause 2: a HUD.WAIT on an assigned huddle that cannot pass (R219). -/
def blocksHuddle (k : Core) (s b cc : Nat) : Bool :=
  let v := k.slot s
  let w := bS b
  sLive v.arch b && sOp w == 0x1A && k.hudOf s (sImm w % 32) &&
    !v.run.tmo && !hudPasses (k.huddle (sImm w % 32)) (vget v.arch.seen (sImm w % 32)) cc

/-- Stores and sends that a fence class waits for (R85, R150). A range that the slot still holds for writing is not yet
visible to the core (R154); messages of a TILE.ST count as sends to the core that its port names, me being the slot's own. -/
def fenceWaits (k : Core) (me s cls cc : Nat) : Bool :=
  let v := k.slot s
  let sts := k.eng.ops.any fun o => o.slot == s && (match o.work with
    | .st _ _ bytes done (some _) _ _ => done < bytes.length
    | .st _ _ bytes done none tgt after => (done < bytes.length || !after.isEmpty) &&
        (2 ≤ cls || (match sendTarget k v.ctl.cid.toNat tgt.toNat with
        | some (_, t, mc, core) => if mc then mcMember t me else core == me
        | none => false))
    | _ => false)
  (1 ≤ cls && (sts || (k.sb.any fun e => e.slot == s && e.write && sbHeld e cc) || 0 < v.run.localMsgs || (k.ubq.any fun x => x.slot == s && x.store.isSome) || (v.run.accs.any fun x => !x.load && x.rid.isNone) ||
      v.run.descs.any fun d => !d.moved)) ||
  (2 ≤ cls && (0 < v.run.acks || (v.run.accs.any fun x => !x.load) ||
      v.run.fence.any fun tag => (k.findLine tag).any fun l => l.dirty)) ||
  (3 ≤ cls && 0 < v.run.facks)

/-- Ranges of a core's own memory that a bundle reads or writes, its own fetch among them unless it is a template: space,
first byte, length, write (R154). -/
def Mach.bundleRanges (m : Mach) (c s b : Nat) (fetched : Bool) : List (Nat × Nat × Nat × Bool) :=
  let k := m.core c
  let v := k.slot s
  let a := v.arch
  let t := v.ctl
  let ws := bS b
  let wv := bV b
  let wt := bT b
  let at_ (o : Option Nat) (n : Nat) (w : Bool) : List (Nat × Nat × Nat × Bool) := o.toList.map fun x => (0, x, n, w)
  let xs (w : Bool) : List (Nat × Nat × Nat × Bool) :=
    match resolve t (m.logical c) (xAddr a ws) 8 w with
    | some p => if p.mesh then [] else [(p.space, p.off, 8, w)]
    | none => []
  (if fetched then at_ (spadAt t t.pc.toNat 16) 16 false else []) ++
  (if sLive a b then (match sOp ws with
    | 0x0A => at_ (rangeAt t (sAddr a ws) 8) 8 false
    | 0x0B => at_ (rangeAt t (sAddr a ws) 8) 8 true
    | 0x0C => xs false
    | 0x0D => xs true
    | _ => []) else []) ++
  (if vLive a b then (match vOp wv with
    | 0x1C => at_ (rangeAt t (vAddr a wv) 128) 128 false
    | 0x1D => at_ (rangeAt t (vAddr a wv) 128) 128 true
    | _ => []) else []) ++
  (if tLive a b then (match tOp wt with
    | 1 | 2 => (if tOpnd wt < 0x20 then at_ (rangeAt t (tAddr a wt) (tBytes a wt)) (tBytes a wt) false else []) ++
        ((tScales a wt).map fun x => at_ (spadAt t x.2.2 1) 1 false).flatten
    | 3 => if tOpnd wt < 0x20 then at_ (rangeAt t (tAddr a wt) (tBytes a wt)) (tBytes a wt) true else []
    | 8 | 9 | 0xA =>
      (match m.readDesc c s (readS a (tOpnd wt % 32)).toNat with
       | some d => (0, d.1, 64, false) ::
           (m.descSpans c s (mvKind (tOp wt)) d.2).map fun x => (x.1, x.2.1, x.2.2.1 + 1 - x.2.1, x.2.2.2)
       | none => [])
    | _ => []) else [])

/-- Cause 3: a held scoreboard entry, or the fence (R85, R154). -/
def Mach.blocksStore (m : Mach) (c s b cc : Nat) (fetched : Bool) : Bool :=
  let k := m.core c
  fenceWaits k (m.logical c) s (bFence b) cc || (m.bundleRanges c s b fetched).any fun r => k.sbHit cc r.1 r.2.1 r.2.2.1 r.2.2.2

/-- Registers that a bundle reads: file (0 s, 1 p, 2 v) and number. -/
def bundleReads (a : SlotArch) (b : Nat) : List (Nat × Nat) :=
  (if bPs b || bPv b || bPt b then [(1, bPred b)] else []) ++
  (if sLive a b then (sReads (bS b)).map (fun r => (0, r)) ++ (sReadsP (bS b)).map (fun r => (1, r)) else []) ++
  (if vLive a b then (vReads (bV b)).map (fun r => (2, r)) ++ (vReadsS (bV b)).map (fun r => (0, r)) else []) ++
  (if tLive a b then (tReadsS (bT b)).map (fun r => (0, r)) else [])

/-- Cause 4: a register that an earlier bundle has still to deliver (R59). -/
def blocksReg (v : Slot) (b cc : Nat) : Bool :=
  (bundleReads v.arch b).any fun r => v.run.locks.any fun l => l.file == r.1 && l.reg == r.2 &&
    (match l.ready with
     | some t => cc < t
     | none => true)

/-- Whether an optional cycle bound has not yet passed. -/
def busyIn (t : Option Nat) (cc : Nat) : Bool :=
  match t with
  | some x => cc ≤ x
  | none => false

/-- Whether rows [a, a + n) meet rows [b, b + k). -/
def rowsMeet (a n b k : Nat) : Bool := a < b + k && b < a + n

/-- Cause 5: the array, the load path, a weight buffer or accumulator rows in use (R130, R131). Rows outside the slot's block are no cause of waiting: they fault at
issue (R93). -/
def blocksEngine (k : Core) (s b cc : Nat) : Bool :=
  let v := k.slot s
  let w := bT b
  let wb := b2n (bitOf w (if tOp w = 1 then 26 else 9))
  tLive v.arch b &&
  (match tOp w with
   | 1 => busyIn k.eng.loadTo cc || k.eng.ops.any fun o => o.slot == s && (match o.work with
       | .mac x .. => x == wb && cc ≤ o.busyTo
       | .ld x _ => x == wb
       | _ => false)
   | 2 => busyIn k.eng.busyTo cc || k.eng.ops.any fun o => o.slot == s && (match o.work with
       | .ld x _ => x == wb
       | _ => false)
   | 3 | 4 => busyIn k.eng.busyTo cc || (rowsOk v.ctl w && k.eng.ops.any fun o => (match o.work with
       | .mac _ _ _ _ acc rows .. => rowsMeet (tAcc w) (tRows w) acc rows
       | _ => false))
   | _ => false)

/-- A free read ID of a slot between lo and hi (R181). -/
def freeRid (v : Slot) (lo hi : Nat) : Option Nat :=
  ((List.range (hi - lo)).map (· + lo)).find? fun i => !v.run.rids.contains i

/-- Whether an LDX or STX can be taken now: read ID, room, tokens, and the write-backs its line needs (R150, R181). -/
def Mach.canAccess (m : Mach) (c s : Nat) (p : Place) (load : Bool) : Bool :=
  let k := m.core c
  let v := k.slot s
  let cid := v.ctl.cid.toNat
  let cached := p.cached && 0 < k.mem.cbanks
  let tag := waOf p.space p.core p.off / 128
  if cached then
    match k.findLine tag with
    | some _ => load || m.canCacheStore c s tag
    | none =>
      if k.fills.any fun f => f.tag == tag then true
      else !k.setBusy tag && (match k.victim tag with
          | some l => !l.dirty || m.canWriteBack c l
          | none => true) &&
        (m.lineOwn c tag || ((freeRid v 0 32).isSome && m.canRequest c cid 0 1 4 p.core))
  else if p.mesh then (!load || (freeRid v 0 32).isSome) && m.canRequest c cid 0 1 0 p.core
  else true

/-- Cause 7: a send, remote access or signal cannot enter the router (R80, R181, R185, R268). A TILE.ST to a send port does not wait for it: it issues, and backpressure
holds its messages (R132; DEDUCED against R80's general words, log 78). -/
def Mach.blocksSend (m : Mach) (c s b : Nat) : Bool :=
  let k := m.core c
  let v := k.slot s
  let a := v.arch
  let cid := v.ctl.cid.toNat
  let ws := bS b
  let sp (o : Nat) : Nat := (vget v.ali.sp (o % 8)).toNat
  let vs := if vLive a b then vSends (bV b) else none
  let ch (x : Nat) : Option Nat := (sendTarget k cid x).map (·.1)
  (match vs with
   | some o => !m.canSend c cid (sp o) 4 0
   | none => false) ||
  (sLive a b && (match sOp ws with
    | 0x1B | 0x1C =>
      let pre := match vs with
        | some o => if ch (sp o) = ch (sp (sImm ws)) then 4 else 0
        | none => 0
      !m.canSend c cid (sp (sImm ws)) 1 pre
    | 0x0C => (resolve v.ctl (m.logical c) (xAddr a ws) 8 false).any fun p => !m.canAccess c s p true
    | 0x0D => (resolve v.ctl (m.logical c) (xAddr a ws) 8 true).any fun p => !m.canAccess c s p false
    | 0x19 => hudAddrOk v.ctl (readS a (sRs1 ws)).toNat && !m.canSig c cid (readS a (sRs1 ws)).toNat
    | _ => false))

/-- Cause 8: descriptors or scoreboard entries exhausted (R90, R133, R154, R160). -/
def Mach.blocksFull (m : Mach) (c s b cc : Nat) : Bool :=
  let k := m.core c
  let v := k.slot s
  let w := bT b
  tLive v.arch b &&
  (match tOp w with
   | 1 | 2 | 3 => tOpnd w < 0x20 && (rangeAt v.ctl (tAddr v.arch w) (tBytes v.arch w)).isSome && k.sbFree cc == 0
   | 8 | 9 | 0xA =>
     (match m.readDesc c s (readS v.arch (tOpnd w % 32)).toNat with
      | some d => !dZero d.2 && (16 ≤ v.run.descs.length || k.sbFree cc < (m.descSpans c s (mvKind (tOp w)) d.2).length)
      | none => false)
   | _ => false)

/-- The lowest-numbered blocking cause of a bundle that is at hand, 0 when none applies (R55). -/
def Mach.blockBundle (m : Mach) (c s b : Nat) (fetched : Bool) : Nat :=
  let k := m.core c
  let cc := m.cc
  if blocksQueue k s b cc then 1
  else if blocksHuddle k s b cc then 2
  else if m.blocksStore c s b cc fetched then 3
  else if blocksReg (k.slot s) b cc then 4
  else if blocksEngine k s b cc then 5
  else if m.blocksSend c s b then 7
  else if m.blocksFull c s b cc then 8
  else 0

/-- The blocking cause of a node of a plane (R243). -/
def Mach.nodeBlock (m : Mach) (c s i : Nat) : Nat :=
  match ((m.core c).slot s).plane with
  | some p => m.blockBundle c s (lget p.nodes i).toNat false
  | none => 10

/-- The lowest-numbered blocking cause of a slot or plane in a cycle, 0 when it is ready (R54, R55, R245). -/
def Mach.blockOf (m : Mach) (c s : Nat) : Nat :=
  let v := (m.core c).slot s
  match v.ctl.st with
  | .parked => 9
  | .running =>
    match v.plane with
    | some p => (List.range p.nodes.length).foldl (fun b i => min b (m.nodeBlock c s i)) 8
    | none =>
      if m.cc < v.run.fetchAt then 6
      else if (spadAt v.ctl v.ctl.pc.toNat 16).isNone then 0
      else match v.bundle with
        | none => 6
        | some b => m.blockBundle c s b true
  | _ => 10

end Sys2Proof.Machine
end

