-- ==== Sys2Proof/Machine/Issue.lean ====
section
/-! DEFINITION. Issuing one bundle: what its S, V and T parts do (R52, R61, R63, R73, R84 to R92, R126 to R133, R145 to
R152, R159, R160, R422, R423). -/

namespace Sys2Proof.Machine

open Sys2Proof

/-! ## Registers with their interlocks (R59, R137) -/

/-- A register becomes available at a cycle, or when its load completes. -/
def setLock (v : Slot) (file reg : Nat) (ready : Option Nat) (cc : Nat) : Slot :=
  let keep := v.run.locks.filter fun l => !(l.file == file && l.reg == reg) && (match l.ready with
    | some t => cc < t
    | none => true)
  { v with run := { v.run with locks := { file := file, reg := reg, ready := ready } :: keep } }

/-- Write an s-register with its latency; an older load to it still pending delivers nowhere. -/
def putS (v : Slot) (reg : Nat) (x : BitVec 64) (cc lat : Nat) : Slot :=
  let v := setLock v 0 reg (some (cc + lat)) cc
  { v with arch := writeS v.arch reg x,
           run := { v.run with accs := v.run.accs.map fun a => if a.load && a.rd == reg then { a with rd := 32 } else a } }

/-- Write a predicate. -/
def putP (v : Slot) (n : Nat) (x : Bool) (cc : Nat) : Slot :=
  let v := setLock v 1 n (some (cc + 1)) cc
  { v with arch := writeP v.arch n x }

/-- Write a v-register with its latency. -/
def putV (v : Slot) (reg img cc lat : Nat) : Slot :=
  let v := setLock v 2 reg (some (cc + lat)) cc
  { v with arch := { v.arch with v := vset v.arch.v reg (BitVec.ofNat 1024 img) } }

/-- Cycles after issue of a V part's result (R59, R137; BF16 and FP16 as FP32, log 18). -/
def vLatency (w : Nat) : Nat :=
  match vOp w with
  | 0x01 | 0x02 | 0x03 | 0x04 => if fmtIsInt (vFmt w) then 2 else 4
  | 0x0E => 4
  | 0x0F => 9
  | 0x12 | 0x13 | 0x14 => 6
  | 0x18 | 0x1B => 6
  | 0x19 => 5
  | 0x1A => 10
  | 0x1C => 5
  | _ => 2

/-- Cycles after issue of a scalar result (R59). -/
def sLatency (w : Nat) : Nat :=
  match sOp w with
  | 0x07 => 3
  | 0x0A => 4
  | _ => 1

/-! ## Sentry sampling (R422, R423) -/

/-- The reciprocal D of the sampling fraction by its code, 0 for none. -/
def senD (code : Nat) : Nat :=
  match code with
  | 1 => 256
  | 2 => 64
  | 3 => 32
  | 4 => 16
  | 5 => 8
  | _ => 0

/-- Bytes of packets that a core has received and holds. -/
def Core.packetBytes (k : Core) : Nat := (k.packets.map fun p => p.size).sum

/-- Count an eligible operation of a kind (0 matrix, 1 vector) and say whether it is sampled. -/
def senCount (v : Slot) (lindex kind slot : Nat) : Slot × Bool :=
  let d := senD v.ali.frac.toNat
  if d = 0 then (v, false)
  else
    let n := if kind = 0 then v.ali.nMat else v.ali.nVec
    let phase := (37 * v.ctl.stepCount.toNat + lindex + 16 * slot) % d
    let due := n % d == phase || (if kind = 0 then v.ali.deferMat else v.ali.deferVec)
    let ali := if kind = 0 then { v.ali with nMat := n + 1 } else { v.ali with nVec := n + 1 }
    ({ v with ali := ali }, due)

/-- Mark whether a sample of a kind waits for the next eligible operation. -/
def setDefer (a : SlotAlias) (kind : Nat) (d : Bool) : SlotAlias :=
  if kind = 0 then { a with deferMat := d } else { a with deferVec := d }

/-- Bytes of the packets on their way to a partner. -/
def Mach.prepBytes (m : Mach) (p : Nat) : Nat :=
  (m.cores.map fun e => ((e.2.prep.filter fun x => x.1.partner == p).map fun x => x.1.size).sum).sum

/-- Prepare the packet of a sampled operation for the partner, or defer it when the packet of its kind is still being sent or the partner has no room (R423). result is
what the origin's CRC covers, size the packet's bytes, occ the array cycles of the operation. -/
def Mach.senSend (m : Mach) (c s kind : Nat) (result : Bytes) (size : Nat) (step : BitVec 32) (occ : Nat) : Mach :=
  let v := (m.core c).slot s
  let p := m.runs v.ali.partner.toNat
  if (m.core p).packetBytes + m.prepBytes p + size ≤ 32768 && !((m.core c).prep.any fun x => b2n (x.1.kind == 1) == b2n (kind == 1)) then
    let crc := BitVec.ofNat 32 (crc32 result)
    let pkt : SenPkt := { origin := c, slot := s, cid := v.ctl.cid, kind := kind, crc := crc, expect := crc,
                          step := step, partner := p, size := size, occ := occ }
    let m := m.onCore c fun k => { k with prep := k.prep ++ [(pkt, (size + 31) / 32)] }
    m.onSlot c s fun v => { v with ali := setDefer { v.ali with sampled := inc64 v.ali.sampled } kind false }
  else
    m.onSlot c s fun v => { v with ali := setDefer { v.ali with deferred := inc64 v.ali.deferred } kind true }

/-- One cycle of the packets that a core sends: one flit more of the first, with the context's tokens; a packet that is sent is the partner's (R423; log 88). -/
def Mach.senAdvance (m : Mach) (c : Nat) : Mach :=
  match (m.core c).prep with
  | [] => m
  | (p, n) :: r =>
    let s := min 1 (seams c p.partner)
    m.when (m.hasFlitTok c p.cid.toNat 1 s) fun m =>
      let m := m.takeFlitTok c p.cid.toNat 1 s
      if 1 < n then m.onCore c fun k => { k with prep := (p, n - 1) :: r }
      else (m.onCore c fun k => { k with prep := r }).onCore p.partner fun k => { k with packets := k.packets ++ [p] }

/-! ## Scratchpad reads with poison (R168) -/

/-- The wafer address of a poisoned word that a scratchpad read of slot s meets. -/
def Mach.spadPoison (m : Mach) (c off n : Nat) : Option Nat :=
  ((m.core c).poisonAt 0 off n).map fun o => waOf 0 (m.logical c) o

/-- Bytes of the scratchpad as a slot's read delivers them, from the module as it stood before the bundle (R91): where a word is poisoned the result is a free value, and
the fault's address is added (R168). -/
def Mach.spadFetch (m m0 : Mach) (c off n : Nat) : Bytes × List Nat × Mach :=
  match m0.spadPoison c off n with
  | none => ((m0.core c).readMem 0 off n, [], m)
  | some wa =>
    let d := m.draw
    (toBytes n d.1, [wa], d.2)

/-! ## LDX and STX (R144 to R152) -/

/-- A line is fetched for a miss (R149): its victim goes first, then the READ of a remote line; a line of the own core is
read at its controller. -/
def Mach.startFill (m : Mach) (c s : Nat) (p : Place) : Mach :=
  let tag := waOf p.space p.core p.off / 128
  if (m.core c).fills.any fun f => f.tag == tag then m
  else
    let m := match (m.core c).victim tag with
      | some l => (m.writeBack c l).onCore c fun k => { k with lines := k.lines.filter fun x => x.tag != l.tag }
      | none => m
    let m := m.onCore c fun k => { k with mem := { k.mem with miss := inc64 k.mem.miss } }
    if m.lineOwn c tag then
      m.onCore c fun k => { k with fills := k.fills ++ [{ tag := tag, slot := s, issued := k.reqAt p.space p.off m.cc }] }
    else
      let rid := (freeRid ((m.core c).slot s) 0 32).getD 0
      let m := m.sendRead c s rid .none (tag * 128) 128
      m.onCore c fun k =>
        let k := k.onSlot s fun v => { v with run := { v.run with rids := rid :: v.run.rids } }
        { k with fills := k.fills ++ [{ tag := tag, slot := s, issued := m.cc, rid := some rid }] }

/-- A load pending to register rd. -/
def pendLoad (v : Slot) (rd : Nat) (a : PendAcc) (cc : Nat) : Slot :=
  let v := putS v rd (readS v.arch rd) cc 1
  let v := setLock v 0 rd none cc
  { v with run := { v.run with accs := v.run.accs ++ [{ a with load := true, rd := rd, pc := v.ctl.pc.toNat }] } }

/-- LDX (R145, R149, R152): the faults it raises come as addresses. -/
def Mach.ldx (m m0 : Mach) (c s rd : Nat) (p : Place) : List Nat × Mach :=
  let k := m.core c
  let cc := m.cc
  let wa := waOf p.space p.core p.off
  let tag := wa / 128
  if p.space = 0 && !p.mesh then
    let r := m.spadFetch m0 c p.off 8
    (r.2.1, r.2.2.onSlot c s fun v => putS v rd (BitVec.ofNat 64 (ofBytes r.1)) cc 4)
  else if p.cached && 0 < k.mem.cbanks then
    match k.findLine tag with
    | some l =>
      let poisoned := bitOf l.poison.toNat (p.off % 128 / 8)
      let d := m.draw
      let m := if poisoned then d.2 else m
      let x := if poisoned then BitVec.ofNat 64 d.1 else lineLoad l (p.off % 128)
      (if poisoned then [unitWa wa] else [],
       m.onCore c fun k =>
        let k := k.putLine { l with used := cc }
        let k := { k with mem := { k.mem with hit := inc64 k.mem.hit } }
        k.onSlot s fun v => putS v rd x cc 6)
    | none =>
      let m := m.startFill c s p
      ([], m.onSlot c s fun v => pendLoad v rd { wa := BitVec.ofNat 48 wa, line := some tag } cc)
  else if p.mesh then
    let rid := (freeRid (k.slot s) 0 32).getD 0
    let m := m.sendRead c s rid (.store s (k.slot s).ctl.pc.toNat) wa 8
    ([], m.onSlot c s fun v =>
      let v := { v with run := { v.run with rids := rid :: v.run.rids } }
      pendLoad v rd { wa := BitVec.ofNat 48 wa, rid := some rid } cc)
  else
    ([], m.onCore c fun k =>
      let q : UbAcc := { slot := s, off := p.off, rd := rd, issued := k.reqAt 1 p.off cc }
      let k := { k with ubq := k.ubq ++ [q] }
      k.onSlot s fun v => pendLoad v rd { wa := BitVec.ofNat 48 wa } cc)

/-- STX (R145, R149, R150). -/
def Mach.stx (m : Mach) (c s : Nat) (p : Place) (x : BitVec 64) : Mach :=
  let k := m.core c
  let wa := waOf p.space p.core p.off
  let tag := wa / 128
  if p.space = 0 && !p.mesh then m.onCore c fun k => k.storeMem 0 p.off (toBytes 8 x.toNat)
  else if p.cached && 0 < k.mem.cbanks then
    match k.findLine tag with
    | some l =>
      let m := m.onCore c fun k => { k with mem := { k.mem with hit := inc64 k.mem.hit } }
      m.cacheStore c s l (p.off % 128) x
    | none =>
      let m := m.startFill c s p
      let a : PendAcc := { load := false, wa := BitVec.ofNat 48 wa, value := x, line := some tag, pc := (k.slot s).ctl.pc.toNat }
      m.onSlot c s fun v => { v with run := { v.run with accs := v.run.accs ++ [a] } }
  else if p.mesh then
    let own := m.runs p.core == c
    let m := m.sendWrite c s 0 (.store s (k.slot s).ctl.pc.toNat) wa (toBytes 8 x.toNat)
    m.onSlot c s fun v => countSent v own
  else m.onCore c fun k => { k with ubq := k.ubq ++ [({ slot := s, off := p.off, store := some x, issued := m.cc } : UbAcc)] }

/-! ## The S part (R86) -/

/-- A send of the S part: through the port that a TILE.ST of the same bundle sends through it enters the router after that one's messages (R92), else at once. -/
def Mach.sSend (m : Mach) (c s b : Nat) (old : Slot) (o : Nat) (chunks : List (BitVec 256)) : Mach :=
  let wt := bT b
  if tLive old.arch b && tOp wt = 3 && tOpnd wt = 0x38 + o then
    m.onCore c fun k => match k.eng.ops.reverse with
      | x :: r => (match x.work with
        | .st rows len bytes done dest bnd after =>
          { k with eng := { k.eng with ops := (r.reverse) ++ [{ x with work := .st rows len bytes done dest bnd (after ++ [chunks]) }] } }
        | _ => k)
      | [] => k
  else m.send c s old.ctl.pc.toNat (vget old.ali.sp o).toNat chunks

/-- The S part's effect: faults' addresses, and the module. m0 is the module and old the slot before the bundle (R91), pop the message
that Q.POP takes, csrv what the CSR of a CSRR held. Control flow and PARK are applied by the bundle. -/
def Mach.sPart (m m0 : Mach) (c s b : Nat) (old : Slot) (csrv : Nat) (pop : QMsg) : List Nat × Mach :=
  let w := bS b
  let a := old.arch
  let t := old.ctl
  let x := readS a (sRs1 w)
  let cc := m.cc
  let own := m.logical c
  let slot (f : Slot → Slot) : List Nat × Mach := ([], m.onSlot c s f)
  match sOp w with
  | 0x0A =>
    match rangeAt t (sAddr a w) 8 with
    | some o =>
      let r := m.spadFetch m0 c o 8
      (r.2.1, r.2.2.onSlot c s fun v => putS v (sRd w) (BitVec.ofNat 64 (ofBytes r.1)) cc 4)
    | none => ([], m)
  | 0x0B =>
    match rangeAt t (sAddr a w) 8 with
    | some o => ([], m.onCore c fun k => k.storeMem 0 o (toBytes 8 (readS a (sRd w)).toNat))
    | none => ([], m)
  | 0x0C =>
    match resolve t own (xAddr a w) 8 false with
    | some p => m.ldx m0 c s (sRd w) p
    | none => ([], m)
  | 0x0D =>
    match resolve t own (xAddr a w) 8 true with
    | some p => ([], m.stx c s p (readS a (sRs2 w)))
    | none => ([], m)
  | 0x11 =>
    let o := csrOff s (sImm w)
    ([], (m.onSlot c s fun v => putS v (sRd w) (BitVec.ofNat 64 csrv) cc 1).onCore c
      fun k => csrReadEffect k s o cc)
  | 0x12 => ([], m.csrWrite c s (csrOff s (sImm w)) x.toNat)
  | 0x14 => ([], (m.onSlot c s fun v =>
    { v with ctl := { v.ctl with stepCount := v.ctl.stepCount + 1, stepTag := BitVec.ofNat 16 (sImm w), stepTime := m.now },
             ali := { v.ali with nMat := 0, nVec := 0,
                                 lost := inc64 v.ali.lost (b2n v.ali.deferMat + b2n v.ali.deferVec),
                                 deferMat := false, deferVec := false } }).stepEvent c s)
  | 0x15 => slot fun v => { v with arch := { v.arch with gen := seedAll x.toNat own s } }
  | 0x16 => slot fun v => { v with arch := { v.arch with sd := vset v.arch.sd (sImm w % 8) x } }
  | 0x18 => ([], m.onCore c fun k => k.arm (sImm w % 32) x.toNat (fld (sImm w) 5 2) cc t.cid)
  | 0x19 => ([], m.hudSig c s x.toNat (sImm w) false)
  | 0x1A => ([], (m.onCore c fun k => if old.run.tmo then k else k.hudPass s (sImm w % 32) cc).onSlot c s fun v =>
      { v with run := { v.run with hwSince := none, tmo := false } })
  | 0x1B => ([], m.sSend c s b old (sImm w % 8) [])
  | 0x1C => ([], m.sSend c s b old (sImm w % 8) [BitVec.ofNat 256 x.toNat])
  | 0x1D => slot fun v =>
    putS v (sRd w) (if pop.token then 0 else BitVec.ofNat 64 (pop.chunks.getD 0 0).toNat) cc 1
  | _ =>
    match scalarResult a w t.pc.toNat, predResult a w with
    | some r, _ => slot fun v => putS v (sRd w) r cc (sLatency w)
    | _, some p => slot fun v => putP v p.1 p.2 cc
    | _, _ => ([], m)

/-! ## The V part (R87) -/

/-- A V-part source operand as an image (R78, R79). -/
def vOperand (a : SlotArch) (o : Nat) (pop : QMsg) : Nat :=
  if o < 0x20 then (vget a.v o).toNat
  else if o = 0x20 then 0
  else if o = 0x21 then vbuild0 32 32 id
  else msgLanes pop

/-- Images of the source operands, each queue operand taking the next popped message. -/
def vOperands (a : SlotArch) : List Nat → List QMsg → List Nat
  | [], _ => []
  | o :: r, ps =>
    if 0x38 ≤ o then vOperand a o (ps.headD {}) :: vOperands a r (ps.drop 1) else vOperand a o {} :: vOperands a r ps

/-- An image as the four chunks of a vector send (R80). -/
def imgChunks (img : Nat) : List (BitVec 256) := (List.range 4).map fun i => BitVec.ofNat 256 (fld img (256 * i) 256)

/-- The V part's effect, by the module m0 and the slot as they stood before the bundle. -/
def Mach.vPart (m m0 : Mach) (c s b : Nat) (old : Slot) (pops : List QMsg) : List Nat × Mach :=
  let w := bV b
  let a := old.arch
  let cc := m.cc
  match vOp w with
  | 0x00 => ([], m)
  | 0x1D =>
    match rangeAt old.ctl (vAddr a w) 128 with
    | some o => ([], m.onCore c fun k => k.storeMem 0 o (toBytes 128 (vget a.v (vDst w % 32)).toNat))
    | none => ([], m)
  | op =>
    let src := vOperands a (vSrcs w) pops
    let r : List Nat × Nat × Nat × Gens × Mach :=
      if op = 0x1C then
        match rangeAt old.ctl (vAddr a w) 128 with
        | some o => let f := m.spadFetch m0 c o 128
                    (f.2.1, ofBytes f.1, 0, a.gen, f.2.2)
        | none => ([], 0, 0, a.gen, m)
      else
        let q := vcompute old.ctl.subn w (src.getD 0 0) (src.getD 1 0) (src.getD 2 0)
          (vget a.v (vSrc1 w + 1)).toNat (vget a.v (vSrc2 w + 1)).toNat (readS a (fld w 22 5)).toNat a.gen
        ([], q.1, q.2.1, q.2.2, m)
    let m := r.2.2.2.2
    let pair := op == 0x18 || op == 0x19 || op == 0x1A || op == 0x1B
    let lat := vLatency w
    let now := (m.core c).slot s
    let cnt := if op == 0x10 || op == 0x11 || op == 0x1C then (now, false) else senCount now (m.logical c) 1 s
    let m := m.onSlot c s fun v =>
      let v := { v with arch := { v.arch with gen := r.2.2.2.1 }, ali := cnt.1.ali }
      let v := if vDst w < 0x20 then putV v (vDst w) r.2.1 cc lat else v
      if pair then putV v (vDst w + 1) r.2.2.1 cc lat else v
    let m := if cnt.2 then m.senSend c s 1 (toBytes 128 r.2.1 ++ if pair then toBytes 128 r.2.2.1 else []) 640 old.ctl.stepCount 0 else m
    let m := match vSends w with
      | some o => m.send c s old.ctl.pc.toNat (vget old.ali.sp o).toNat (imgChunks r.2.1)
      | none => m
    (r.1, m)

/-! ## The T part (R88, R126 to R133, R159, R160) -/

/-- How many scale bytes an operation reads for nr rows or columns of nk positions (R100). -/
def nScales (sd nr nk : Nat) : Nat := if sdFmt sd = 0 then 0 else nr * ((nk + sdBlk sd - 1) / sdBlk sd)

/-- Scale bytes of a tile operation at index 32·row + k, by weights at 32·k + column, from the module m0 as it stood before the bundle, with the addresses of poisoned
words; a byte of such a word is a free value (R168). -/
def Mach.readScales (m m0 : Mach) (c : Nat) (t : SlotCtl) (weights : Bool) (xs : List (Nat × Nat × Nat)) :
    Bytes × List Nat × Mach :=
  let faults := xs.filterMap fun x => (spadAt t x.2.2 1).bind fun o => m0.spadPoison c o 1
  let d := m.draw
  let byte (i o : Nat) : Byte := if (m0.spadPoison c o 1).isSome then BitVec.ofNat 8 (d.1 / 2 ^ (8 * i)) else memByte (m0.core c).sram o
  let cells := xs.filterMap fun x => (spadAt t x.2.2 1).map fun o =>
    let i := if weights then 32 * x.2.1 + x.1 else 32 * x.1 + x.2.1
    (i, byte i o)
  (if xs.isEmpty then [] else (List.range 1024).map fun i => agetD cells i 0, faults, if faults.isEmpty then m else d.2)

/-- The bytes a tile operand streams or loads: from scratchpad or a popped message (R126, R127). All of them are read in the issue cycle: the spec does not say in which
cycle of the operation each byte is read, which shows where a remote write lands meanwhile (DESIGN CHOICE, log 79). -/
def Mach.tileSource (m m0 : Mach) (c : Nat) (old : Slot) (w n : Nat) (pop : QMsg) : Bytes × List Nat × Mach :=
  if 0x38 ≤ tOpnd w then (padTo (if pop.token then [] else msgBytes pop) n, [], m)
  else match rangeAt old.ctl (tAddr old.arch w) n with
    | some o => m.spadFetch m0 c o n
    | none => (padTo [] n, [], m)

/-- Whether a TILE.MAC spends the weight swap (R129). -/
def swapCycles (k : Core) (s wb : Nat) : Nat := if k.eng.last = some (s, wb) then 0 else 2

/-- Take a scratchpad range's scoreboard entry for a tile operation; none for queues and sends (R133). A TILE.ST holds its own until its last row is
written. -/
def tileEntry (k : Core) (cc s : Nat) (o : Option Nat) (n : Nat) (write : Bool) (upTo : Option Nat) : Option Nat × Core :=
  match o with
  | none => (none, k)
  | some x =>
    let r := k.sbTake cc s 0 x (x + n - 1) write upTo
    (some r.1, r.2)

/-- MV.GO, MV.FLUSH, MV.INVAL (R159, R160): a zero-length descriptor that passes its checks signals in the next cycle. -/
def Mach.mvIssue (m : Mach) (c s : Nat) (kind : MvKind) (raw : Bytes) : Mach :=
  let bad := m.descBad c s kind raw
  if dZero raw && !bad then
    if dHaddr raw = 0 then m else m.onSlot c s fun v => { v with run := { v.run with sigs := v.run.sigs ++ [dHaddr raw] } }
  else
    let spans := if bad then [] else m.descSpans c s kind raw
    m.onCore c fun k =>
      let r := spans.foldl (fun acc x =>
        let e := acc.2.sbTake m.cc s x.1 x.2.1 x.2.2.1 x.2.2.2 none
        (acc.1 ++ [e.1], e.2)) (([] : List Nat), k)
      r.2.onSlot s fun v =>
        let d : MvDesc := { kind := kind, raw := raw, issued := m.cc, serial := v.run.serial, sbs := r.1, bad := bad,
                             pc := v.ctl.pc.toNat }
        { v with run := { v.run with serial := v.run.serial + 1, descs := v.run.descs ++ [d] } }

/-- The T part's effect, by the module m0 and the slot as they stood before the bundle; a TILE.ST draws from the slot's generators after the V part's draws (R121). -/
def Mach.tPart (m m0 : Mach) (c s b : Nat) (old : Slot) (pop : QMsg) : List Nat × Mach :=
  let w := bT b
  let a := old.arch
  let cc := m.cc
  match tOp w with
  | 1 =>
    let fb := tFmt w
    let n := ldBytes fb
    let queue := 0x38 ≤ tOpnd w
    let src := m.tileSource m0 c old w n pop
    let m := src.2.2
    let sc := m.readScales m0 c old.ctl true (tScales a w)
    let m := sc.2.2
    let wb := b2n (bitOf w 26)
    let busy := cc + ldCycles fb queue - 1
    let buf : WBuf := { fmtb := BitVec.ofNat 4 fb, filled := true, tile := src.1, scales := sc.1,
                        sfmt := BitVec.ofNat 2 (sdFmt (vget a.sd (tScl w)).toNat),
                        nsc := nScales (vget a.sd (tScl w)).toNat 32 (ldRows fb) }
    (src.2.1 ++ sc.2.1, m.onCore c fun k =>
      let e := tileEntry k cc s (if queue then none else rangeAt old.ctl (tAddr a w) n) n false (some busy)
      let o : TileOp := { slot := s, work := .ld wb buf, busyTo := busy, doneAt := busy + 1, sb := e.1, pc := old.ctl.pc.toNat }
      { e.2 with eng := { e.2.eng with loadTo := some busy, ops := e.2.eng.ops ++ [o] } })
  | 2 =>
    let wb := b2n (bitOf w 9)
    let buf := vget a.wbuf wb
    let fa := tFmt w
    let exact := bitOf w 13
    let pair := bitOf w 12
    let n := tBytes a w
    let queue := 0x38 ≤ tOpnd w
    let src := m.tileSource m0 c old w n pop
    let m := src.2.2
    let sc := m.readScales m0 c old.ctl false (tScales a w)
    let m := sc.2.2
    let cnt := senCount ((m.core c).slot s) (m.logical c) 0 s
    let p := passes fa exact
    let occ := tRows w * (if pair then max p 2 else p)
    let swap := swapCycles (m.core c) s wb
    let busy := cc + swap + occ - 1
    let psize := 64 + buf.tile.length + buf.nsc + n +
      nScales (vget a.sd (tScl w)).toNat (tRows w) (kExtent fa buf.fmtb.toNat) +
      (if bitOf w 11 then 0 else 256 * tRows w)
    let work : TileWork := .mac wb buf (BitVec.ofNat 4 fa) (BitVec.ofNat 2 (sdFmt (vget a.sd (tScl w)).toNat)) (tAcc w)
      (tRows w) exact pair (bitOf w 11) (bitOf w 10) old.ctl.subn src.1 sc.1
    (src.2.1 ++ sc.2.1, m.onCore c fun k =>
      let k := k.onSlot s fun v => { v with ali := cnt.1.ali }
      let e := tileEntry k cc s (if queue then none else rangeAt old.ctl (tAddr a w) n) n false (some busy)
      let o : TileOp := { slot := s, work := work, busyTo := busy, doneAt := busy + 7, sb := e.1, sample := cnt.2,
                          step := old.ctl.stepCount, psize := psize, occ := occ, pc := old.ctl.pc.toNat }
      { e.2 with eng := { e.2.eng with busyTo := some busy, last := some (s, wb), ops := e.2.eng.ops ++ [o] } })
  | 3 =>
    let f := tFmt w
    let n := tBytes a w
    let rows := (List.range (tRows w)).map fun i => (m.core c).accRow (tAcc w + i)
    let out := stRows f (fld w 27 3) (bitOf w 13) (bitOf w 12) old.ctl.subn rows ((m.core c).slot s).arch.gen
    let send := 0x38 ≤ tOpnd w
    let dest := if send then none else rangeAt old.ctl (tAddr a w) n
    let busy := cc + tRows w - 1
    let cnt := senCount ((m.core c).slot s) (m.logical c) 0 s
    let work : TileWork := .st (tRows w) (oRowBytes f) out.1 0 dest (if send then vget old.ali.sp (tOpnd w - 0x38) else 0) []
    ([], m.onCore c fun k =>
      let k := k.onSlot s fun v => { v with arch := { v.arch with gen := out.2 }, ali := cnt.1.ali }
      let k := if bitOf w 11 then k.zeroAcc (tAcc w) (tRows w) else k
      let e := tileEntry k cc s dest n true none
      let o : TileOp := { slot := s, work := work, busyTo := busy, doneAt := if send then busy else busy + 4,
                          sb := e.1, sample := cnt.2, step := old.ctl.stepCount, pc := old.ctl.pc.toNat,
                          psize := 64 + 256 * tRows w + (if rmBits (fld w 27 3) = 0 then 0 else 256), occ := tRows w }
      { e.2 with eng := { e.2.eng with busyTo := some busy, ops := e.2.eng.ops ++ [o] } })
  | 4 =>
    let busy := cc + (tRows w + 7) / 8 - 1
    ([], m.onCore c fun k =>
      let k := k.zeroAcc (tAcc w) (tRows w)
      let o : TileOp := { slot := s, work := .zero (tAcc w) (tRows w), busyTo := busy, doneAt := busy + 1 }
      { k with eng := { k.eng with busyTo := some busy, ops := k.eng.ops ++ [o] } })
  | 8 | 9 | 0xA =>
    match m0.readDesc c s (readS a (tOpnd w % 32)).toNat with
    | some d => ([], m.mvIssue c s (mvKind (tOp w)) d.2)
    | none => ([], m)
  | _ => ([], m)

/-! ## The bundle (R52, R58, R61, R73, R91, R92) -/

/-- Where the PC goes after a bundle, and when the next bundle can issue (R58). -/
def nextPc (v : Slot) (b cc : Nat) (taken : Bool) : Slot :=
  match (if taken then branchTarget v.arch (bS b) v.ctl.pc.toNat else none) with
  | none => { v with ctl := { v.ctl with pc := v.ctl.pc + 16 } }
  | some x =>
    let t := x.toNat
    let v := { v with ctl := { v.ctl with pc := BitVec.ofNat 19 t } }
    if v.run.fbuf.any fun e => e.1 == t then { v with run := { v.run with fetchAt := cc + 2 } }
    else { v with run := { v.run with fbuf := [], fetchAt := cc + 5 } }

/-- PARK (R61): immediate when an enabled source is pending, else PARKED. -/
def parkSlot (k : Core) (s cc : Nat) : Core :=
  if k.wakeNow s != 0 then
    k.onSlot s fun v => { v with ctl := { v.ctl with wakeCause := v.ctl.wakeCause ||| 32 } }
  else
    let k := k.onSlot s fun v => { v with ctl := { v.ctl with st := .parked, block := 9 } }
    { k with pwr := { k.pwr with park := some cc } }

/-- Whether STOP takes the effect of an S part away: a branch, a CALL or a PARK in its bundle has none (R73). -/
def stopsS (b : Nat) : Bool := bStop b && [0x0E, 0x0F, 0x10, 0x13].contains (sOp (bS b))

/-- All parts of a bundle that raises no fault, and what follows it (R52, R61, R73). Every part reads memory as it stood before the bundle (R91). The V part's sends precede
the T part's and these the S part's (R92); where a V and an S part store to the same bytes, the S part's store stands (DESIGN CHOICE, log 77). A template neither moves the PC nor
ends or parks its plane (R241, R244). -/
def Mach.runBundle (m : Mach) (c s b : Nat) (template : Bool) : Mach :=
  let old := (m.core c).slot s
  let p := popsOf old.arch b
  let msgs := takePops (m.core c) [] (p.1 ++ p.2.1 ++ p.2.2)
  let sLiv := sLive old.arch b
  let nv := p.1.length
  let nt := p.2.1.length
  let csrv := (m.csr c s (csrOff s (sImm (bS b)))).getD 0
  let m0 := m
  let m := m.onCore c fun k => dropPops k m.cc (p.1 ++ p.2.1 ++ p.2.2)
  let rv := if vLive old.arch b then m.vPart m0 c s b old (msgs.take nv) else ([], m)
  let rt := if tLive old.arch b then rv.2.tPart m0 c s b old ((msgs.drop nv).headD {}) else ([], rv.2)
  let rs := if sLiv && !stopsS b then rt.2.sPart m0 c s b old csrv ((msgs.drop (nv + nt)).headD {}) else ([], rt.2)
  let m := rs.2
  let m := if template then m else m.onSlot c s fun v => nextPc v b m.cc (sLiv && !bStop b)
  let m :=
    if template then m
    else if bStop b then m.onSlot c s fun v =>
      { v with ctl := { v.ctl with st := .halted, block := 10, cause := 0, imprecise := false, more := false } }
    else if sLiv && sOp (bS b) = 0x13 then m.onCore c fun k => parkSlot k s m.cc
    else m
  (rs.1 ++ rv.1 ++ rt.1).foldl (fun m wa => m.poisonFault c s wa old.ctl.pc.toNat) m

/-- Count an issue at the slot, as spare where it was one, and at its context (R68, R280, R281). -/
def Mach.countIssue (m : Mach) (c s : Nat) (spare : Bool) : Mach :=
  let cid := ((m.core c).slot s).ctl.cid.toNat
  let m := m.onSlot c s fun v => { v with cnt := { v.cnt with issue := inc64 v.cnt.issue, spare := inc64 v.cnt.spare (b2n spare) } }
  (m.onCtx cid fun x => { x with prog := { x.prog with issued := inc64 x.prog.issued } }).progress1 cid

/-- A bundle issues (R52): all of its parts take effect, the issue is counted, and its record reaches the field's trace unit (R68, R437). -/
def Mach.issues (m : Mach) (c s b : Nat) (template spare : Bool) : Mach :=
  ((m.runBundle c s b template).countIssue c s spare).traceIssue c s ((m.core c).slot s).ctl.pc.toNat b

/-- One bundle of a ready slot: a fault, after which nothing of it has taken effect, or its issue (R52, R58). -/
def Mach.issueBundle (m : Mach) (c s : Nat) (spare : Bool) : Mach :=
  let old := (m.core c).slot s
  let pc := old.ctl.pc.toNat
  match spadAt old.ctl pc 16, old.bundle with
  | none, _ => m.preciseFault c s 1 pc
  | some _, none => m
  | some o, some b =>
    match m.bundleFault c s b, m.spadPoison c o 16 with
    | some f, _ => m.preciseFault c s f.1 f.2
    | none, some wa => m.poisonFault c s wa
    | none, none => m.issues c s b false spare

/-- One firing of node i of a plane (R243, R244): a fault halts the plane with SLOT_FAULT_PC 16·i; else SLOT_PC reads
16·i and the template's parts run. -/
def Mach.issueNode (m : Mach) (c s i : Nat) (spare : Bool) : Mach :=
  match ((m.core c).slot s).plane with
  | none => m
  | some p =>
    let b := (lget p.nodes i).toNat
    match m.bundleFault c s b with
    | some f => m.preciseFault c s f.1 (16 * i)
    | none =>
      let m := m.onSlot c s fun v =>
        { v with ctl := { v.ctl with pc := BitVec.ofNat 19 (16 * i) },
                 plane := some { p with ptr := i, active := true, fires := inc64 p.fires } }
      m.issues c s b true spare

end Sys2Proof.Machine
end

