-- ==== Sys2Proof/Machine/TileSt.lean ====
section
/-! DEFINITION. A TILE.ST under way: the rows it writes and the messages it sends, cycle by cycle (R92, R132 to R134). -/

namespace Sys2Proof.Machine

open Sys2Proof

/-- Send messages of a TILE.ST in order while they can enter the router (R132); what is left stays. -/
def sendRows (m : Mach) (c s pc v : Nat) : List (List (BitVec 256)) → List (List (BitVec 256)) × Mach
  | [] => ([], m)
  | x :: r =>
    if m.canSend c ((m.core c).slot s).ctl.cid.toNat v (max 1 x.length) 0 then sendRows (m.send c s pc v x) c s pc v r else (x :: r, m)

/-- Chunks in messages of eight. -/
def msgsOf : Nat → List (BitVec 256) → List (List (BitVec 256))
  | 0, _ => []
  | n + 1, l => if l.isEmpty then [] else l.take 8 :: msgsOf n (l.drop 8)

/-- Bytes as messages of 256 B, the last one filled to whole chunks (R132). -/
def rowMsgs (b : Bytes) : List (List (BitVec 256)) := msgsOf (toChunks b).length (toChunks b)

/-- How many of a TILE.ST's rows are due by a cycle: its last one in the cycle of its completion, and each earlier one a cycle before the next (R132). -/
def TileOp.rowsDue (o : TileOp) (rows t : Nat) : Nat := min rows (t + rows - o.doneAt)

/-- What a TILE.ST does by the current cycle: the rows that are due are written, or the messages whose last row is due enter the router while they can, in
order; none while an earlier TILE.ST of the slot through the same binding has messages left. Answers the operation, and whether it has messages left. -/
def Mach.stStep (m : Mach) (c : Nat) (behind : Bool) (o : TileOp) : TileOp × Bool × Mach :=
  match o.work with
  | .st rows len bytes done (some d) bnd after =>
    let due := max done (min bytes.length (o.rowsDue rows m.cc * len))
    let part := (bytes.take due).drop done
    let m := if part.isEmpty then m else m.onCore c fun k =>
      let k := k.storeMem 0 (d + done) part
      if due < bytes.length then k else k.sbRelease m.cc (o.sb.getD k.sbNext)
    ({ o with work := .st rows len bytes due (some d) bnd after }, false, m)
  | .st rows len bytes done none bnd after =>
    if behind then (o, true, m)
    else
      let due := min bytes.length (o.rowsDue rows m.cc * len)
      let whole := max done (if due = bytes.length then due else due / 256 * 256)
      let msgs := rowMsgs ((bytes.take whole).drop done)
      let r := sendRows m c o.slot o.pc bnd.toNat msgs
      let done := if r.1.isEmpty then whole else done + 256 * (msgs.length - r.1.length)
      let q := if done = bytes.length then sendRows r.2 c o.slot o.pc bnd.toNat after else (after, r.2)
      ({ o with work := .st rows len bytes done none bnd q.1 }, done < bytes.length || !q.1.isEmpty, q.2)
  | _ => (o, false, m)

/-- The slot and the binding of a TILE.ST to a send port. -/
def TileOp.sendKey (o : TileOp) : Option (Nat × BitVec 64) :=
  match o.work with
  | .st _ _ _ _ none bnd _ => some (o.slot, bnd)
  | _ => none

/-- Every TILE.ST of a core in turn, with the send keys of those that have messages left. -/
def stFold (c : Nat) : List TileOp → List (Option (Nat × BitVec 64)) → Mach → List TileOp × Mach
  | [], _, m => ([], m)
  | o :: r, left, m =>
    let x := m.stStep c (o.sendKey.isSome && left.contains o.sendKey) o
    let y := stFold c r (if x.2.1 then o.sendKey :: left else left) x.2.2
    (x.1 :: y.1, y.2)

/-- The current cycle of every TILE.ST of a core. -/
def Mach.stAdvance (m : Mach) (c : Nat) : Mach :=
  let r := stFold c (m.core c).eng.ops [] m
  r.2.onCore c fun k => { k with eng := { k.eng with ops := r.1 } }

/-- Whether a TILE.ST has written its last row or sent its last message. -/
def TileOp.stored (o : TileOp) : Bool :=
  match o.work with
  | .st _ _ bytes done _ _ after => bytes.length ≤ done && after.isEmpty
  | _ => false

end Sys2Proof.Machine
end

