-- ==== Sys2Proof/Machine/Seq.lean ====
section
/-! DEFINITION. One issue cycle of a core's sequencer, and the cycles that throttling removes (R52 to R57,
R66, R68, R235, R236, R243, R377; log 10). -/

namespace Sys2Proof.Machine

open Sys2Proof

/-! ## Removed cycles (R236, R377, log 10) -/

/-- Whether n of w cycles, spread evenly, take in position p when the pattern starts at a phase. -/
def spread (n w p : Nat) : Bool := w - n ≤ p * n % w && 0 < n

/-- Whether throttling removes the current cycle of a core: by its level, or by the ramp after stall-idle. -/
def cycleRemoved (w : Pwr) (cc : Nat) : Bool :=
  spread w.level 16 (cc + Config.skipPhase w.level) ||
  (match w.ramp with
   | some (start, step) => spread (3 - step) 4 (cc - start + Config.skipPhase (16 + step))
   | none => false)

/-- A cycle bound that lies ahead, one cycle later. -/
def later (t : Option Nat) (cc : Nat) : Option Nat := t.map fun x => if cc ≤ x then x + 1 else x

/-- A removed cycle stops the sequencer and every engine of CORE_LOGIC: what they have under way takes one cycle more. -/
def Core.delay (k : Core) (cc : Nat) : Core :=
  let op (o : TileOp) : TileOp :=
    { o with busyTo := if cc ≤ o.busyTo then o.busyTo + 1 else o.busyTo,
             doneAt := if cc ≤ o.doneAt then o.doneAt + 1 else o.doneAt }
  let run (r : SlotRun) : SlotRun :=
    { r with locks := r.locks.map (fun l => { l with ready := later l.ready cc }),
             fetchAt := if cc < r.fetchAt then r.fetchAt + 1 else r.fetchAt }
  { k with eng := { k.eng with ops := k.eng.ops.map op, busyTo := later k.eng.busyTo cc, loadTo := later k.eng.loadTo cc },
           sb := k.sb.map (fun e => { e with upTo := later e.upTo cc }),
           slots := k.slots.map (fun (v : Slot) => { v with run := run v.run }) }

/-! ## One issue cycle (R54 to R56) -/

/-- A new round (R56). -/
def Core.newRound (k : Core) : Core :=
  let credit (s : Nat) : Nat :=
    let t := (k.slot s).ctl
    if t.st = .running || t.st = .parked then t.weight.toNat else 0
  { k with seq := { k.seq with credit := Vector.ofFn fun i => credit i.val, left := 16 } }

/-- The first of a list of slots after a pointer, in the order 0, 1, 2, 3, 0, … -/
def firstAfter (ptr : Nat) (l : List Nat) : Option Nat := [ptr + 1, ptr + 2, ptr + 3, ptr + 4].map (· % 4) |>.find? l.contains

/-- Whether a slot or plane waits at a fence that reaches beyond the core (R150). -/
def Mach.atFence (m : Mach) (c s : Nat) : Bool :=
  let v := (m.core c).slot s
  v.ctl.st == SlotSt.running &&
  (match v.plane with
   | some p => (List.range p.nodes.length).any fun i => m.nodeBlock c s i == 3 && 2 ≤ bFence (lget p.nodes i).toNat
   | none => (match v.bundle with
     | some b => 2 ≤ bFence b
     | none => false))

/-- Write back the lines of a fence list while they can go (R150). -/
def Mach.fenceFlush (m : Mach) (c s : Nat) : Mach :=
  if m.atFence c s then
    ((m.core c).slot s).run.fence.foldl (fun m tag =>
      match (m.core c).findLine tag with
      | some l => if m.canWriteBack c l then m.writeBack c l else m
      | none => m) m
  else m

/-- The signals that zero-length descriptors of earlier cycles have still to send (R160). -/
def Mach.sendSigs (m : Mach) (c s : Nat) : Mach :=
  let v := (m.core c).slot s
  v.run.sigs.foldl (fun m wa =>
    if m.canSig c v.ctl.cid.toNat wa then m.hudSig c s wa 1 true
    else m.onSlot c s fun v => { v with run := { v.run with sigs := v.run.sigs ++ [wa] } })
    (m.onSlot c s fun v => { v with run := { v.run with sigs := [] } })

/-- The signals of a slot's history that are still to be sent again enter the URGENT queue while it has room and their tokens are there (R226). -/
def Mach.sendAgain (m : Mach) (c s : Nat) : Mach :=
  let v := (m.core c).slot s
  v.run.resend.foldl (fun m r =>
    if ((m.core c).slot s).run.resend.isEmpty && m.canSigFar c v.ctl.cid.toNat r.target.toNat then m.putUrgent c s (signalFlit m c s r true) r.target.toNat
    else m.onSlot c s fun v => { v with run := { v.run with resend := v.run.resend ++ [r] } })
    (m.onSlot c s fun v => { v with run := { v.run with resend := [] } })

/-- Whether a slot storage set holds a plane. -/
def Mach.isPlane (m : Mach) (c s : Nat) : Bool := ((m.core c).slot s).plane.isSome

/-- The nodes of a plane that are fireable now (R243). -/
def Mach.nodesNow (m : Mach) (c s : Nat) : List Nat :=
  match ((m.core c).slot s).plane with
  | some p => (List.range p.nodes.length).filter fun i => m.nodeBlock c s i == 0
  | none => []

/-- What the sequencer decides for a cycle (R54). -/
def Mach.decideCycle (m : Mach) (c : Nat) : CycleStart :=
  { at_ := m.cc, blocks := [0, 1, 2, 3].map fun s => m.blockOf c s, nodes := [0, 1, 2, 3].map fun s => m.nodesNow c s }

/-- Whether a core's sequencer, mover and engines have the current cycle: its clocks run, and throttling does not remove it. -/
def Core.hasCycle (k : Core) (cc : Nat) : Bool :=
  k.pwr.logic == .on && !k.pwr.gated && !k.pwr.stopped && !cycleRemoved k.pwr cc

/-- The start of a cycle at a core, once per cycle: pending signals go, each slot fetches, lines go that a fence waits for, and the sequencer decides for each slot
whether it is ready (R54, R58, R150, R160, R226). -/
def Mach.cycleStart (m : Mach) (c : Nat) : Mach :=
  let k := m.core c
  if k.start.any fun x => x.at_ == m.cc then m
  else
    let m := if k.hasCycle m.cc then
        let m := [0, 1, 2, 3].foldl (fun m s => (m.sendSigs c s).sendAgain c s) m
        let m := m.onCore c fun k => [0, 1, 2, 3].foldl (fun k s => fetchStep k s m.cc) k
        [0, 1, 2, 3].foldl (fun m s => m.fenceFlush c s) m
      else m
    m.onCore c fun k => { k with start := some (m.decideCycle c) }

/-- The nodes of a plane that were fireable at the start of the cycle and still are: an event of this cycle makes none fireable (R54, R243). -/
def Mach.fireable (m : Mach) (c s : Nat) : List Nat :=
  match (m.core c).start with
  | some x => if x.at_ = m.cc then (lget x.nodes s).filter fun i => m.nodeBlock c s i == 0 else m.nodesNow c s
  | none => m.nodesNow c s

/-- The blocking cause of a slot in the current cycle (R54, R55): that of the cycle's start, since an event of this cycle makes no slot ready in it; a cause that has
arisen since counts too. -/
def Mach.blockAt (m : Mach) (c s : Nat) : Nat :=
  let now := if m.blockOf c s = 0 && m.isPlane c s && (m.fireable c s).isEmpty then 5 else m.blockOf c s
  match (m.core c).start with
  | some x =>
    let b := lget x.blocks s
    if x.at_ ≠ m.cc || b = 0 || 9 ≤ now || (9 ≤ b && now = 6) then now else b
  | none => now

/-- Whether the HUD.WAIT of a slot's next bundle blocks, whatever else does (R227). -/
def Core.waitBlocks (k : Core) (s cc : Nat) : Bool :=
  let v := k.slot s
  v.ctl.st == .running && v.plane.isNone && (match v.bundle with
    | some b => blocksHuddle k s b cc
    | none => false)

/-- What the cycle's status and counters become for a slot blocked by cause b; wait says that a HUD.WAIT of it blocks, whose limit counts from the first such cycle
on (R68, R227). -/
def slotCycle (v : Slot) (b : Nat) (wait : Bool) (tick : Nat) : Slot :=
  let n := v.cnt
  let cnt : SlotCnt :=
    match b with
    | 0 => n
    | 1 => { n with blkq := inc64 n.blkq }
    | 2 => { n with blkh := inc64 n.blkh }
    | 3 | 4 => { n with blks := inc64 n.blks }
    | 5 | 6 | 7 | 8 => { n with blko := inc64 n.blko }
    | _ => { n with blkp := inc64 n.blkp }
  { v with ctl := { v.ctl with ready := b == 0, block := BitVec.ofNat 4 b }, cnt := cnt,
           run := { v.run with hwSince := if wait then some (v.run.hwSince.getD tick) else v.run.hwSince } }

/-- Whether the engines of a core are idle (R235). -/
def Core.enginesIdle (k : Core) : Bool := k.eng.ops.isEmpty && k.slots.toList.all fun v => v.run.descs.isEmpty && v.run.sigs.isEmpty

/-- Since when the conditions of R235 hold without a break. -/
def waitSince (k : Core) (blocks : List Nat) (cc : Nat) : Option Nat :=
  if !blocks.contains 0 && blocks.contains 2 && k.enginesIdle then some (k.pwr.waitSince.getD cc) else none

/-- The cycle of a core's sequencer: counters and readiness (R54, R66, R68). Answers the ready slots of a cycle in
which the sequencer can issue; none in a removed cycle, in stall-idle, or when the core has had its cycle. -/
def Mach.countCycle (m : Mach) (c : Nat) : List Nat × Mach :=
  let cc := m.cc
  let k := m.core c
  if k.pwr.logic != .on || k.lastIssue = some cc then ([], m)
  else if cycleRemoved k.pwr cc then
    ([], m.onCore c fun k => { k.delay cc with cycles := inc64 k.cycles, skipped := inc64 k.skipped, lastIssue := some cc })
  else
    let m := m.cycleStart c
    let blocks := [0, 1, 2, 3].map fun s => m.blockAt c s
    let ready := [0, 1, 2, 3].filter fun s => lget blocks s == 0
    let m := m.onCore c fun k =>
      let k := if k.seq.left = 0 then k.newRound else k
      let k := { k with slots := Vector.ofFn fun i => slotCycle (k.slot i.val) (lget blocks i.val) (k.waitBlocks i.val cc) m.now.toNat }
      { k with cycles := inc64 k.cycles, idle := inc64 k.idle (b2n ready.isEmpty), lastIssue := some cc,
               ready4 := BitVec.ofNat 4 ((ready.map fun s => 2 ^ s).sum),
               seq := { k.seq with left := k.seq.left - 1 },
               pwr := { k.pwr with waitSince := waitSince k blocks cc } }
    let w := (m.core c).pwr
    (if w.gated || w.stall || w.stopped then [] else ready, m)

/-- The slot that the weighted round-robin of R56 takes from the ready ones: by credit, else spare. -/
def Wrr.choose (q : Wrr) (ready : List Nat) : Option (Nat × Bool) :=
  match firstAfter q.sharePtr (ready.filter fun s => 0 < vget q.credit s) with
  | some s => some (s, false)
  | none => (firstAfter q.sparePtr ready).map fun s => (s, true)

/-- Credit and pointers after a choice. -/
def Wrr.taken (q : Wrr) (s : Nat) (spare : Bool) : Wrr :=
  if spare then { q with sparePtr := s }
  else { q with credit := vset q.credit s (vget q.credit s - 1), sharePtr := s }

/-- One issue cycle with its choice: the slot that issues and whether as spare, and the module with the cycle counted and the choice taken. -/
def Mach.issueCycle (m : Mach) (c : Nat) : Option (Nat × Bool) × Mach :=
  let r := m.countCycle c
  match (r.2.core c).seq.choose r.1 with
  | none => (none, r.2)
  | some (s, spare) => (some (s, spare), r.2.onCore c fun k => { k with seq := k.seq.taken s spare })

/-- The node that a plane fires: the first fireable one after its node pointer (R243). -/
def Mach.nextNode (m : Mach) (c s : Nat) : Option Nat :=
  match ((m.core c).slot s).plane with
  | none => none
  | some p =>
    let n := p.nodes.length
    ((List.range n).map fun i => (p.ptr + 1 + i) % n).find? fun i => (m.fireable c s).contains i

/-- BUNDLE_ISSUE (R52): the issue cycle in which the sequencer chooses a slot. -/
def bundleIssueAt (c : Nat) (cells : List CellErr) (m : Mach) : Mach :=
  let m := m.cellErrs c cells
  match m.issueCycle c with
  | (some (s, spare), m') => if m.isPlane c s then m else m'.issueBundle c s spare
  | (none, m') => m'

/-- NODE_FIRE (R243): the issue cycle in which it chooses a plane. -/
def nodeFireAt (c : Nat) (cells : List CellErr) (m : Mach) : Mach :=
  let m := m.cellErrs c cells
  match m.issueCycle c with
  | (some (s, spare), m') =>
    (match m'.nextNode c s with
     | some i => m'.issueNode c s i spare
     | none => m)
  | (none, m') => m'

end Sys2Proof.Machine
end

