-- ==== Sys2Proof/Machine/Route.lean ====
section
/-! DEFINITION. Link frames and the routing of fabric messages (R29, R282, R285 to R287, R292, R297, R298, R302, R303). -/

namespace Sys2Proof.Machine

open Sys2Proof

/-! ## Link frames (R285, R287) -/

def frHdr (f : Bytes) : Nat := le f 0 8
def frChan (f : Bytes) : Nat := fld (frHdr f) 0 3
def frVc (f : Bytes) : Nat := fld (frHdr f) 3 1
def frSeq (f : Bytes) : Nat := fld (frHdr f) 4 12
def frTag (f : Bytes) : Nat := fld (frHdr f) 16 16
def frOp (f : Bytes) : Nat := fld (frHdr f) 32 4
def frHead (f : Bytes) : Bool := bitOf (frHdr f) 36
def frTail (f : Bytes) : Bool := bitOf (frHdr f) 37
def frErr (f : Bytes) : Bool := bitOf (frHdr f) 38
def frAckSeq (f : Bytes) : Nat := fld (frHdr f) 40 12
def frAckV (f : Bytes) : Bool := bitOf (frHdr f) 52
def frLen (f : Bytes) : Nat := fld (frHdr f) 53 7
/-- The valid payload bytes. -/
def frPay (f : Bytes) : Bytes := (f.drop 8).take (frLen f)

/-- The fields of a transport header (R287). -/
def thDst (h : Bytes) : Nat := le h 0 4 % 2 ^ 25
def thSrc (h : Bytes) : Nat := le h 4 4 % 2 ^ 25
def thLin (h : Bytes) : Nat := le h 8 4 % 2 ^ 31
def thOrig (h : Bytes) : Nat := le h 12 4
def thLen (h : Bytes) : Nat := le h 16 2

/-- A transport header. -/
def mkTh (dst src lin orig mlen : Nat) : Bytes :=
  toBytes 4 dst ++ toBytes 4 src ++ toBytes 4 lin ++ toBytes 4 orig ++ toBytes 2 mlen ++ toBytes 2 0

/-- ORIG (R287). -/
def mkOrig (core slot rid space : Nat) : Nat := core + slot * 2 ^ 17 + rid * 2 ^ 19 + space * 2 ^ 25

/-- A frame with its CRC; sequence and acknowledgement numbers are filled in when an engine sends it. -/
def mkFrame (chan vc fseq tag op : Nat) (head tail err : Bool) (ack : Option Nat) (pay : Bytes) : Bytes :=
  let h := chan + vc * 2 ^ 3 + fseq * 2 ^ 4 + tag * 2 ^ 16 + op * 2 ^ 32 + b2n head * 2 ^ 36 + b2n tail * 2 ^ 37 +
    b2n err * 2 ^ 38 + (match ack with
      | some a => a * 2 ^ 40 + 2 ^ 52
      | none => 0) + pay.length * 2 ^ 53
  let b := toBytes 8 h ++ padTo pay 116
  b ++ toBytes 4 (crc32 b)

/-- The body frames of a message's data (R287). -/
def bodyFrames : Nat → Nat → Nat → Nat → Nat → Bytes → List Bytes
  | 0, _, _, _, _, _ => []
  | n + 1, chan, vc, tag, op, d =>
    if d.isEmpty then []
    else mkFrame chan vc 0 tag op false (d.length ≤ 116) false none (d.take 116) ::
      bodyFrames n chan vc tag op (d.drop 116)

/-- A fabric message as frames: a HEAD frame with the transport header and up to 96 B, then body frames. -/
def mkFrames (chan vc tag op : Nat) (err : Bool) (th data : Bytes) : List Bytes :=
  mkFrame chan vc 0 tag op true (data.length ≤ 96) err none (th ++ data.take 96) ::
    bodyFrames 8 chan vc tag op (data.drop 96)

/-! ## Ports and their engine sets (R282, R298) -/

/-- Engines of a port when whole, and its minimum (R282). -/
def portEngines (p : Nat) : Nat := if p = 8 then 4 else 6
def portMin (p : Nat) : Nat := if p = 8 then 2 else 4

/-- The active engine indices of a port, sorted. -/
def Mach.activeSet (m : Mach) (p : Nat) : List Nat :=
  (List.range 8).filter fun i => bitOf (m.port p).active.toNat i

/-- Whether an engine takes frames in: it is not training, and not down (R311, R313). -/
def LightEng.carries (g : LightEng) : Bool := [EngSt.active, .asking, .leading, .following, .drain].contains g.st

/-- Whether an engine sends ordinary frames: between a request and its retrain both ends hold them (R311). -/
def LightEng.sends (g : LightEng) : Bool := [EngSt.active, .asking, .drain].contains g.st

/-- Whether an engine has passed the cabling check of R307. -/
def LightEng.cabled (g : LightEng) : Bool := g.ident.isSome && !g.miscabled

/-- Active engines of a port that have passed it. -/
def Mach.cabledIn (m : Mach) (p : Nat) : List Nat :=
  (m.activeSet p).filter fun i => match m.engAt p i with
    | some e => (m.eng e).cabled
    | none => false

/-- Whether a port carries context traffic: its minimum of engines, and no quarantine (R282, R307, R316). -/
def Mach.portUp (m : Mach) (p : Nat) : Bool :=
  portMin p ≤ (m.cabledIn p).length && !(m.port p).quarantined && m.fabric.assigned &&
  !((List.range 56).any fun e => m.engPort e == p && (m.eng e).mismatch && (m.eng e).st == EngSt.active)

/-- Element n mod N of a list of N. -/
def pick (l : List Nat) (n : Nat) : Option Nat := l[n % max 1 l.length]?

/-- The engine that serves a port for a hash (R298). -/
def Mach.engFor (m : Mach) (p hash : Nat) : Option Nat := (pick (m.activeSet p) hash).bind fun i => m.engAt p i

/-- Engine k of the next port when k is active there, else A(k mod N) (R298). -/
def Mach.engOnward (m : Mach) (p k : Nat) : Option Nat :=
  if (m.activeSet p).contains k then m.engAt p k else m.engFor p k

/-- Anchor m of a field (R202). -/
def anchorOf (f m : Nat) : Nat := coreAt (f % 8 * 48 + 22 + m % 16 % 4) (f / 8 * 48 + 22 + m % 16 / 4)

/-! ## Routing (R302, R303) -/

/-- A coordinate with the value of dimension d replaced. -/
def coordSet (co d v : Nat) : Nat := co - coordOf co d * 2 ^ (6 * d) + v * 2 ^ (6 * d)

/-- The values that a way from a to b visits after a, plus being the direction; size n. -/
def wayVals (plus : Bool) (a b n : Nat) : List Nat :=
  let k := if plus then (b + n - a) % n else (a + n - b) % n
  (List.range k).map fun i => if plus then (a + i + 1) % n else (a + n * 2 - i - 1) % n

/-- The port that starts a way along a dimension (R29). -/
def wayPort (d : Nat) (plus : Bool) : Nat := 2 * d + b2n plus

/-- Whether a way passes a failed entry of its port, or a port of this device that is down (R303). -/
def Mach.wayFailed (m : Mach) (d : Nat) (plus : Bool) (b : Nat) : Bool :=
  let own := m.fabric.coord.toNat
  let a := coordOf own d
  let n := m.dimSize d
  let vals := wayVals plus a b n
  let p := wayPort d plus
  !m.portUp p ||
  (m.port p).detours.any fun e =>
    if e.2.2 = 1 then vals.any fun v => coordSet own d v == e.2.1
    else (a :: vals.dropLast).any fun v => coordSet own d v == e.2.1

/-- The dimension that a message resolves next (R302): W, Z, Y, X. -/
def nextDim (own dst : Nat) : Option Nat := [3, 2, 1, 0].find? fun d => coordOf own d != coordOf dst d

/-- The way that R302 chooses along a dimension: the shorter, + when equal. -/
def Mach.shortPlus (m : Mach) (d dst : Nat) : Bool :=
  let a := coordOf m.fabric.coord.toNat d
  let b := coordOf dst d
  let n := m.dimSize d
  (b + n - a) % n ≤ (a + n - b) % n

/-- The way of a message that starts along a dimension here: the other way where the chosen one passes a failed entry,
none when neither is clear (R303). -/
def Mach.startWay (m : Mach) (d dst : Nat) : Option Bool :=
  let w := m.shortPlus d dst
  if !m.wayFailed d w (coordOf dst d) then some w
  else if !m.wayFailed d (!w) (coordOf dst d) then some (!w)
  else none

/-- Whether the link from this device along a way is the dimension's dateline (R292). -/
def Mach.onDateline (m : Mach) (d : Nat) (plus : Bool) : Bool :=
  let a := coordOf m.fabric.coord.toNat d
  if plus then a + 1 == m.dimSize d else a == 0

/-- Where a message for a coordinate goes from here. -/
inductive Route where
  | here
  | out (port vc : Nat)
  | unreachable
  deriving DecidableEq, Repr, Inhabited

/-- Routing of a message that starts a dimension here (R302, R303). -/
def Mach.route (m : Mach) (dst : Nat) : Route :=
  let own := m.fabric.coord.toNat
  if dst = own then .here
  else if dst / 2 ^ 24 % 2 != own / 2 ^ 24 % 2 then (if m.portUp 8 then .out 8 0 else .unreachable)
  else match nextDim own dst with
    | none => .here
    | some d =>
      match m.startWay d dst with
      | some w => .out (wayPort d w) (b2n (m.onDateline d w))
      | none => .unreachable

/-- The attachment of an anchor core as a mesh target (R297). -/
def attachWa (anchor : Nat) : Nat := waOf 0xE anchor 0x4000000

end Sys2Proof.Machine
end

