-- ==== Sys2Proof/Machine/Mover.lean ====
section
/-! DEFINITION. The mover: MOVER_GRANULE, MOVER_DESCRIPTOR_COMPLETE and MOVER_DESCRIPTOR_FAULT (R151, R161 to R165, R168,
R254, R294, R297, R298, R460). -/

namespace Sys2Proof.Machine

open Sys2Proof

/-! ## Descriptors of a slot -/

/-- The running descriptor of a slot: its oldest (R162). -/
def Slot.running (v : Slot) : Option MvDesc := v.run.descs.head?

/-- A slot with the descriptor of a serial number changed. -/
def Slot.onDesc (v : Slot) (serial : Nat) (f : MvDesc → MvDesc) : Slot :=
  { v with run := { v.run with descs := v.run.descs.map fun d => if d.serial == serial then f d else d } }

/-- Free the scoreboard entries of descriptors. -/
def Core.freeDescs (k : Core) (cc : Nat) (ds : List MvDesc) : Core :=
  (ds.map fun d => d.sbs).flatten.foldl (fun k id => k.sbRelease cc id) k

/-- A descriptor ends without completing: it and every later one of the slot are dropped and their entries freed
(R460). -/
def Core.endDesc (k : Core) (s serial cc : Nat) : Core :=
  let ds := (k.slot s).run.descs
  (k.freeDescs cc (ds.filter fun d => serial ≤ d.serial)).onSlot s fun v =>
    { v with run := { v.run with descs := v.run.descs.filter fun d => d.serial < serial } }

/-- Every descriptor of a slot is cancelled (R164). -/
def Core.cancelDescs (k : Core) (s cc : Nat) : Core := k.endDesc s 0 cc

/-! ## The sides of a granule -/

/-- Where the bytes of a granule lie on one side. -/
inductive MvSide where
  | mem (space off : Nat)
  | far (wa : Nat)
  | fabric (addr : Nat)
  | nowhere
  deriving DecidableEq, Repr, Inhabited

/-- The side at an address for n bytes. -/
def Mach.mvSide (m : Mach) (c s a n : Nat) (write : Bool) : MvSide :=
  if kindOf a = 3 then .fabric a
  else match resolve ((m.core c).slot s).ctl (m.logical c) a n write with
    | some p => if p.mesh then .far (waOf p.space p.core p.off) else .mem p.space p.off
    | none => .nowhere

/-- The address that a descriptor has reached on a side, 0 source, 1 destination. -/
def mvAt (d : MvDesc) (side : Nat) : Nat := ofInt 64 ((dRun d.raw side d.plane d.run : Int) + d.done)

/-- The longest message from a window-linear address that does not cross a 1 KiB boundary (R294). -/
def linPiece (a left : Nat) : Nat := min left (1024 - fLin a % 1024)

/-- Bytes of the next granule: 32 B, or the whole READ of a fabric source. -/
def mvBytes (d : MvDesc) : Nat :=
  let left := dLen d.raw - d.done
  if d.kind = .go && !dFill d.raw && kindOf (dSrc d.raw) == 3 then linPiece (mvAt d 0) left
  else if d.kind = .go && kindOf (dDst d.raw) == 3 && fSpace (dDst d.raw) != 2 then min 32 (linPiece (mvAt d 1) left)
  else min 32 left

/-- A descriptor past a granule of n bytes. -/
def mvStep (d : MvDesc) (n : Nat) : MvDesc :=
  let done := d.done + n
  if done < dLen d.raw then { d with done := done }
  else if d.run + 1 < dCnt1 d.raw then { d with done := 0, run := d.run + 1 }
  else { d with done := 0, run := 0, plane := d.plane + 1 }

/-- Whether the last granule has been moved, data of its READs included (R85, R163). -/
def mvDone (d : MvDesc) : MvDesc := { d with moved := dCnt2 d.raw ≤ d.plane && d.reads.isEmpty }

/-! ## Rates (R163) -/

/-- The cost of a granule in 1/301 of a cycle: 32 B/cc costs 301, 30.1 B/cc at a hot tier 320, 16 B/cc 602. -/
def Mach.mvCost (m : Mach) (c : Nat) (src dst : MvSide) : Nat :=
  let k := m.core c
  let one (x : MvSide) : Nat :=
    match x with
    | .mem 1 off => if vget k.care.hot (off / 0xC00000) then 320 else 301
    | .mem _ _ => 0
    | .far wa => if seams c (m.runs (waCore wa)) = 0 then 301 else 602
    | .fabric _ => 301
    | .nowhere => 0
  max (one src) (one dst)

/-- The source side of a descriptor's next granule: none for FILL, MV.FLUSH and MV.INVAL. -/
def Mach.mvSrc (m : Mach) (c s : Nat) (d : MvDesc) : MvSide :=
  if d.kind = .go && !dFill d.raw then m.mvSide c s (mvAt d 0) (mvBytes d) false else .nowhere

/-- The destination side. A SPACE 2 target ignores the destination steps (R294). -/
def Mach.mvDst (m : Mach) (c s : Nat) (d : MvDesc) : MvSide :=
  if kindOf (dDst d.raw) = 3 && fSpace (dDst d.raw) = 2 then .fabric (dDst d.raw)
  else m.mvSide c s (mvAt d 1) (mvBytes d) (d.kind == .go)

/-! ## What a granule needs -/

/-- A fabric target's route, engine field and anchor from core c (R297, R298, R302). -/
def Mach.mvEngine (m : Mach) (c addr : Nat) : Option Nat :=
  match m.route (fDev addr) with
  | .out p _ => (m.engFor p (m.logical c + fDev addr)).map fun e => anchorOf e (c % 16)
  | _ => none

/-- The mesh channel of a fabric message (R297). -/
def mvChan (addr : Nat) : Nat := if fSpace addr = 2 then 2 else 4

/-- Lines of the cache that a granule of a flush touches: n bytes at a wafer address. -/
def lineTags (wa n : Nat) : List Nat := [wa / 128, (wa + n - 1) / 128].eraseDups

/-- The wafer address of a side. -/
def Mach.sideWa (m : Mach) (c : Nat) (x : MvSide) : Nat :=
  match x with
  | .mem space off => waOf space (m.logical c) off
  | .far wa => wa
  | _ => 0

/-- Under-bank granules of a move at its own core (R266): read, and written, be it at once or when the data of a READ comes. -/
def ubGranules (src dst : MvSide) : Nat :=
  let one (x : MvSide) : Nat :=
    match x with
    | .mem 1 _ => 1
    | _ => 0
  one src + one dst

/-- The READ of a descriptor whose data has come and still goes to another core or device, 32 B at a time (R163). -/
def MvDesc.staged (d : MvDesc) : Option MvRead := d.reads.find? fun r => !r.data.isEmpty

/-- The destination of data of a READ: its place in the descriptor's runs. -/
def Mach.readDst (m : Mach) (c s : Nat) (d : MvDesc) (r : MvRead) (n : Nat) : MvSide :=
  let at_ : MvDesc := { d with plane := r.plane, run := r.run, done := r.off }
  if kindOf (dDst d.raw) = 3 && fSpace (dDst d.raw) = 2 then MvSide.fabric (dDst d.raw)
  else m.mvSide c s (mvAt at_ 1) n true

/-- Whether an earlier load still has to read a granule of the core's own memory: the mover writes there after it (log 40). -/
def Mach.loadPending (m : Mach) (c space off : Nat) : Bool :=
  let k := m.core c
  (k.ubq.any fun q => space == 1 && q.store.isNone && q.off / 32 == off / 32) ||
  (k.fills.any fun f => m.lineOwn c f.tag && f.tag * 128 == waOf space (m.logical c) (off / 128 * 128))

/-- Whether data of a descriptor can leave towards a destination in this cycle. -/
def Mach.dstReady (m : Mach) (c cid fmsg : Nat) (dst : MvSide) : Bool :=
  match dst with
  | .mem space off => (m.core c).memReady space off m.cc && !m.loadPending c space off
  | .far wa => m.canRequest c cid 4 1 0 (waCore wa)
  | .fabric a => (match m.mvEngine c a with
    | some anchor => m.canRequest c cid (mvChan a) (if fmsg = 0 then 2 else 1) 0 anchor
    | none => true)
  | .nowhere => true

/-- Whether the next granule of a slot's running descriptor can move in this cycle (R163, R268). -/
def Mach.mvReady (m : Mach) (c s : Nat) : Bool :=
  let k := m.core c
  let v := k.slot s
  let cid := v.ctl.cid.toNat
  match v.running with
  | none => false
  | some d =>
    if d.bad || d.moved || v.ctl.st == .quiesced || m.cc < d.issued + 8 || (m.cc + 1) * 301 ≤ d.paceAt then false
    else if let some r := d.staged then m.dstReady c cid d.fmsg (m.readDst c s d r (min 32 r.len))
    else if dCnt2 d.raw ≤ d.plane then false
    else if d.kind != .go then
      (lineTags (m.sideWa c (m.mvDst c s d)) (mvBytes d)).all fun tag => match k.findLine tag with
        | some l => !l.dirty || m.canWriteBack c l
        | none => true
    else
      let src := m.mvSrc c s d
      let rid := (freeRid v 32 64).isSome
      m.hasTok (ubKey c cid) (ubGranules src (m.mvDst c s d)) &&
      (match src with
       | .mem space off => k.memReady space off m.cc
       | .far wa => rid && m.canRequest c cid 0 1 0 (waCore wa)
       | .fabric a => rid && (match m.mvEngine c a with
          | some anchor => m.canRequest c cid 0 1 0 anchor
          | none => true)
       | .nowhere => true) &&
      (match src with
       | .far _ | .fabric _ => true
       | _ => m.dstReady c cid d.fmsg (m.mvDst c s d))

/-! ## Moving a granule -/

/-- The pattern bytes of a FILL at a physical offset (R159). -/
def fillBytes (pat off n : Nat) : Bytes :=
  (List.range n).map fun i => BitVec.ofNat 8 (fld pat (8 * ((off + i) % 8)) 8)

/-- A flit to an attachment (R297): no payload convention of R181 applies. -/
def Mach.attachSend (m : Mach) (c s ch serial anchor : Nat) (pay : Bytes) (tagLow : Nat) : Mach :=
  let cid := ((m.core c).slot s).ctl.cid
  let wa := attachWa anchor
  let f : Flit := { src := c, cid := cid, chan := ch, op := if ch = 0 then 1 else if ch = 2 then 2 else 0,
                    tag := BitVec.ofNat 8 (s * 64 + tagLow), target := BitVec.ofNat 60 wa, wa := BitVec.ofNat 48 wa,
                    pay := BitVec.ofNat 256 (ofBytes pay), why := .fabric s serial, front := m.cc + 1 }
  let paid := m.payFlits c cid.toNat (min 1 (seams c anchor)) [f]
  paid.2.onCore c fun k => k.enqueue 4 ch paid.1

/-- The header message of a fabric message (R297). -/
def Mach.attachHeader (m : Mach) (c s serial anchor addr rid len : Nat) : Mach :=
  let cid := ((m.core c).slot s).ctl.cid.toNat
  let th := mkTh (fDev addr) m.fabric.coord.toNat (fLin addr) (mkOrig (m.logical c) s rid (fSpace addr)) len
  let ch := if 32 ≤ rid then 0 else mvChan addr
  m.attachSend c s ch serial anchor (th ++ toBytes 2 ((m.jobTagAt cid (fJti addr)).getD 0)) (rid % 64)

/-- A descriptor that reaches no device, as one whose request is answered with ERR (R300, R303). -/
def Mach.mvUnreachable (m : Mach) (c s serial : Nat) : Mach :=
  (m.onCore c fun k => k.endDesc s serial m.cc).impreciseFault c s 4 0
    ((((m.core c).slot s).run.descs.find? fun d => d.serial == serial).map (·.pc))

/-- A slot's counts after a mesh WRITE of its mover. -/
def countMv (v : Slot) (serial : Nat) (own : Bool) : Slot :=
  (countSent v own).onDesc serial fun d => { d with acks := d.acks + 1, own := d.own + b2n own }

/-- Data of a descriptor towards the fabric, off its place in the run: the header first when a message begins. -/
def Mach.mvFabric (m : Mach) (c s serial off addr : Nat) (data : Bytes) : Mach :=
  match m.mvEngine c addr, ((m.core c).slot s).run.descs.find? fun d => d.serial == serial with
  | none, _ => m.mvUnreachable c s serial
  | _, none => m
  | some anchor, some d =>
    let left := dLen d.raw - off
    let total := if fSpace addr = 2 then left else linPiece addr left
    let m :=
      if d.fmsg = 0 then
        (m.attachHeader c s serial anchor addr 0 total).onSlot c s fun v =>
          ({ v with run := { v.run with facks := v.run.facks + 1 } }).onDesc serial fun d =>
            { d with facks := d.facks + 1, fmsg := total }
      else m
    let m := m.attachSend c s (mvChan addr) serial anchor data 0
    m.onSlot c s fun v => v.onDesc serial fun d => { d with fmsg := d.fmsg - data.length }

/-- Bytes written at a destination side, as of one granule (R163). -/
def Mach.mvWrite (m : Mach) (c s serial off : Nat) (dst : MvSide) (data : Bytes) : Mach :=
  match dst with
  | .mem space at_ => m.onCore c fun k => (k.storeMem space at_ data).touch space at_ m.cc
  | .far wa =>
    (m.sendWrite c s 4 (.mover s serial) wa data).onSlot c s fun v => countMv v serial (m.runs (waCore wa) == c)
  | .fabric a => m.mvFabric c s serial off a data
  | .nowhere => m

/-- A READ of a descriptor goes out: its read ID is taken and its place kept (R163, R181). -/
def Mach.mvAsk (m : Mach) (c s : Nat) (d : MvDesc) (n rid : Nat) : Mach :=
  m.onSlot c s fun v =>
    ({ v with run := { v.run with rids := rid :: v.run.rids } }).onDesc d.serial fun d =>
      let r : MvRead := { rid := rid, plane := d.plane, run := d.run, off := d.done, len := n }
      mvStep { d with reads := d.reads ++ [r] } n

/-- MV.FLUSH and MV.INVAL over one granule (R151). -/
def Mach.mvFlush (m : Mach) (c s : Nat) (d : MvDesc) (wa n : Nat) : Mach :=
  let m := (lineTags wa n).foldl (fun m tag => match (m.core c).findLine tag with
    | some l =>
      let far := l.dirty && !m.lineOwn c tag
      let m := m.writeBack c l (some (s, d.serial))
      let m := if far then m.onSlot c s fun v => v.onDesc d.serial fun d => { d with acks := d.acks + 1 } else m
      if d.kind = .inval then m.onCore c fun k => { k with lines := k.lines.filter fun x => x.tag != tag } else m
    | none => m) m
  m.onSlot c s fun v => v.onDesc d.serial fun d => mvDone (mvStep d n)

/-- The bytes a local source side holds, or the wafer address of the poisoned word met (R168). -/
def Mach.mvFetch (m : Mach) (c space off n : Nat) : Bytes × Option Nat :=
  match (m.core c).poisonAt space off n with
  | some p => ([], some (waOf space (m.logical c) p))
  | none => ((m.core c).readMem space off n, none)

/-- One granule of a slot's running descriptor. -/
def Mach.mvMove (m : Mach) (c s : Nat) (d : MvDesc) : Mach :=
  let n := mvBytes d
  let src := m.mvSrc c s d
  let dst := m.mvDst c s d
  let cost := m.mvCost c src dst
  let m := (m.takeTok (ubKey c ((m.core c).slot s).ctl.cid.toNat) (ubGranules src dst)).onSlot c s fun v =>
    v.onDesc d.serial fun d => { d with paceAt := max d.paceAt (m.cc * 301) + cost }
  if d.kind != .go then m.mvFlush c s d (m.sideWa c dst) n
  else
    let put (m : Mach) (data : Bytes) : Mach :=
      (m.mvWrite c s d.serial d.done dst data).onSlot c s fun v => v.onDesc d.serial fun d => mvDone (mvStep d n)
    if dFill d.raw then
      (match dst with
       | .mem _ off => put m (fillBytes (dSrc d.raw) off n)
       | _ => m)
    else match src with
      | .mem space off =>
        let r := m.mvFetch c space off n
        (match r.2 with
         | some wa => (m.onCore c fun k => (k.endDesc s d.serial m.cc).countRead space off n).poisonFault c s wa d.pc
         | none => put (m.onCore c fun k => (k.touch space off m.cc).countRead space off n) r.1)
      | .far wa =>
        let rid := (freeRid ((m.core c).slot s) 32 64).getD 32
        (m.sendRead c s rid (.mover s d.serial) wa n).mvAsk c s d n rid
      | .fabric a =>
        let rid := (freeRid ((m.core c).slot s) 32 64).getD 32
        (match m.mvEngine c a with
         | none => m.mvUnreachable c s d.serial
         | some anchor => (m.attachHeader c s d.serial anchor a rid n).mvAsk c s d n rid)
      | .nowhere => m

/-- Data of a READ, or a part of it, that has returned (R163): written at once in the core's own memory, kept for the granule slots when it
goes further. -/
def Mach.mvLand (m : Mach) (c s serial rid : Nat) (data : Bytes) : Mach :=
  match ((m.core c).slot s).run.descs.find? fun d => d.serial == serial with
  | none => m
  | some d =>
    match d.reads.find? fun r => r.rid == rid with
    | none => m
    | some r =>
      let data := data.take r.len
      let more : MvRead := { r with off := r.off + data.length, len := r.len - data.length }
      let rest := (d.reads.map fun (x : MvRead) => if x.rid == rid then more else x).filter fun x => 0 < x.len || !x.data.isEmpty
      match m.readDst c s d r data.length with
      | .mem space off =>
        (m.mvWrite c s serial r.off (.mem space off) data).onSlot c s fun v =>
          v.onDesc serial fun d => mvDone { d with reads := rest }
      | _ => m.onSlot c s fun v => v.onDesc serial fun d =>
          { d with reads := rest ++ [{ r with rid := 64, data := data, len := data.length }] }

/-- One granule of staged data goes to its destination. -/
def Mach.mvStaged (m : Mach) (c s : Nat) (d : MvDesc) (r : MvRead) : Mach :=
  let n := min 32 r.len
  let dst := m.readDst c s d r n
  let cost := m.mvCost c .nowhere dst
  let left : MvRead := { r with off := r.off + n, len := r.len - n, data := r.data.drop n }
  let reads := d.reads.map (fun x => if x == r then left else x) |>.filter fun x => 0 < x.len
  let m := m.mvWrite c s d.serial r.off dst (r.data.take n)
  m.onSlot c s fun v => v.onDesc d.serial fun d =>
    mvDone { d with reads := reads, paceAt := max d.paceAt (m.cc * 301) + cost }

/-! ## Granule slots (R163) -/

/-- The transfer of a plane that runs now: the oldest of the core (R254). -/
def Core.xferOf (k : Core) (s : Nat) : Option Xfer :=
  match k.xfers with
  | x :: _ => if x.slot = s then some x else none
  | [] => none

/-- Whether the core's running spill, append or refill can move a granule in this cycle. -/
def Mach.xferReady (m : Mach) (c s : Nat) : Bool :=
  match (m.core c).xferOf s with
  | some x => 0 < x.left && x.started + 8 ≤ m.cc && x.paceAt ≤ m.cc && ((m.core c).slot s).ctl.st != .quiesced &&
      m.hasTok (ubKey c ((m.core c).slot s).ctl.cid.toNat) 1
  | none => false

/-- The running transfer ends; the next one starts in the next cycle (R254). -/
def Core.nextXfer (k : Core) (cc : Nat) : Core :=
  { k with xfers := match k.xfers with
    | _ :: y :: r => { y with started := cc + 1 } :: r
    | _ => [] }

/-- One granule of the running transfer; an append ends with its last one. -/
def Mach.xferMove (m : Mach) (c s : Nat) : Mach :=
  (m.takeTok (ubKey c ((m.core c).slot s).ctl.cid.toNat) 1).onCore c fun k =>
    match k.xfers with
    | x :: r =>
      if x.kind = 1 && x.left ≤ 1 then k.nextXfer m.cc
      else { k with xfers := { x with left := x.left - 1, paceAt := m.cc + 1 } :: r }
    | [] => k

/-- Granule slots used in this cycle. -/
def Core.granulesUsed (k : Core) (cc : Nat) : Nat :=
  match k.moverAt with
  | some (t, n) => if t = cc then n else 0
  | none => 0

/-- A round of granule slots. -/
def Core.moverRound (k : Core) : Core :=
  { k with mover := { k.mover with credit := Vector.ofFn fun i => (k.slot i.val).ctl.weight.toNat, left := 16 } }

/-- MOVER_GRANULE (R163): the slot or plane that the round-robin takes moves one granule. -/
def granule (c : Nat) (cells : List CellErr) (m : Mach) : Mach :=
  let m := m.cellErrs c cells
  let k := m.core c
  let cc := m.cc
  let used := k.granulesUsed cc
  if k.pwr.logic != .on || k.pwr.gated || k.pwr.stall || k.pwr.stopped || 2 ≤ used || cycleRemoved k.pwr cc then m
  else
    let ready := [0, 1, 2, 3].filter fun s => m.xferReady c s || m.mvReady c s
    let k := if k.mover.left = 0 then k.moverRound else k
    match k.mover.choose ready with
    | none => m
    | some (s, spare) =>
      let w := k.mover.taken s spare
      let m' := m.setCore c { k with mover := { w with left := w.left - 1 }, moverAt := some (cc, used + 1) }
      if m.xferReady c s then m'.xferMove c s
      else match (k.slot s).running with
        | some d => (match d.staged with
          | some r => m'.mvStaged c s d r
          | none => m'.mvMove c s d)
        | none => m

/-- Granule slots in which no slot was ready count towards the round. -/
def Core.moverIdle (k : Core) (cc : Nat) : Core :=
  let n := 2 - k.granulesUsed cc
  if n ≤ k.mover.left then { k with mover := { k.mover with left := k.mover.left - n } }
  else
    let left := k.mover.left
    let k := k.moverRound
    { k with mover := { k.mover with left := 16 + left - n } }

/-! ## Ends of descriptors -/

/-- Whether the scope of FCLS is satisfied for a moved descriptor (R165): class local takes in writes to its own core that go through the
mesh (R231, R232). -/
def mvVisible (d : MvDesc) : Bool :=
  d.moved && (dFcls d.raw < 1 || d.own == 0) && (dFcls d.raw < 2 || d.acks == 0) && (dFcls d.raw < 3 || d.facks == 0)

/-- MOVER_DESCRIPTOR_COMPLETE (R165): entries free and the huddle is signalled; a full URGENT queue delays it (R185). -/
def descComplete (c s : Nat) (m : Mach) : Mach :=
  let v := (m.core c).slot s
  match v.running with
  | none => m
  | some d =>
    let h := dHaddr d.raw
    m.when (mvVisible d && v.ctl.st != .quiesced && (h == 0 || m.canSig c v.ctl.cid.toNat h)) fun m =>
      let m := m.onCore c fun k => (k.freeDescs m.cc [d]).onSlot s fun v =>
        { v with run := { v.run with descs := v.run.descs.drop 1 } }
      let m := m.progress1 v.ctl.cid.toNat
      if h = 0 then m else m.hudSig c s h 1 true

/-- MOVER_DESCRIPTOR_FAULT (R161): the oldest descriptor that breaks a rule faults; later ones are cancelled. -/
def descFault (c s : Nat) (m : Mach) : Mach :=
  match ((m.core c).slot s).run.descs.find? fun d => d.bad with
  | none => m
  | some d => (m.onCore c fun k => k.endDesc s d.serial m.cc).impreciseFault c s 4 0 d.pc

def execMoverGranule (c : CoreRead) (s : State) : Host.Outcome State Fault Refusal := upd (granule c.core c.cells) s
def execMoverDescriptorComplete (c : CoreIx) (sl : SlotIx) (s : State) : Host.Outcome State Fault Refusal :=
  upd (descComplete c sl) s
def execMoverDescriptorFault (c : CoreIx) (sl : SlotIx) (s : State) : Host.Outcome State Fault Refusal :=
  upd (descFault c sl) s

end Sys2Proof.Machine
end

