-- ==== Sys2Proof/Machine/CorePwr.lean ====
section
/-! DEFINITION. The power states of a core, its slots' wakes, timers and quiescing, stall-idle, and the state of its
under-bank's tiers: SLOT_WAKE, SLOT_WAKE_RETURN, SLOT_QUIESCE, SLOT_RESUME, TIMER_EXPIRY, COMMIT_WINDOW_END,
CORE_WAKE_BY_FLIT, EMPTY_CORE_BRINGUP, PWR_ISO_REL_WRITE, STALL_IDLE_ENTRY, STALL_IDLE_EXIT, THROTTLE_RAMP_STEP,
TIER_SELF_REFRESH_ENTRY, TIER_WAKE, TIER_TEMPERATURE_CHANGE (R62, R65, R69, R129, R173, R174, R235, R236, R355 to R368,
R378). -/

namespace Sys2Proof.Machine

open Sys2Proof

/-! ## When CORE_LOGIC leaves ON (R358, R362) -/

/-- The conditions of R358 but for the votes. -/
def Core.dropBase (k : Core) (cc : Nat) : Bool :=
  (k.slots.toList.all fun v => v.ctl.st == .parked || v.ctl.st == .empty) &&
  (k.slots.toList.any fun v => v.ctl.st == .parked) &&
  k.enginesIdle && !(k.sb.any fun e => sbHeld e cc) && (k.slots.toList.all fun v => v.run.rids.isEmpty) &&
  k.ubq.isEmpty && k.fills.isEmpty && k.xfers.isEmpty && k.prep.isEmpty && !k.pwr.stopped && (match k.pwr.flitWake with
    | some t => t ≤ cc && k.router.lo.all fun e => e.2.isEmpty
    | none => true)

/-- A slot's vote bits clear when it becomes LOADED or EMPTY (R365). -/
def Core.dropVotes (k : Core) (s : Nat) : Core :=
  let keep := ~~~ BitVec.ofNat 32 (255 * 2 ^ (8 * s))
  { k with pwr := { k.pwr with voteCl := k.pwr.voteCl &&& keep, voteBk := k.pwr.voteBk &&& keep } }

/-- Whether a CORE_LOGIC vote is held (R365). -/
def Pwr.voted (w : Pwr) : Bool := w.voteCl != 0 || w.fwVoteCl

/-- The shallowest depth that any PARKED slot asks for (R357); a held vote keeps it at 0 (R366). -/
def Core.dropDepth (k : Core) : Nat :=
  if k.pwr.voted then 0
  else (k.slots.toList.filter fun v => v.ctl.st == .parked).foldl (fun d v => min d v.ali.depth.toNat) 2

/-- Whether the core already stands at the depth it can go to. -/
def Core.settled (k : Core) : Bool := k.pwr.logic != .on || (k.pwr.gated && k.dropDepth == 0)

/-- The start p of the commit window: the cycle in which R358 came to hold (R359, R362). -/
def Core.parkWatch (k : Core) (cc : Nat) : Core :=
  if k.pwr.logic != .on then k
  else if k.dropBase cc && !k.settled then { k with pwr := { k.pwr with park := some (k.pwr.park.getD cc) } }
  else { k with pwr := { k.pwr with park := none } }

/-- Whether the commit window keeps the sequencer from applying R62 (R362). -/
def Core.inWindow (k : Core) (cc : Nat) : Bool :=
  match k.pwr.park with
  | some p => p < cc && cc < p + 4 && k.dropBase cc
  | none => false

/-- Wake sources that a slot selects as an edge (R362): HUDDLE, TIMER, DEBUG in bits 1 to 3. -/
def Slot.edgeSel (v : Slot) : BitVec 4 := BitVec.ofNat 4 (v.ali.wakeSel.toNat * 2)

/-- The edges of a slot that a commit window has lost (R363). -/
def Core.lostEdges (k : Core) (s : Nat) : BitVec 4 :=
  BitVec.ofNat 4 (((k.pwr.edges.filter fun e => e.1 == s).map fun e => 2 ^ e.2).sum)

/-! ## Waking (R62, R357) -/

/-- Whether the core's clocks run: CORE_LOGIC ON, not gated, and past the wake time of a flit (R62). -/
def Core.clocksRun (k : Core) (cc : Nat) : Bool :=
  k.pwr.logic == .on && !k.pwr.gated && (match k.pwr.flitWake with
    | some t => t ≤ cc
    | none => true)

/-- Cycles from a wake event to the first issue (R357). -/
def Core.wakeTime (k : Core) : Nat :=
  (if k.pwr.banks.toList.any fun b => b != .on then 1200 else if k.pwr.logic == .on then 4 else 120) +
  (if k.pwr.fsWake then 600 else 0)

/-- A parked slot becomes RUNNING: the pending sources that caused it go to SLOT_WAKE_CAUSE (R62). It is eligible from the next cycle, for which the sequencer
decides anew (R54). -/
def wakeSlot (v : Slot) (sources : BitVec 4) (aborted : Bool) (cc : Nat) : Slot :=
  let x := sources.toNat + 16 * b2n aborted
  let v := v.note 3 cc v.ctl.wakeCause.toNat x
  { v with ctl := { v.ctl with st := .running, wakeCause := BitVec.ofNat 6 x }, run := { v.run with wakeAt := none } }

/-- The ramp of a lender that wakes (R236, R378). -/
def Pwr.endLoan (w : Pwr) (start : Nat) : Pwr :=
  { w with lending := false, ramp := if w.lending then some (start, 0) else w.ramp }

/-- CORE_LOGIC and the banks back ON; a bank that was OFF reads as zero (R356, R361). -/
def Core.powerUp (k : Core) (start : Nat) : Core :=
  let off := (List.range 6).filter fun b => vget k.pwr.banks b == .off
  { k with sram := off.foldl (fun m b => memClear m (b * 65536) 65536) k.sram,
           poisonS := k.poisonS.filter (fun w => !off.contains (w * 8 / 65536)),
           pwr := { k.pwr.endLoan start with logic := .on, gated := false, banks := .replicate 6 .on,
                                             iso := k.pwr.iso &&& 0x80, fsWake := false, park := none } }

/-- What waits for the core itself: sentry packets (R424), and head flits at its local output, or in an input buffer, and in a space other than
0x1 (R359). -/
def Core.flitWaits (k : Core) (c : Nat) : Bool :=
  let mine (f : Flit) : Bool := !f.mc && waCore f.target.toNat == c && waSpace f.target.toNat != 1
  !k.packets.isEmpty || (k.router.lo.any fun e => match e.2 with
    | f :: _ => f.mc || waSpace f.target.toNat != 1
    | [] => false) ||
  (k.router.bufs.any fun e => match e.2 with
    | f :: _ => mine f
    | [] => false)

/-- SLOT_WAKE (R62): an enabled source is pending. At once where the clocks run, else after the wake time. In a commit
window nothing wakes; where the core has dropped, a lost edge wakes nothing until the next wake event has reached the core: a flit that
wakes the core is served first, so that its message counts among the causes (R362, R363). -/
def slotWakeAt (c s : Nat) (m : Mach) : Mach :=
  let k := m.core c
  let v := k.slot s
  let now := k.wakeNow s
  let seen := if k.clocksRun m.cc && !(k.pwr.flitWake.isSome && k.flitWaits c) then now else now &&& ~~~ k.lostEdges s
  m.when (v.ctl.st == .parked && v.run.wakeAt.isNone && seen != 0 && !k.inWindow m.cc && !k.pwr.stopped) fun m =>
    m.onCore c fun k =>
      let k := { k with pwr := { k.pwr with edges := k.pwr.edges.filter fun e => e.1 != s } }
      if k.clocksRun m.cc then k.onSlot s fun v => wakeSlot v now false m.cc
      else k.onSlot s fun v => { v with run := { v.run with wakeAt := some (m.cc + k.wakeTime - 1), wakeSrc := now } }

/-- SLOT_WAKE_RETURN (R357): the wake time has passed; the slot is RUNNING in the cycle before its first issue, its cause the sources of the wake event (R62). -/
def slotWakeReturnAt (c s : Nat) (m : Mach) : Mach :=
  let v := (m.core c).slot s
  m.when (v.ctl.st == .parked && (match v.run.wakeAt with
      | some t => t ≤ m.cc
      | none => false)) fun m =>
    m.onCore c fun k =>
      let k := if k.clocksRun m.cc then k else k.powerUp (m.cc + 1)
      let k := { k with pwr := { k.pwr with flitWake := none } }
      k.onSlot s fun v => wakeSlot { v with run := { v.run with aborted := false } } v.run.wakeSrc v.run.aborted m.cc

/-- TIMER_EXPIRY (R69): a timer that has reached zero sets TIMER; a new expiry is an edge of its own. -/
def timerExpiryAt (c s : Nat) (m : Mach) : Mach :=
  m.when ((m.core c).slot s).run.due fun m =>
    m.onCore c fun k =>
      let k := { k with pwr := { k.pwr with edges := k.pwr.edges.filter fun e => e != (s, 2) } }
      k.onSlot s fun v => { v.pend 2 m.cc with run := { v.run with due := false } }

/-! ## What a field sleep asks of a core (R369 to R373) -/

/-- Whether a core meets R358 or R360 (R369). -/
def Core.quiet (k : Core) (cc : Nat) : Bool :=
  (k.slots.toList.all fun v => v.ctl.st == .empty) || (k.dropBase cc && !k.pwr.voted)

/-- Whether a wake event has reached a core: a slot runs or has an enabled source pending, or a flit waits for the core. -/
def Core.wakeEvent (k : Core) (c : Nat) : Bool :=
  ((List.range 4).any fun s => (k.slot s).ctl.st == .running || ((k.slot s).ctl.st == .parked && k.wakeNow s != 0)) || k.flitWaits c

/-- Whether an under-bank request waits at a core: at its controller, or as a flit in space 0x1. -/
def Core.ubWaits (k : Core) (c : Nat) : Bool :=
  !k.ubq.isEmpty || !k.ubWait.isEmpty || (k.router.lo.any fun e => !e.2.isEmpty) ||
  (k.router.bufs.any fun e => match e.2 with
    | f :: _ => !f.mc && waCore f.target.toNat == c && waSpace f.target.toNat == 1
    | [] => false)

/-- The listed cores of a field. -/
def Mach.coresOf (m : Mach) (f : Nat) : List (Nat × Core) := m.cores.filter fun e => fieldOf e.1 == f

/-- The end of a committed field sleep (R373): regulators and DRAM tiers back ON; a core with a wake event pays for the wake. -/
def Mach.wakeField (m : Mach) (f : Nat) : Mach :=
  if (m.field f).sleep = .committed then
    let m := (m.onField f fun x => { x with sleep := .awake, tiers := x.tiers.map fun t => if t = .ret then .on else t }).fcEvent f 2
    m.mapCores fun c k =>
      if fieldOf c = f then { k with pwr := { k.pwr with stopped := false, fsleep := false, fsWake := k.wakeEvent c } } else k
  else m

/-! ## Quiescing (R65, R129, R164) -/

/-- A slot quiesced by firmware: the state it had is kept (R60). -/
def quiesceSlot (v : Slot) : Slot :=
  match v.ctl.st with
  | .empty | .quiesced => v
  | st => { v with ctl := { v.ctl with st := .quiesced, block := 10, ready := false },
                   run := { v.run with held := some st, heldFault := false, wakeAt := none },
                   plane := v.plane.map fun p => { p with active := true } }

/-- A quiesced slot resumed: HALTED when a fault was recorded meanwhile; a PARKED slot runs when an enabled source is
pending. -/
def resumeSlot (cc : Nat) (k : Core) (s : Nat) : Core :=
  let v := k.slot s
  if v.ctl.st = .quiesced then
    let st := v.run.held.getD .running
    let now := k.wakeNow s
    let v := { v with ctl := { v.ctl with st := st }, run := { v.run with held := none, heldFault := false },
                      plane := v.plane.map fun p => { p with active := true } }
    let v := if st = .parked && now != 0 then wakeSlot v now false cc else v
    let k := k.setSlot s v
    if (match k.eng.last with
        | some (o, _) => o == s
        | none => false) then { k with eng := { k.eng with last := none } } else k
  else k

/-- SLOT_QUIESCE (R65). -/
def slotQuiesceAt (c s : Nat) (m : Mach) : Mach := (m.wakeField (fieldOf c)).onSlot c s quiesceSlot

/-- SLOT_RESUME (R65). -/
def slotResumeAt (c s : Nat) (m : Mach) : Mach := m.onCore c fun k => resumeSlot m.cc k s

/-! ## Drops (R357, R358, R360 to R363, R378) -/

/-- Banks that depth 2 keeps: resident, cache, or kept by PWR_RETMASK (R361). -/
def Core.bankKept (k : Core) (b : Nat) : Bool :=
  bitOf k.mem.resident.toNat b || 6 - k.mem.cbanks ≤ b || bitOf k.pwr.retmask.toNat b

/-- CORE_LOGIC drops to a depth: gated at 0, RET at 1 and 2. Fetch buffers, credits and round are lost, the pointers
restart at 3 (R355). -/
def Core.dropTo (k : Core) (depth : Nat) : Core :=
  if depth = 0 then { k with pwr := { k.pwr with gated := true } }
  else
    let banks : Vector Dom 6 := Vector.ofFn fun i => if depth = 1 then .on else if k.bankKept i.val then .ret else .off
    { k with slots := k.slots.map (fun (v : Slot) => { v with run := { v.run with fbuf := [], fetchAt := 0 } }),
             seq := {},
             pwr := { k.pwr with logic := .ret, gated := true, banks := banks, cntDrop := inc64 k.pwr.cntDrop } }

/-- A parked slot that a level wakes at the end of the window (R363). -/
def Core.bounceSlot (cc : Nat) (k : Core) (s : Nat) : Core :=
  let v := k.slot s
  if v.ctl.st == .parked && (k.wakeNow s &&& ~~~ v.edgeSel) != 0 then k.setSlot s (wakeSlot v (k.wakeNow s) false cc) else k

/-- Edge-selected sources of parked slots that came during the window (R363). -/
def Core.windowEdges (k : Core) : List (Nat × Nat) :=
  ((List.range 4).map fun s =>
    if (k.slot s).ctl.st == .parked then
      ((List.range 4).filter fun i => bitOf (k.wakeNow s &&& (k.slot s).edgeSel).toNat i && !k.pwr.edges.contains (s, i)).map
        fun i => (s, i)
    else []).flatten

/-- COMMIT_WINDOW_END (R363): in cycle p + 4 a pending level cancels the drop; otherwise the core drops. -/
def commitWindowEndAt (c : Nat) (m : Mach) : Mach :=
  let k := m.core c
  m.when ((match k.pwr.park with
      | some p => p + 4 ≤ m.cc
      | none => false) && k.pwr.logic == .on && k.dropBase m.cc) fun m =>
    m.onCore c fun k =>
      let level := (List.range 4).any fun s =>
        (k.slot s).ctl.st == .parked && (k.wakeNow s &&& ~~~ (k.slot s).edgeSel) != 0
      if level then
        let k := [0, 1, 2, 3].foldl (Core.bounceSlot m.cc) k
        { k with pwr := { k.pwr with park := none, gated := false, cntBounce := inc64 k.pwr.cntBounce } }
      else
        let lost := k.windowEdges
        let k := k.dropTo k.dropDepth
        let lending := if k.pwr.logic == .on then k.pwr.lending else !k.pwr.lendDis
        { k with pwr := { k.pwr with park := none, flitWake := none, lending := lending, edges := k.pwr.edges ++ lost,
                                     cntEdgelost := inc64 k.pwr.cntEdgelost lost.length } }

/-- Everything that OFF loses of CORE_LOGIC and the banks, its CSR values included (R355): the core as it is at core reset, but for its
under-bank and what other domains keep. What waits at its boundary waits on (R356). -/
def Core.lost (k : Core) : Core :=
  { lindex := k.lindex, ubWait := k.ubWait, ubLeft := k.ubLeft, ubLast := k.ubLast, attach := k.attach, packets := k.packets, ub := k.ub, poisonU := k.poisonU, soft := k.soft, router := k.router, care := k.care, gathers := k.gathers,
    suspect := k.suspect, lowSlack := k.lowSlack, lastSlack := k.lastSlack, lastPass := k.lastPass,
    mem := { eccCorr := k.mem.eccCorr, eccUncorr := k.mem.eccUncorr },
    pwr := { k.pwr with logic := .off, banks := .replicate 6 .off, gated := false, lending := false, park := none,
                        edges := [], stall := false, waitSince := none, ramp := none, flitWake := none,
                        iso := k.pwr.iso ||| 0x7F, voteCl := 0, voteBk := 0, retmask := 0, edepth := 3, lendDis := false, nofs := false,
                        fwVoteCl := false, fwVoteBk := false, cntDrop := 0, cntBounce := 0, cntEdgelost := 0, cntRefuse := 0 } }

/-- Whether every slot of a core is EMPTY (R360). -/
def Core.allEmpty (k : Core) : Bool := k.slots.toList.all fun v => v.ctl.st == .empty

/-- A core whose slots are all EMPTY goes to the depth of PWR_CTRL.EDEPTH (R360). -/
def Core.emptyDrop (k : Core) : Core :=
  if !k.allEmpty || k.pwr.logic == .off then k
  else if k.pwr.edepth = 3 then k.lost
  else
    let k := if k.pwr.logic == .on then k else k.powerUp 0
    let k := k.dropTo k.pwr.edepth.toNat
    { k with pwr := { k.pwr with flitWake := none, park := none } }

/-- An all-EMPTY core that a flit has woken goes back to its depth once the flit is served (R359, R360). -/
def Core.emptyRest (k : Core) (c cc : Nat) : Core :=
  match k.pwr.flitWake with
  | some t => if t ≤ cc && k.allEmpty && k.enginesIdle && !k.flitWaits c then k.emptyDrop else k
  | none => k

/-- CORE_WAKE_BY_FLIT (R359): the core comes up and serves the flit when the wake time has passed. -/
def coreWakeByFlitAt (c : Nat) (m : Mach) : Mach :=
  let k := m.core c
  m.when (k.pwr.logic != .off && !k.pwr.stopped && !k.clocksRun m.cc && k.pwr.flitWake.isNone && k.flitWaits c) fun m =>
    m.onCore c fun k =>
      let t := m.cc + k.wakeTime - 1
      let k := k.powerUp t
      { k with pwr := { k.pwr with flitWake := some t } }

/-- EMPTY_CORE_BRINGUP (R360): firmware brings CORE_LOGIC and the banks of a core at depth 3 to ON, initialises them and releases their isolation; a flit that waits is
served after that. -/
def emptyCoreBringupAt (c : Nat) (m : Mach) : Mach :=
  let k := m.core c
  m.when (k.pwr.logic == .off && (m.field (fieldOf c)).ring == .on && !m.coreOut c) fun m =>
    m.onCore c fun k => { k with pwr := { k.pwr with logic := .on, gated := false, banks := .replicate 6 .on, iso := k.pwr.iso &&& 0x80,
                                                     flitWake := if k.flitWaits c then some m.cc else none } }

/-- PWR_ISO_REL_WRITE (R356): releases isolation of the named domains that are ON; others are ignored. -/
def isoRelAt (c : Nat) (v : BitVec 32) (m : Mach) : Mach :=
  m.onCore c fun k =>
    let on (i : Nat) : Bool := if i = 0 then k.pwr.logic == .on else if i < 7 then vget k.pwr.banks (i - 1) == .on
      else k.pwr.bankctl == .on
    let rel := ((List.range 8).filter fun i => bitOf v.toNat i && on i).map fun i => 2 ^ i
    { k with pwr := { k.pwr with iso := k.pwr.iso &&& ~~~ BitVec.ofNat 8 rel.sum } }

/-! ## Stall-idle and its ramp (R235, R236) -/

/-- STALL_IDLE_ENTRY (R235): the conditions have held for 2,400 cc, and the core may lend. -/
def stallEntryAt (c : Nat) (m : Mach) : Mach :=
  let w := (m.core c).pwr
  m.when (w.logic == .on && !w.stall && !w.lendDis && (match w.waitSince with
      | some t => t + 2400 ≤ m.cc
      | none => false)) fun m =>
    m.onCore c fun k => { k with pwr := { k.pwr with stall := true, lending := true, waitSince := none } }

/-- STALL_IDLE_EXIT (R236): a slot is ready in this cycle, which is counted; it may issue in the next one, and the ramp
starts. -/
def stallExitAt (c : Nat) (m : Mach) : Mach :=
  m.when ((m.core c).pwr.stall && [0, 1, 2, 3].any fun s => (m.cycleStart c).blockAt c s == 0) fun m =>
    let m := (m.countCycle c).2
    m.onCore c fun k => { k with pwr := { k.pwr with stall := false, lending := false, ramp := some (m.cc, 0) } }

/-- THROTTLE_RAMP_STEP (R236): every 1,500 cc one more cycle in four, then all. -/
def rampStepAt (c : Nat) (m : Mach) : Mach :=
  match (m.core c).pwr.ramp with
  | some (start, step) =>
    m.when (start + 1500 * (step + 1) ≤ m.cc) fun m =>
      m.onCore c fun k => { k with pwr := { k.pwr with ramp := if step < 2 then some (start, step + 1) else none } }
  | none => m

/-! ## Tiers (R173, R174, R368) -/

/-- TIER_SELF_REFRESH_ENTRY (R368). -/
def tierRestAt (c t : Nat) (m : Mach) : Mach :=
  let w := (m.core c).pwr
  m.when (w.bankctl == .on && !vget w.sr t && !vget (m.core c).care.overdue t && vget w.lastReq t + 65536 ≤ m.cc && w.voteBk == 0 && !w.fwVoteBk) fun m =>
    m.onCore c fun k =>
      let sr := vset k.pwr.sr t true
      { k with pwr := { k.pwr with sr := sr, bankctl := if vget sr 0 && vget sr 1 then .ret else k.pwr.bankctl } }

/-- TIER_WAKE (R174): the tier leaves self-refresh on a request, which is served 600 cc later. -/
def tierWakeAt (c t : Nat) (m : Mach) : Mach :=
  m.when (vget (m.core c).pwr.sr t && vget (m.field (fieldOf c)).tiers t == .on) fun m =>
    m.onCore c fun k =>
      let ubq := k.ubq.map fun q => if tierOf q.off = t then { q with issued := q.issued + 600 } else q
      let fills := k.fills.map fun f =>
        if waSpace (f.tag * 128) = 1 && tierOf (waOff (f.tag * 128)) = t && m.lineOwn c f.tag then { f with issued := f.issued + 600 } else f
      { k with ubq := ubq, fills := fills,
               pwr := { k.pwr with sr := vset k.pwr.sr t false, bankctl := .on, lastReq := vset k.pwr.lastReq t (m.cc + 600) } }

/-- TIER_TEMPERATURE_CHANGE (R173): doubled refresh from 85 °C, the normal rate below 82 °C. -/
def tierTempAt (c t : Nat) (deg : BitVec 8) (m : Mach) : Mach :=
  m.onCore c fun k =>
    let hot := if 85 ≤ deg.toNat then true else if deg.toNat < 82 then false else vget k.care.hot t
    { k with care := { k.care with temp := vset k.care.temp t deg, hot := vset k.care.hot t hot } }

def execSlotWake (c : CoreIx) (sl : SlotIx) (s : State) : Host.Outcome State Fault Refusal := upd (slotWakeAt c sl) s
def execSlotWakeReturn (c : CoreIx) (sl : SlotIx) (s : State) : Host.Outcome State Fault Refusal :=
  upd (slotWakeReturnAt c sl) s
def execTimerExpiry (c : CoreIx) (sl : SlotIx) (s : State) : Host.Outcome State Fault Refusal :=
  upd (timerExpiryAt c sl) s
def execSlotQuiesce (c : CoreIx) (sl : SlotIx) (s : State) : Host.Outcome State Fault Refusal :=
  upd (slotQuiesceAt c sl) s
def execSlotResume (c : CoreIx) (sl : SlotIx) (s : State) : Host.Outcome State Fault Refusal := upd (slotResumeAt c sl) s
def execCommitWindowEnd (c : CoreIx) (s : State) : Host.Outcome State Fault Refusal := upd (commitWindowEndAt c) s
def execCoreWakeByFlit (c : CoreIx) (s : State) : Host.Outcome State Fault Refusal := upd (coreWakeByFlitAt c) s
def execEmptyCoreBringup (c : CoreIx) (s : State) : Host.Outcome State Fault Refusal := upd (emptyCoreBringupAt c) s
def execPwrIsoRelWrite (c : CoreIx) (v : BitVec 32) (s : State) : Host.Outcome State Fault Refusal := upd (isoRelAt c v) s
def execStallIdleEntry (c : CoreIx) (s : State) : Host.Outcome State Fault Refusal := upd (stallEntryAt c) s
def execStallIdleExit (c : CoreIx) (s : State) : Host.Outcome State Fault Refusal := upd (stallExitAt c) s
def execThrottleRampStep (c : CoreIx) (s : State) : Host.Outcome State Fault Refusal := upd (rampStepAt c) s
def execTierSelfRefreshEntry (c : CoreIx) (t : TierIx) (s : State) : Host.Outcome State Fault Refusal :=
  upd (tierRestAt c t) s
def execTierWake (c : CoreIx) (t : TierIx) (s : State) : Host.Outcome State Fault Refusal := upd (tierWakeAt c t) s
def execTierTemperatureChange (c : CoreIx) (t : TierIx) (deg : BitVec 8) (s : State) :
    Host.Outcome State Fault Refusal := upd (tierTempAt c t deg) s

end Sys2Proof.Machine
end

