-- ==== Sys2Proof/Machine/Flit.lean ====
section
/-! DEFINITION. A flit on a link: its header, its CRC-16, and what a receiver makes of bits that have flipped (R177, R178, R190, R191). -/

namespace Sys2Proof.Machine

open Sys2Proof

/-! ## The CRC-16 of R177 -/

/-- n bits more into the CRC: polynomial 0x1021, most significant bit first. -/
def crc16Bits : Nat → Nat → Nat
  | 0, c => c
  | n + 1, c => crc16Bits n (if c < 0x8000 then 2 * c else Nat.xor (2 * c % 0x10000) 0x1021)

/-- CRC-16 with initial value 0xFFFF, without reflection or final inversion. -/
def crc16 (b : Bytes) : Nat := b.foldl (fun c x => crc16Bits 8 (Nat.xor c (x.toNat * 256))) 0xFFFF

/-! ## The header (R177, R178) -/

/-- FLAGS (R178). -/
def Flit.flags (f : Flit) : Nat := b2n f.head + b2n f.tail * 2 + b2n f.token * 4 + b2n f.err * 8 + b2n f.det * 16 + b2n f.fw * 32

/-- Header bits [127:16]; CID is 0 for firmware. -/
def Flit.hdrHigh (f : Flit) : Nat :=
  f.src + (if f.fw then 0 else f.cid.toNat) * 2 ^ 17 + f.chan * 2 ^ 27 + f.hseq.toNat * 2 ^ 30 + f.op.toNat * 2 ^ 35 + f.tag.toNat * 2 ^ 38 +
    f.flags * 2 ^ 46 + f.target.toNat * 2 ^ 52

/-- What the CRC covers: header bytes 2 to 15, then the payload. -/
def Flit.covered (f : Flit) : Bytes := toBytes 14 f.hdrHigh ++ toBytes 32 f.pay.toNat

/-- The CRC field. -/
def Flit.crc (f : Flit) : Nat := crc16 f.covered

/-- The 128-bit header. -/
def Flit.header (f : Flit) : Nat := f.crc + f.hdrHigh * 2 ^ 16

/-- The 384 bits that a link carries: the header, then the payload. -/
def Flit.wire (f : Flit) : Nat := f.header + f.pay.toNat * 2 ^ 128

/-- A flit with the fields that 384 received bits spell. -/
def Flit.ofWire (f : Flit) (w : Nat) : Flit :=
  { f with src := fld w 16 17, cid := BitVec.ofNat 10 (w / 2 ^ 33), chan := fld w 43 3, hseq := BitVec.ofNat 5 (w / 2 ^ 46),
           op := BitVec.ofNat 3 (w / 2 ^ 51), tag := BitVec.ofNat 8 (w / 2 ^ 54), head := bitOf w 62, tail := bitOf w 63, token := bitOf w 64,
           err := bitOf w 65, det := bitOf w 66, fw := bitOf w 67, target := BitVec.ofNat 60 (w / 2 ^ 68),
           pay := BitVec.ofNat 256 (w / 2 ^ 128) }

/-- Whether the CRC of received bits is right. -/
def wireGood (w : Nat) : Bool := fld w 0 16 == crc16 (toBytes 46 (w / 2 ^ 16))

/-! ## What an event makes of a flit -/

/-- What the receiver has of a flit: none where its CRC finds an error (R190). -/
def evReceived (ev : LinkEv) (f : Flit) : Option Flit :=
  match ev with
  | .bits mask _ =>
    let w := Nat.xor f.wire mask.toNat
    if wireGood w then some (f.ofWire w) else none
  | _ => some f

/-- The flit that a fault of the sending router lets go (R182). -/
def evFault (ev : LinkEv) (f : Flit) : Flit :=
  match ev with
  | .opFault x => { f with op := x }
  | .chanFault x => { f with chan := x.toNat }
  | _ => f

/-- The class in which the receiver takes a flit: the majority of the three URGENT indications (R191). -/
def evUrgent (ev : LinkEv) (own : Bool) : Bool :=
  match ev with
  | .bits _ ind => if 2 ≤ b2n (bitOf ind.toNat 0) + b2n (bitOf ind.toNat 1) + b2n (bitOf ind.toNat 2) then !own else own
  | _ => own

end Sys2Proof.Machine
end

