-- ==== Sys2Proof/Machine/Router.lean ====
section
/-! DEFINITION. The routers: FLIT_FORWARD, LET, LINK_RETRAIN_DONE, FLIT_AGE_PROMOTION and ROUTER_SAMPLE, and what DETOUR_UPDATE waits for
(R176, R182, R183, R185, R187 to R202, R206). Ports are 0 N, 1 E, 2 S, 3 W, 4 local; input 5 is the attachment of an
anchor core, input 6 the replay buffers of fenced links, whose flits go the detour. -/

namespace Sys2Proof.Machine

open Sys2Proof

/-! ## Neighbours and links -/

/-- The neighbour of a core in a direction, if the grid has one. -/
def nbr (c dir : Nat) : Option Nat :=
  match dir with
  | 0 => if coreY c = 0 then none else some (c - 384)
  | 1 => if coreX c = 383 then none else some (c + 1)
  | 2 => if coreY c = 335 then none else some (c + 384)
  | _ => if coreX c = 0 then none else some (c - 1)

/-- The link of a core in a direction: the core that names it and whether it is that core's S link. -/
def linkOf (c dir : Nat) : Nat × Bool :=
  match dir with
  | 0 => (c - 384, true)
  | 1 => (c, false)
  | 2 => (c, true)
  | _ => (c - 1, false)

/-- Width of the link in a direction; 1 where there is none. -/
def Mach.dirWidth (m : Mach) (c dir : Nat) : Nat :=
  match nbr c dir with
  | none => 1
  | some _ => m.linkWidth (linkOf c dir).1 (linkOf c dir).2

/-- Cycles per flit in a direction, and the latency of the hop (R176, R203). -/
def Mach.dirCycles (m : Mach) (c dir : Nat) : Nat := m.linkCycles (linkOf c dir).1 (linkOf c dir).2
def dirLatency (c dir : Nat) : Nat := if linkSeam (linkOf c dir).1 (linkOf c dir).2 then 4 else 1

/-- Whether the router of a core works (R39). -/
def Mach.routerOk (m : Mach) (c : Nat) : Bool := (m.fpCore c).routerOk

/-- A blocked hop (R188): a fenced link, or a router that does not work and is not the destination. -/
def Mach.hopBlocked (m : Mach) (c dir dest : Nat) : Bool :=
  match nbr c dir with
  | none => true
  | some n => m.dirWidth c dir == 1 || (n != dest && !m.routerOk n)

/-! ## Counters (R206), keyed by output port · 16, 256 + input port · 16, and 512 on -/

def cntFlits (o ch : Nat) : Nat := o * 16 + ch
def cntStall (o : Nat) : Nat := o * 16 + 6
def cntLets (o : Nat) : Nat := o * 16 + 7
def cntDepthSum (i : Nat) : Nat := 256 + i * 16
def cntDepthMax (i : Nat) : Nat := 257 + i * 16
def cntCrc (i : Nat) : Nat := 258 + i * 16
def cntUrgDrop (i : Nat) : Nat := 259 + i * 16
def cntAged : Nat := 512
def cntDetours : Nat := 513
def cntProto : Nat := 514
def cntSamples : Nat := 515
def cntSampleAt : Nat := 516

/-- Count in a router. -/
def Core.rcount (k : Core) (key : Nat) (n : Nat := 1) : Core :=
  { k with router := { k.router with cnt := bump k.router.cnt key n } }

/-- A flit that a router discards as a protocol error: PROTO, and the life log (R182). -/
def Mach.protoDrop (m : Mach) (c : Nat) : Mach :=
  ((m.onCore c fun k => k.rcount cntProto).logRec 0x10 (fieldOf c) 0xFFFF (toBytes 4 c)).logCount 0x78

/-! ## Where a unicast flit goes next (R187 to R189) -/

/-- The next hop of a unicast flit: its own local port, the end of its way before a router that does not work, nothing
for now, or a direction with the detour channel and what is left of a sidestep. -/
inductive Hop where
  | arrive
  | stop
  | stuck
  | go (dir : Nat) (det : Bool) (side : Option (Nat × Nat))
  deriving DecidableEq, Repr, Inhabited

def portNum (p : MPort) : Nat :=
  match p with
  | .north => 0
  | .east => 1
  | .south => 2
  | .west => 3
  | .loc => 4

/-- Routers in a row that do not work, from a core on in a direction, at most n. -/
def Mach.deadRun (m : Mach) (dir : Nat) : Nat → Nat → Nat
  | 0, _ => 0
  | n + 1, c => match nbr c dir with
    | none => 0
    | some x => if m.routerOk x then 0 else 1 + m.deadRun dir n x

/-- The sidestep at a blocked hop along y: its side and LEN, by a detour entry or the table of R188. -/
def Mach.ySide (m : Mach) (c dir dest : Nat) : Nat × Nat :=
  match (m.core c).router.detours.find? fun d => portNum d.out == dir with
  | some d => (portNum d.side, d.len)
  | none => (if coreX c = 383 || m.hopBlocked c 1 dest then 3 else 1, min 15 (1 + m.deadRun dir 14 c))

/-- The sidestep at a blocked hop along x. -/
def Mach.xSide (m : Mach) (c dir dest : Nat) : Nat :=
  if coreY dest < coreY c then 0
  else if coreY c < coreY dest then 2
  else match (m.core c).router.detours.find? fun d => portNum d.out == dir with
    | some d => portNum d.side
    | none => if coreY c = 335 || m.hopBlocked c 2 dest then 0 else 2

/-- The direction a flit wants: what is left of a sidestep, else x before y. -/
def wantDir (c dest : Nat) (side : Option (Nat × Nat)) : Nat :=
  match side with
  | some (d, _) => d
  | none => if coreX c < coreX dest then 1 else if coreX dest < coreX c then 3 else if coreY c < coreY dest then 2 else 0

/-- One hop fewer of a sidestep. -/
def sideLeft (side : Option (Nat × Nat)) : Option (Nat × Nat) :=
  match side with
  | some (d, n) => if n ≤ 1 then none else some (d, n - 1)
  | none => none

/-- The next hop of a unicast flit at core c. -/
def Mach.nextHop (m : Mach) (c : Nat) (f : Flit) : Hop :=
  let dest := waCore f.target.toNat
  if c = dest then .arrive
  else
    let w := wantDir c dest f.sidestep
    if nbr c w = some dest && !m.routerOk dest then .stop
    else if !m.hopBlocked c w dest then .go w f.det (sideLeft f.sidestep)
    else
      let y := w == 0 || w == 2
      let s := if y then (m.ySide c w dest).1 else m.xSide c w dest
      if m.hopBlocked c s dest then .stuck
      else .go s true (if y then some (w, (m.ySide c w dest).2) else none)

/-- The cores on the way of a unicast flit from core c on, under the floor plan and the detours in force. -/
def Mach.walk (m : Mach) : Nat → Nat → Flit → List Nat
  | 0, c, _ => [c]
  | n + 1, c, f => match m.nextHop c f with
    | .go dir det side => (match nbr c dir with
      | some x => c :: m.walk n x { f with det := det, sidestep := side }
      | none => [c])
    | _ => [c]

/-- The cores on the path from core a to core b (R264): longer than four crossings of the wafer is no path. -/
def Mach.pathOf (m : Mach) (a b : Nat) : List Nat := m.walk 2880 a { target := BitVec.ofNat 60 (waOf 0 b 0) }

/-- Segments that the path from core a to core b crosses, detours included (R264). -/
def Mach.routeSegs (m : Mach) (a b : Nat) : List Nat :=
  let p := m.pathOf a b
  ((p.zip (p.drop 1)).map fun h => pathSegs h.1 h.2).flatten

/-! ## The legs of a multicast at a router (R193 to R196) -/

/-- A copy that a router makes: to its own local port, to a neighbour, or as a unicast to one member. -/
inductive Leg where
  | here
  | toward (dir : Nat)
  | single (core : Nat)
  deriving DecidableEq, Repr, Inhabited

/-- The name under which a flit notes that a leg has taken it: 4 its own local port, a direction, or 16 + the core of a single copy. -/
def Leg.code (g : Leg) : Nat :=
  match g with
  | .here => 4
  | .toward d => d
  | .single x => 16 + x

/-- Members that lie beyond a branch of the tree from core c. -/
def mcBeyond (t c dir : Nat) : List Nat :=
  let x := coreX c
  let y := coreY c
  match dir with
  | 0 => ((mcRows t).filter (· < y)).map fun r => coreAt x r
  | 2 => ((mcRows t).filter (y < ·)).map fun r => coreAt x r
  | 1 => (((mcCols t).filter (x < ·)).map fun q => (mcRows t).map fun r => coreAt q r).flatten
  | _ => (((mcCols t).filter (· < x)).map fun q => (mcRows t).map fun r => coreAt q r).flatten

/-- The tree's directions at core c for a sender (R194). -/
def mcDirs (t sender c : Nat) : List Nat :=
  let x := coreX c
  let y := coreY c
  let row := y == coreY sender
  [0, 1, 2, 3].filter fun d =>
    (match d with
     | 1 => row && coreX sender ≤ x
     | 3 => row && x ≤ coreX sender
     | 0 => (row || y < coreY sender) && mcCol t x
     | _ => (row || coreY sender < y) && mcCol t x) && !(mcBeyond t c d).isEmpty

/-- Where a member's own copy goes: a stand-in as a unicast, nowhere for a fenced member (R196). -/
def Mach.memberLeg (m : Mach) (c : Nat) (here : Bool) : Option Leg :=
  match m.substOf c with
  | some e => some (.single e.stand)
  | none => if (m.fpCore c).state = 2 || !m.routerOk c then none else some (if here then .here else .single c)

/-- The legs of a multicast at core c, each with the branch it belongs to: 4 the core itself, or a direction. A branch whose hop is
blocked is replaced by unicasts to the members beyond it, which take the path of a unicast (R188, R194). -/
def Mach.mcLegs (m : Mach) (c : Nat) (f : Flit) : List (Nat × Leg) :=
  let t := f.target.toNat
  (if mcMember t c then (m.memberLeg c true).toList.map fun g => (4, g) else []) ++
  ((mcDirs t f.src c).map fun d =>
    if m.hopBlocked c d nCores then (mcBeyond t c d).filterMap fun x => (m.memberLeg x false).map fun g => (d, g)
    else [(d, Leg.toward d)]).flatten

/-- Whether some member served from this router receives nothing (R196). -/
def Mach.mcMissing (m : Mach) (c : Nat) (f : Flit) : Bool :=
  let t := f.target.toNat
  (mcMember t c && (m.memberLeg c true).isNone) ||
  (mcDirs t f.src c).any fun d => m.hopBlocked c d nCores && (mcBeyond t c d).any fun x => (m.memberLeg x false).isNone

/-- Whether a leg has taken a flit, itself or as the branch it stands for. -/
def Flit.takenBy (f : Flit) (g : Nat × Leg) : Bool := f.took.contains g.1 || f.took.contains g.2.code

/-- The copy of a multicast that goes as a unicast to one member (R196). -/
def Flit.single (f : Flit) (d : Nat) : Flit :=
  let t := f.target.toNat
  { f with mc := false, target := BitVec.ofNat 60 (waOf (mcSpace t) d (if mcSpace t = 2 || mcSpace t = 3 then mcGran t else mcGran t * 32)) }

/-! ## Local outputs -/

/-- Whether a core holds the attachment that a target names (R297). -/
def toAttach (f : Flit) : Bool := !f.mc && waSpace f.target.toNat == 0xE

/-- The key of a local output: by channel, attachments from 8 on. -/
def loKey (f : Flit) : Nat := f.chan + 8 * b2n (toAttach f)

def Core.loOut (k : Core) (key : Nat) : List Flit := agetD k.router.lo key []

def Core.setLo (k : Core) (key : Nat) (l : List Flit) : Core :=
  { k with router := { k.router with lo := if l.isEmpty then adel k.router.lo key else aset k.router.lo key l } }

/-- Whether a flit that has reached its target's router goes on to the core. A fenced or substituted core still serves its under-bank with the
memory path intact (R25, R36); its router still takes the ACKs of the multicasts it has branched (R197), and an anchor's attachment its
own traffic. -/
def Mach.served (m : Mach) (c : Nat) (f : Flit) : Bool :=
  !m.coreOut c || f.fw || toAttach f ||
  (f.op == 5 && (match f.why with
    | .mcast _ => true
    | _ => false)) ||
  (waSpace f.target.toNat == 1 && (f.op == 0 || f.op == 1) && m.tierServed c (tierOf (waOff f.target.toNat)))

/-- Whether an operation is legal on its channel (R180). -/
def opLegal (f : Flit) : Bool :=
  match f.op.toNat with
  | 0 => f.chan == 0 || f.chan == 4 || (f.chan == 3 && f.fw)
  | 1 => f.chan == 0
  | 2 => f.chan == 2 || f.chan == 3
  | 3 => f.chan == 5
  | 4 => f.chan == 1 || f.chan == 4
  | 5 => f.chan == 1
  | 6 => f.chan == 5 && f.fw
  | _ => false

/-- Whether a router delivers a flit at its target, or discards it under R182: its OP is legal on its channel, and a multicast names a space
that it can have (R193). -/
def flitLegal (f : Flit) : Bool := opLegal f && (!f.mc || [0, 2, 3, 0xF].contains (mcSpace f.target.toNat))

/-! ## Output ports and their grants (R198, R201, R202) -/

def Core.outP (k : Core) (o : Nat) : OutPort := agetD k.router.outs o {}

def Core.setOut (k : Core) (o : Nat) (p : OutPort) : Core :=
  { k with router := { k.router with outs := aset k.router.outs o p } }

def Core.inP (k : Core) (i : Nat) : InPort := agetD k.router.ins i {}

def Core.setIn (k : Core) (i : Nat) (p : InPort) : Core := { k with router := { k.router with ins := aset k.router.ins i p } }

/-- The input buffer behind a key; URGENT flits of the core itself wait in the URGENT queue. -/
def Core.inBuf (k : Core) (key : Nat) : List Flit := if key = bufKey 4 5 false then k.router.urgQ else k.buf key

def Core.setInBuf (k : Core) (key : Nat) (l : List Flit) : Core :=
  if key = bufKey 4 5 false then { k with router := { k.router with urgQ := l } } else k.setBuf key l

/-- Whether a buffer is on the local port's side, which takes one flit per cycle (R202). -/
def isLocalIn (key : Nat) : Bool := key / 16 == 4 || key / 16 == 5

/-- Whether the head flit of an input buffer can compete in a cycle (R185, R202, R203). -/
def Core.headAt (k : Core) (key cc : Nat) : Option Flit :=
  match k.inBuf key with
  | f :: _ =>
    if f.front ≤ cc && (!isLocalIn key || k.router.localAt ≤ cc) && (key != bufKey 4 5 false || (match k.router.lastUrg with
        | some t => t + 4 ≤ cc
        | none => true))
    then some f else none
  | [] => none

/-- Flits of a replay buffer that the receiver has not accepted. -/
def OutPort.owed (p : OutPort) : List Flit := p.replay.filter fun f => f.ackAt.isNone

/-- Flits that take a place of the replay buffer in a cycle: those not acknowledged (R190). -/
def OutPort.unacked (p : OutPort) (cc : Nat) : List Flit := p.replay.filter fun f => match f.ackAt with
  | some t => cc < t
  | none => true

/-- Room that a virtual channel of the next router's input has, counting flits that wait to be replayed. -/
def Mach.downRoom (m : Mach) (c dir ch : Nat) (det : Bool) : Nat :=
  match nbr c dir with
  | none => 0
  | some n =>
    let waiting := ((m.core c).outP dir).owed.filter fun f => f.chan == ch && f.det == det
    bufCap ch - (((m.core n).buf (bufKey ((dir + 2) % 4) ch det)).length + waiting.length)

/-- Flits that a whole message takes, seen from its head. -/
def msgLen (f : Flit) : Nat := f.rest + 1

/-- Whether an output's link can take a flit in a cycle. -/
def Core.outFree (k : Core) (o : Nat) (urgent : Bool) (cc : Nat) : Bool :=
  let p := k.outP o
  p.freeAt ≤ cc && !p.held && (urgent || o == 4 || (p.unacked cc).length < 16)

/-- Key of a virtual channel on an output; the local output has one per channel. -/
def vcKey (o ch : Nat) (det : Bool) : Nat := ch * 2 + b2n (det && o != 4)

/-- Whether an input can go on, or start, a message on a virtual channel of an output. -/
def Core.vcOpen (k : Core) (o ch : Nat) (det head : Bool) (key : Nat) : Bool :=
  match aget (k.outP o).busyIn (vcKey o ch det) with
  | some i => i % 4096 == key && !head
  | none => head

/-- A contender for an output: its input buffer, the place of its flit there, the leg of a multicast it serves, and the flit as it leaves. -/
structure Cand where
  key : Nat := 0
  idx : Nat := 0
  leg : Option (Nat × Leg) := none
  flit : Flit := {}
  deriving DecidableEq, Repr, Inhabited

/-- A unicast flit as it leaves over output o, if its way goes there. -/
def Mach.over (m : Mach) (c o : Nat) (f : Flit) : Option Flit :=
  match m.nextHop c f with
  | .arrive => if o = 4 && m.served c f && flitLegal f then some f else none
  | .go d det side => if o = d then some { f with det := det, sidestep := side, prior := (f.det, f.sidestep) } else none
  | _ => none

/-- Room for a message that leaves over output o. -/
def Mach.roomAt (m : Mach) (c o : Nat) (f : Flit) : Nat :=
  if o = 4 then bufCap f.chan - ((m.core c).loOut (loKey f)).length else m.downRoom c o f.chan f.det

/-- Whether a flit that steps aside must let pass what a fenced link gave back on its channel (R192). -/
def Mach.behindReturned (m : Mach) (c o key : Nat) (f : Flit) : Bool :=
  o < 4 && key / 16 != 6 && f.head && !f.mc && o != wantDir c (waCore f.target.toNat) f.prior.2 &&
  !(((m.core c).buf (bufKey 6 f.chan false)).isEmpty && ((m.core c).buf (bufKey 6 f.chan true)).isEmpty)

/-- Whether a flit can leave over output o in a cycle (R183, R190). -/
def Mach.canLeave (m : Mach) (c o key : Nat) (f : Flit) : Bool :=
  (m.core c).outFree o (f.chan == 5) m.cc && (m.core c).vcOpen o f.chan f.det f.head key && (!isLocalIn key || m.duePaid f) &&
  (!f.head || msgLen f ≤ m.roomAt c o f) && !m.behindReturned c o key f

/-- The first flit of the message at the front of a buffer that a leg has not taken, with its place. -/
def legNext (l : List Flit) (g : Nat × Leg) : Option (Nat × Flit) :=
  match l with
  | [] => none
  | f :: _ => ((l.take (f.rest + 1)).zipIdx.find? fun x => !x.1.takenBy g).map fun x => (x.2, x.1)

/-- The flit of a multicast as it leaves over output o on a leg, if the leg goes there. -/
def Mach.legOver (m : Mach) (c o : Nat) (g : Leg) (f : Flit) : Option Flit :=
  let f := { f with ret := some c, took := [] }
  match g with
  | .here => if o = 4 && flitLegal f then some f else none
  | .toward d => if o = d then some { f with prior := (f.det, f.sidestep) } else none
  | .single x => if flitLegal f then m.over c o (f.single x) else none

/-- Whether a unicast, or a multicast's tree, leaves core c over output o on its way in dimension order from core s. -/
def usesOut (s c o : Nat) (f : Flit) : Bool :=
  let btw (a b x : Nat) : Bool := min a b ≤ x && x ≤ max a b
  if f.mc then (mcDirs f.target.toNat f.src c).contains o
  else
    let d := waCore f.target.toNat
    c != d && wantDir c d none == o &&
    ((coreY c == coreY s && btw (coreX s) (coreX d) (coreX c)) || (coreX c == coreX d && btw (coreY s) (coreY d) (coreY c)))

/-- Outputs of a router whose detour entries change. -/
def Mach.detourOuts (m : Mach) (c : Nat) (l : List Detour) : List Nat :=
  let old := (m.core c).router.detours
  (([0, 1, 2, 3] : List Nat).filter fun o => (old.filter fun d => portNum d.out == o) != (l.filter fun d => portNum d.out == o))

/-- Whether a message may not be injected at core c because its path is being drained for a change of detours (R189). -/
def Mach.pathHeld (m : Mach) (c key : Nat) (f : Flit) : Bool :=
  isLocalIn key && f.head && m.wafer.newDetours.any fun e => (m.detourOuts e.1 e.2).any fun o => usesOut c e.1 o f

/-- What an input buffer's head flit asks of output o in a cycle, if it can have it. -/
def Mach.candAt (m : Mach) (c o key : Nat) : Option Cand :=
  let k := m.core c
  match k.headAt key m.cc with
  | none => none
  | some f =>
    if m.pathHeld c key f then none
    else if f.mc then
      (m.mcLegs c f).findSome? fun g => match legNext (k.inBuf key) g with
        | some (i, y) => if y.front ≤ m.cc then (match m.legOver c o g.2 y with
          | some x => if m.canLeave c o key x then some { key := key, idx := i, leg := some g, flit := x } else none
          | none => none) else none
        | none => none
    else match m.over c o f with
      | some x => if m.canLeave c o key x then some { key := key, flit := x } else none
      | none => none

/-- Input buffers of a router that hold flits. -/
def Core.inKeys (k : Core) : List Nat :=
  (k.router.bufs.map fun e => e.1) ++ (if k.router.urgQ.isEmpty then [] else [bufKey 4 5 false])

/-- The contenders for an output. -/
def Mach.cands (m : Mach) (c o : Nat) : List Cand := (m.core c).inKeys.filterMap fun key => m.candAt c o key

/-- The place of an input in the order N, E, S, W, local; the attachment, and what a fenced link gave back, share the local place (R202). -/
def inOrder (key : Nat) : Nat := min 4 (key / 16)

/-- The contender whose head has waited longest, ties in port order (R198, R201). -/
def oldest (l : List Cand) : Option Cand :=
  l.foldl (fun b x => match b with
    | none => some x
    | some y => if x.flit.front < y.flit.front || (x.flit.front == y.flit.front && inOrder x.key < inOrder y.key)
      then some x else some y) none

/-- The first contender after an input in the round-robin of R198. -/
def nextIn (last : Nat) (l : List Cand) : Option Cand :=
  ([1, 2, 3, 4, 5].map fun i => (last + i) % 5).findSome? fun p => l.find? fun x => inOrder x.key == p

/-- Turns left of a channel in the round of 16 grants (R198, R199). -/
def Mach.turnsLeft (m : Mach) (p : OutPort) (ch : Nat) : Nat := agetD p.turns ch (lget m.wafer.weights ch)

/-- Whether a contender is a firmware flit on BULK, which takes BULK's own turns only (R198). -/
def Cand.fwBulk (x : Cand) : Bool := x.flit.chan == 4 && x.flit.fw

/-- The contenders that may take the next grant of an ordinary channel (R198): those of a channel with turns left, in channel order after the last
granted (the order within a round is the model's, log 12), where on BULK firmware's flits and contexts' alternate; else the weights of channels with
nothing to send pass to the others, and to firmware's BULK flits only when no context flit waits. -/
def Mach.nextTurn (m : Mach) (p : OutPort) (l : List Cand) : List Cand :=
  let order := ([1, 2, 3, 4, 5, 6, 7, 8].map fun i => (p.lastChan + i) % 8)
  let of (l : List Cand) (ch : Nat) : List Cand := l.filter fun x => x.flit.chan == ch
  match order.find? fun ch => 0 < m.turnsLeft p ch && !(of l ch).isEmpty with
  | some ch =>
    let l := of l ch
    let other := l.filter fun x => x.flit.fw != p.lastFw
    if ch = 4 && !other.isEmpty then other else l
  | none =>
    let ctx := l.filter fun x => !x.fwBulk
    let l := if ctx.isEmpty then l else ctx
    match order.find? fun ch => !(of l ch).isEmpty with
    | some ch => of l ch
    | none => []

/-- Contenders of an anchor core's local port, in one direction: of every 16 transfers for which the attachment and the core both ask, the attachment has 11
and the core 5 (R202). -/
def sharePick (n : Nat) (att core : List Cand) : List Cand :=
  if att.isEmpty then core
  else if core.isEmpty then att
  else if n < 11 then att else core

/-- Whether the core and the attachment both have a flit that could enter the router in this cycle. -/
def Mach.bothIn (m : Mach) (c : Nat) : Bool :=
  if (m.core c).inKeys.any fun key => key / 16 == 5 then
    let all := ([0, 1, 2, 3, 4].map fun o => m.cands c o).flatten
    (all.any fun x => x.key / 16 == 5) && all.any fun x => x.key / 16 == 4
  else false

/-- The contenders for an output, without the side of a contested local port whose turn it is not. -/
def Mach.asking (m : Mach) (c o : Nat) : List Cand :=
  let r := (m.core c).router
  let l := m.cands c o
  let l := if m.bothIn c then l.filter fun x => x.key / 16 != (if r.shareIn < 11 then 4 else 5) else l
  if o = 4 then sharePick r.shareOut (l.filter fun x => toAttach x.flit) (l.filter fun x => !toAttach x.flit) else l

/-- Whether two contenders are the heads of messages for one buffer, which has room for only one of them (R201). -/
def Mach.rivals (m : Mach) (c o : Nat) (x y : Cand) : Bool :=
  x.key != y.key && x.flit.head && y.flit.head && x.flit.det == y.flit.det && loKey x.flit == loKey y.flit &&
  m.roomAt c o x.flit < msgLen x.flit + msgLen y.flit

/-- The winner on an output in a cycle (R198 to R202); the flits of a substitution's copy go ahead of every ordinary channel. -/
def Mach.winner (m : Mach) (c o : Nat) : Option Cand :=
  let p := (m.core c).outP o
  let all := m.asking c o
  match oldest (all.filter fun x => x.flit.chan == 5 || x.flit.promoted), oldest (all.filter fun x => x.flit.why == Why.copy) with
  | some x, _ => some x
  | none, some x => some x
  | none, none =>
    let l := m.nextTurn p all
    let body := l.filter fun x => !x.flit.head
    let l := if body.isEmpty then l else body
    if l.any fun x => l.any fun y => m.rivals c o x y then oldest l
    else match l with
      | x :: _ => nextIn (agetD p.lastIn x.flit.chan 4) l
      | [] => none

/-- An output after a grant. -/
def Mach.granted (m : Mach) (p : OutPort) (x : Cand) (o cycles : Nat) : OutPort :=
  let f := x.flit
  let ch := f.chan
  let ordinary := ch != 5 && !f.promoted && f.why != Why.copy
  let ends := ordinary && 16 ≤ p.round + 1
  let vc := vcKey o ch f.det
  { p with freeAt := m.cc + cycles,
           round := if ends then 0 else p.round + b2n ordinary,
           turns := if !ordinary then p.turns else if ends then [] else aset p.turns ch (m.turnsLeft p ch - 1),
           lastChan := if ordinary then ch else p.lastChan,
           lastFw := if ch = 4 then f.fw else p.lastFw,
           lastIn := aset p.lastIn ch (inOrder x.key),
           busyIn := if f.tail then adel p.busyIn vc else aset p.busyIn vc (x.key + 4096 * f.cid.toNat) }

/-- The local port after a grant: one flit per cycle comes in, and contested transfers are counted in each direction (R202). -/
def Mach.shareGrant (m : Mach) (c o : Nat) (x : Cand) (r : Router) : Router :=
  let all := m.cands c 4
  let out := o == 4 && (all.any fun y => toAttach y.flit) && all.any fun y => !toAttach y.flit
  { r with localAt := if isLocalIn x.key then m.cc + 1 else r.localAt,
           shareIn := if isLocalIn x.key && m.bothIn c then (r.shareIn + 1) % 16 else r.shareIn,
           shareOut := if out then (r.shareOut + 1) % 16 else r.shareOut }

/-! ## Crossing a link (R190, R191) -/

/-- A flit at the end of an input buffer. -/
def Core.putBuf (k : Core) (key : Nat) (f : Flit) : Core := k.setBuf key (k.buf key ++ [f])

/-- A flit that a fenced link has given back, as it was before that hop: of a multicast, only the branch over output o is left to serve (R192). -/
def givenBack (f : Flit) (o at_ : Nat) : Flit :=
  { f with det := f.prior.1, sidestep := f.prior.2, ackAt := none, front := at_,
           took := if f.mc then [0, 1, 2, 3, 4].filter (· != o) else [] }

/-- A flit arrives in an input buffer of the next router; a purged one is discarded (R205). The rest of a message whose first part a fenced link gave back
goes on behind that (R192). -/
def Core.arrive (k : Core) (port at_ : Nat) (f : Flit) : Core :=
  let f := { f with front := at_, took := [], promoted := false, ackAt := none }
  let key := bufKey port f.chan f.det
  if f.purged then k
  else match (if f.head then none else aget k.router.rejoin key) with
    | some (back, o) =>
      let k := k.putBuf back (givenBack { f with prior := (f.det, f.sidestep) } o at_)
      let k := if f.tail then { k with router := { k.router with rejoin := adel k.router.rejoin key } } else k
      if f.mc then k.putBuf key { f with took := [o] } else k
    | none => { k with router := { k.router with rejoin := adel k.router.rejoin key } }.putBuf key f

/-- What a router does with a flit that comes over a link (R190, R191): own is its true class. It answers whether it has taken an ordinary flit in order. An
URGENT flit in error is dropped; an ordinary one in error, or out of order, is discarded, as is every later one until the flit expected arrives. -/
def Core.receive (k : Core) (port : Nat) (f : Flit) (own : Bool) (ev : LinkEv) (at_ : Nat) : Core × Bool :=
  let urg := evUrgent ev own
  let i := k.inP port
  match evReceived ev f with
  | none =>
    let k := k.rcount (cntCrc port)
    if urg then (k.rcount (cntUrgDrop port), false) else (k.setIn port { i with discard := true }, false)
  | some g =>
    if urg then (k.arrive port at_ g, false)
    else if g.hseq = i.expect then ((k.setIn port { expect := i.expect + 1, discard := false }).arrive port at_ g, true)
    else (k.setIn port { i with discard := true }, false)

/-- A replay buffer without what is acknowledged and belongs to a message whose tail the receiver has accepted. -/
def replayKept (l : List Flit) (cc : Nat) : List Flit :=
  (l.zipIdx.filter fun x =>
    (match x.1.ackAt with
     | some t => cc < t
     | none => true) ||
    !((l.drop x.2).any fun y => y.chan == x.1.chan && y.det == x.1.det && y.tail && y.ackAt.isSome)).map (·.1)

/-- A flit crosses a link with an event (R182, R190, R191): an ordinary one is numbered, and stays in the replay buffer until its acknowledgement. -/
def Mach.cross (m : Mach) (c dir : Nat) (f : Flit) (ev : LinkEv) : Mach :=
  match nbr c dir with
  | none => m
  | some n =>
    let p := (m.core c).outP dir
    let own := f.chan == 5
    let f := { evFault ev f with hseq := if own then 0 else p.seq }
    let r := (m.core n).receive ((dir + 2) % 4) f own ev (m.cc + dirLatency c dir)
    let m := m.setCore n r.1
    if own then m
    else
      let kept := { f with ackAt := if r.2 then some (m.cc + 2 * dirLatency c dir) else none }
      m.onCore c fun k => k.setOut dir { p with seq := p.seq + 1, replay := replayKept p.replay m.cc ++ [kept] }

/-- The flits of a replay buffer sent again in order, the first of those not accepted with an event (R190). -/
def Mach.resendOver (m : Mach) (c dir : Nat) (ev : LinkEv) (extra : Nat) : Mach :=
  match nbr c dir with
  | none => m
  | some n =>
    let p := (m.core c).outP dir
    let first := m.cc + dirLatency c dir + extra
    let go (y : Core × List Flit × Nat) (f : Flit) : Core × List Flit × Nat :=
      if f.ackAt.isSome then (y.1, y.2.1 ++ [f], y.2.2)
      else
        let e := if y.2.2 = 0 then ev else LinkEv.good
        let g := evFault e f
        let at_ := first + m.dirCycles c dir * y.2.2
        let r := y.1.receive ((dir + 2) % 4) g false e at_
        (r.1, y.2.1 ++ [{ g with ackAt := if r.2 then some (at_ + dirLatency c dir) else none }], y.2.2 + 1)
    let y := p.replay.foldl go (m.core n, [], 0)
    (m.setCore n y.1).onCore c fun k =>
      k.setOut dir { p with replay := y.2.1, freeAt := max p.freeAt (m.cc + m.dirCycles c dir * y.2.2) }

/-! ## FLIT_FORWARD (R187) -/

/-- Remove the front flit of an input buffer; the next one comes to the front in the next cycle. -/
def Core.takeFlit (k : Core) (key cc : Nat) : Core :=
  let k := if key = bufKey 4 5 false then { k with router := { k.router with lastUrg := some cc } } else k
  k.setInBuf key (match k.inBuf key with
    | _ :: f :: r => { f with front := max f.front (cc + 1) } :: r
    | _ => [])

/-- Where the answer to a request goes: its sender, the router that awaits a copy of a multicast (R197), or the
attachment that sent it (R297). -/
def ansTarget (f : Flit) : Nat :=
  if f.attach then attachWa f.src
  else match f.why with
    | .mcast _ => waOf 0 (f.ret.getD f.src) 0
    | _ => waOf 0 f.src 0

/-- The address that an answer carries for its receiver: the request's, or the sender of a multicast. -/
def ansWa (f : Flit) : BitVec 48 :=
  match f.why with
  | .mcast _ => BitVec.ofNat 48 f.src
  | _ => f.wa

/-- The answer to a request that reaches a fenced core or stops before one (R187): ERR on RSP. -/
def errAnswer (c : Nat) (f : Flit) (cc : Nat) : Flit :=
  { src := c, cid := f.cid, chan := 1, op := if f.op = 1 then 4 else 5, tag := f.tag, err := true, fw := f.fw,
    target := BitVec.ofNat 60 (ansTarget f), wa := ansWa f, why := f.why, front := cc + 1 }

/-- Put a response into the router from the core's own side. -/
def Core.respond (k : Core) (ch : Nat) (fs : List Flit) : Core := k.enqueue 4 ch fs

/-- Seam segments that an answer to a target crosses from core c. -/
def ansSegs (c target : Nat) : Nat := min 1 (seams c (waCore target))

/-- Whether an answer of n flits to a request can enter the router on a channel: it has room there, and the context tokens (R183, R266). -/
def Mach.canAnswer (m : Mach) (c ch n : Nat) (f : Flit) : Bool :=
  (m.core c).hasRoom 4 ch n && (f.fw || m.hasFlitTok c f.cid.toNat n (ansSegs c (ansTarget f)))

/-- A response of a core put into its router, with its tokens. -/
def Mach.answer (m : Mach) (c ch : Nat) (fs : List Flit) : Mach :=
  match fs with
  | [] => m
  | f :: _ =>
    let paid := m.payFlits c f.cid.toNat (ansSegs c f.target.toNat) fs
    paid.2.onCore c fun k => k.respond ch paid.1

/-- A flit of a request or response that ends at a router without reaching a target (R187). -/
def Mach.endFlit (m : Mach) (c key : Nat) (f : Flit) : Mach :=
  let m := m.onCore c fun k => k.takeFlit key m.cc
  if f.op = 4 || f.op = 5 then m.onCore c fun k => k.rcount cntProto
  else if f.tail then m.answer c 1 [errAnswer c f m.cc]
  else m

/-! ### The acknowledgements of a multicast (R196, R197) -/

/-- A record of the acknowledgements that a router awaits, changed. -/
def Core.onAgg (k : Core) (src serial : Nat) (g : Agg → Agg) : Core :=
  { k with router := { k.router with aggs := k.router.aggs.map fun a => if a.serial == serial && a.src == src then g a else a } }

/-- The record of the acknowledgements a router awaits for a multicast (R197), made with its first copy. -/
def Core.openAgg (k : Core) (f : Flit) (missing : Bool) : Core :=
  match f.why with
  | .mcast serial =>
    if k.router.aggs.any fun a => a.serial == serial && a.src == f.src then k.onAgg f.src serial fun a => { a with err := a.err || missing }
    else
      let a : Agg := { serial := serial, src := f.src, tag := f.tag, cid := f.cid, up := f.ret, err := missing }
      { k with router := { k.router with aggs := k.router.aggs ++ [a] } }
  | _ => k

/-- An ACK flit towards the router, or the sender, that awaits it (R197). -/
def aggAck (c : Nat) (a : Agg) (up cc : Nat) : Flit :=
  { src := c, cid := a.cid, chan := 1, op := 5, tag := a.tag, err := a.err, target := BitVec.ofNat 60 (waOf 0 up 0),
    wa := BitVec.ofNat 48 a.src, why := .mcast a.serial, front := cc + 1 }

/-- A multicast is acknowledged at a router: its ACK goes on along the tree, or completes the send at its sender's slot. ERR in it stands for members
that have received nothing, and raises no fault (R196, R197). -/
def Mach.aggEnd (m : Mach) (c : Nat) (a : Agg) : Mach :=
  let m := m.onCore c fun k => { k with router := { k.router with aggs := k.router.aggs.filter fun x => !(x.serial == a.serial && x.src == a.src) } }
  match a.up with
  | some up => m.onCore c fun k => k.respond 1 [aggAck c a up m.cc]
  | none => m.onSlot c (a.tag.toNat / 64) fun v => { v with run := { v.run with acks := v.run.acks - 1 } }

/-- The multicasts that are acknowledged in full at a router go on, while RSP has room for their ACKs (R183, R197). -/
def Mach.aggFlush (m : Mach) (c : Nat) : Mach :=
  (m.core c).router.aggs.foldl (fun m a =>
    if a.waiting = 0 && a.parts = 0 && (a.up.isNone || (m.core c).hasRoom 4 1 1) then m.aggEnd c a else m) m

/-- One acknowledgement of a multicast's copies at a router (R197). -/
def Mach.aggDone (m : Mach) (c src serial : Nat) (err : Bool) : Mach :=
  (m.onCore c fun k => k.onAgg src serial fun a => { a with waiting := a.waiting - 1, err := a.err || err }).aggFlush c

/-! ### The legs of a multicast -/

/-- A leg takes the flits of a buffer at the places given. -/
def Core.markTook (k : Core) (key : Nat) (places : List Nat) (code : Nat) : Core :=
  k.setInBuf key ((k.inBuf key).zipIdx.map fun x => if places.contains x.2 then { x.1 with took := code :: x.1.took } else x.1)

/-- The front flits of a message that every leg has taken leave the buffer, at most n; with the tail the message has left. -/
def Mach.mcPop (m : Mach) (c key : Nat) : Nat → Mach
  | 0 => m
  | n + 1 => match (m.core c).inBuf key with
    | [] => m
    | f :: _ =>
      if !f.mc || (m.mcLegs c f).any fun g => !f.takenBy g then m
      else
        let m := m.onCore c fun k => (k.openAgg f (m.mcMissing c f)).takeFlit key m.cc
        if !f.tail then m.mcPop c key n
        else match f.why with
          | .mcast serial => (m.onCore c fun k => k.onAgg f.src serial fun a => { a with parts := a.parts - 1 }).aggFlush c
          | _ => m

/-- The legs of a multicast that end at this router with the flits they have not taken: those of a flit that R182 discards here, and a copy for a member that it
cannot reach, whose acknowledgement has ERR (R196). -/
def Mach.mcEnding (m : Mach) (c : Nat) (f : Flit) : List (Nat × Leg) :=
  (m.mcLegs c f).filter fun g => match g.2 with
    | .here => !flitLegal f
    | .toward _ => false
    | .single x => !flitLegal f || (match m.nextHop c (f.single x) with
      | .stop => true
      | .arrive => !m.served c (f.single x)
      | _ => false)

/-- The flits of a message at the front of a buffer that a leg has not taken. -/
def legRest (l : List Flit) (g : Nat × Leg) : List (Nat × Flit) :=
  match l with
  | [] => []
  | f :: _ => ((l.take (f.rest + 1)).zipIdx.filter fun x => !x.1.takenBy g).map fun x => (x.2, x.1)

/-- A leg ends here. -/
def Mach.endLeg (m : Mach) (c key : Nat) (g : Nat × Leg) : Mach :=
  let l := legRest ((m.core c).inBuf key) g
  let m := m.onCore c fun k => l.foldl (fun k x => k.openAgg x.2 (m.mcMissing c x.2 || flitLegal x.2)) k
  let m := l.foldl (fun m x => if flitLegal x.2 then m else m.protoDrop c) m
  m.onCore c fun k => k.markTook key (l.map (·.1)) g.2.code

/-- What a multicast at the front of a buffer does without a grant: its ending legs end, and what every leg has taken leaves. -/
def Mach.mcSettle (m : Mach) (c key : Nat) (f : Flit) : Mach :=
  ((m.mcEnding c f).foldl (fun m g => m.endLeg c key g) m).mcPop c key 8

/-- The header of a flit that leaves over an output, at the field's trace unit where source 0 selects the router, port and channel (R437, R456; that the port is the output
is the model's choice, log 66). -/
def Mach.traceFlit (m : Mach) (c o : Nat) (f : Flit) : Mach :=
  let w := m.traceWord (fieldOf c) 0
  let f := if o < 4 && f.chan ≠ 5 then { f with hseq := ((m.core c).outP o).seq } else f
  if (fld w 1 6, fld w 7 6) = fieldPlace c && fld w 13 3 = o && bitOf w (16 + f.chan) then
    m.traceEvent (fieldOf c) 0 false (toBytes 16 f.header ++ toBytes 1 o)
  else m

/-- A granted flit leaves over an output. -/
def Mach.leave (m : Mach) (c o : Nat) (x : Cand) (ev : LinkEv) : Mach :=
  let f := x.flit
  let r := m.shareGrant c o x (m.core c).router
  let m := (m.traceFlit c o f).onCore c fun k =>
    let k := { k with router := r }.setOut o (m.granted (k.outP o) x o (if o = 4 then 1 else m.dirCycles c o))
    let k := k.rcount (cntFlits o f.chan)
    if o < 4 && f.det && !f.prior.1 then k.rcount cntDetours else k
  if o = 4 then m.onCore c fun k => k.setLo (loKey f) (k.loOut (loKey f) ++ [f]) else m.cross c o { f with promoted := false } ev

/-- A copy of a multicast's flit leaves over an output; with a head, one acknowledgement more is awaited, and a promotion ends (R197, R200). -/
def Mach.mcForward (m : Mach) (c o : Nat) (x : Cand) (g : Nat × Leg) (ev : LinkEv) : Mach :=
  match (m.core c).inBuf x.key with
  | [] => m
  | f :: _ =>
    let missing := m.mcMissing c f
    let m := m.leave c o x ev
    let m := m.onCore c fun k =>
      let k := (k.openAgg f missing).markTook x.key [x.idx] g.2.code
      let k := match f.why, x.flit.head with
        | .mcast serial, true => k.onAgg f.src serial fun a => { a with waiting := a.waiting + 1 }
        | _, _ => k
      if x.idx = 0 then k.setInBuf x.key (match k.inBuf x.key with
        | y :: r => { y with promoted := false, front := m.cc + 1 } :: r
        | [] => []) else k
    m.mcPop c x.key 8

/-- A unicast flit leaves over an output. -/
def Mach.uniForward (m : Mach) (c o : Nat) (x : Cand) (ev : LinkEv) : Mach :=
  (m.leave c o x ev).onCore c fun k => k.takeFlit x.key m.cc

/-- The input buffers that a command's port names: the core's own side has the buffer of what a fenced link gave back,
the attachment's and the core's. -/
def inputKeys (p : MPort) (ch : Nat) (det : Bool) : List Nat :=
  match p with
  | .loc => [bufKey 6 ch det, bufKey 5 ch det, bufKey 4 ch det]
  | _ => [bufKey (portNum p) ch det]

/-- The output that grants the head flit of an input buffer in this cycle. -/
def Mach.grantOf (m : Mach) (c key : Nat) : Option (Nat × Cand) :=
  [0, 1, 2, 3, 4].findSome? fun o =>
    match m.candAt c o key with
    | none => none
    | some _ => (match m.winner c o with
      | some x => if x.key = key then some (o, x) else none
      | none => none)

/-- FLIT_FORWARD for one input buffer. -/
def Mach.forward (m : Mach) (c key : Nat) (ev : LinkEv) : Mach :=
  match (m.core c).headAt key m.cc with
  | none => m
  | some f =>
    let arrived := !f.mc && m.nextHop c f == .arrive
    if !f.mc && (m.nextHop c f == .stop || (arrived && !m.served c f)) then (if m.canAnswer c 1 1 f then m.endFlit c key f else m)
    else if arrived && !flitLegal f then (m.onCore c fun k => k.takeFlit key m.cc).protoDrop c
    else
      let m := if f.mc then m.mcSettle c key f else m
      match m.grantOf c key with
      | some (o, x) => (match x.leg with
        | some g => m.mcForward c o x g ev
        | none => m.uniForward c o x ev)
      | none => m

/-- FLIT_FORWARD (R187). -/
def flitForwardAt (c : Nat) (p : MPort) (ch : Nat) (det : Bool) (ev : LinkEv) (m : Mach) : Mach :=
  m.when (m.routerOk c && (m.field (fieldOf c)).ring == .on) fun m =>
    match (inputKeys p ch det).find? fun key => ((m.core c).headAt key m.cc).isSome && m.forward c key ev != m with
    | some key => m.forward c key ev
    | none => m

/-! ## Lets and link failures (R190, R192) -/

/-- LET (R190): a replay from the oldest flit not received; eight in a row for one flit hold the link (R192). -/
def letReplayAt (c : Nat) (p : MPort) (ev : LinkEv) (m : Mach) : Mach :=
  let o := portNum p
  let out := (m.core c).outP o
  m.when (o < 4 && !out.held && !out.owed.isEmpty && m.dirWidth c o != 1) fun m =>
    let lets := out.lets + 1
    let m := m.onCore c fun k => k.rcount (cntLets o)
    if 8 ≤ lets then m.onCore c fun k => k.setOut o { out with lets := 8, held := true }
    else
      let m := m.resendOver c o ev (2 * dirLatency c o + 2)
      m.onCore c fun k =>
        let q := k.outP o
        k.setOut o { q with lets := if q.owed.length = out.owed.length then lets else 0 }

/-! ### A link that is fenced (R192) -/

/-- The flits of a message at the end of a buffer, back to its head. -/
def lastMsg (l : List Flit) : List Flit := (l.reverse.takeWhile fun f => !f.tail).reverse

/-- Discard the part of a cut message that has crossed the link, wherever it has got to: in the input buffer key of core r, and, where the message has begun to
leave, over every output it took; a multicast's acknowledgements there with it. f is its head, n bounds the way. -/
def Mach.dropCut (m : Mach) (f : Flit) : Nat → Nat → Nat → Mach
  | 0, _, _ => m
  | n + 1, r, key =>
    let k := m.core r
    let buf := k.buf key
    let part := lastMsg buf
    let outs := if buf.any fun f => f.tail then [] else
      ([0, 1, 2, 3, 4] : List Nat).filterMap fun o => ((k.outP o).busyIn.find? fun e => e.2 % 4096 == key).map fun e => (o, e.1)
    let m := m.onCore r fun k =>
      let k := k.setBuf key (buf.take (buf.length - part.length))
      outs.foldl (fun k x =>
        let p := k.outP x.1
        let k := if x.1 = 4 then [x.2 / 2, x.2 / 2 + 8].foldl (fun k lo =>
          k.setLo lo ((k.loOut lo).take ((k.loOut lo).length - (lastMsg (k.loOut lo)).length))) k else k
        let late := lastMsg (p.replay.filter fun f => f.chan * 2 + b2n f.det == x.2)
        k.setOut x.1 { p with busyIn := adel p.busyIn x.2,
                              replay := p.replay.map fun f => if late.contains f then { f with purged := true } else f }) k
    let m := match f.why with
      | .mcast serial => m.onCore r fun k =>
          { k with router := { k.router with aggs := k.router.aggs.filter fun a => !(f.mc && a.serial == serial && a.src == f.src) } }
      | _ => m
    outs.foldl (fun m x => match (if x.1 < 4 then nbr r x.1 else none) with
      | some d => m.dropCut f n d (bufKey ((x.1 + 2) % 4) (x.2 / 2) (x.2 % 2 == 1))
      | none => m) m

/-- What the replay buffer of a fenced output gives back on one virtual channel (R192): the flits of every message whose tail the receiver has not accepted, in
their original order, and behind them the rest of the message that was leaving. A message of which a part had crossed goes again as a whole (log 85). -/
def Mach.giveBack (m : Mach) (c o : Nat) (p : OutPort) (vc : Nat) : Mach :=
  let fs := p.replay.filter fun f => f.chan * 2 + b2n f.det == vc && !f.purged
  let done := (fs.zipIdx.filter fun x => x.1.tail && x.1.ackAt.isSome).map fun x => x.2 + 1
  let fs := fs.drop (done.foldl max 0)
  match fs with
  | [] => m
  | f :: _ =>
    let back := bufKey 6 f.chan f.prior.1
    let m := match (if f.ackAt.isSome then nbr c o else none) with
      | some n => m.dropCut f 800 n (bufKey ((o + 2) % 4) f.chan f.det)
      | none => m
    let m := m.onCore c fun k => fs.foldl (fun k f =>
      let k := k.putBuf back (givenBack f o (m.cc + 1))
      match f.why, f.mc && f.head with
      | .mcast serial, true => k.onAgg f.src serial fun a => { a with waiting := a.waiting - 1, parts := a.parts + 1 }
      | _, _ => k) k
    match aget p.busyIn vc with
    | none => m
    | some i => m.onCore c fun k =>
      let key := i % 4096
      let buf := k.inBuf key
      let n := match buf with
        | g :: _ => if g.head && !g.mc then 0 else (buf.takeWhile fun x => !x.tail).length + 1
        | [] => 0
      let rest := (buf.take n).filter fun x => !x.took.contains o
      let k := rest.foldl (fun k x => k.putBuf back (givenBack { x with prior := (x.det, x.sidestep) } o (m.cc + 1))) k
      let k := if f.mc then k.setInBuf key ((buf.take n).map (fun x => { x with took := o :: x.took }) ++ buf.drop n)
        else k.setInBuf key (buf.drop n)
      if rest.any fun x => x.tail then k else { k with router := { k.router with rejoin := aset k.router.rejoin key (back, o) } }

/-- A link is fenced: what waits at its output goes the detour (R192). -/
def Mach.fenceLink (m : Mach) (c o : Nat) : Mach :=
  let p := (m.core c).outP o
  let m := m.onCore c fun k => k.setOut o { p with lets := 0, held := false, replay := [], busyIn := [] }
  let m := (List.range 16).foldl (fun m vc => m.giveBack c o p vc) m
  match nbr c o with
  | some n => m.onCore n fun k => k.setIn ((o + 2) % 4) { k.inP ((o + 2) % 4) with discard := false, expect := p.seq }
  | none => m

/-- LINK_RETRAIN_DONE (R192): the held link returns at full or half width, or is fenced and its flits go the detour. -/
def retrainDoneAt (c : Nat) (p : MPort) (width : Nat) (m : Mach) : Mach :=
  let o := portNum p
  let out := (m.core c).outP o
  m.when (o < 4 && out.held && 1 ≤ width && (nbr c o).isSome) fun m =>
    let l := linkOf c o
    let old := m.linkWidth l.1 l.2
    let m := { m with wafer := { m.wafer with links := aset m.wafer.links (l.1 * 2 + b2n l.2) width,
                                              changed := m.wafer.changed || old != width } }
    if width = 1 then m.fenceLink c o
    else (m.onCore c fun k => k.setOut o { out with lets := 0, held := false }).resendOver c o .good 0

/-! ## Detours (R189) -/

/-- A detour entry from its 32 bits: [2:0] the blocked output, [5:3] the side, [9:6] LEN. -/
def detourOf (w : BitVec 32) : Detour :=
  let port (i : Nat) : MPort :=
    match i with
    | 0 => .north
    | 1 => .east
    | 2 => .south
    | 3 => .west
    | _ => .loc
  { out := port (fld w.toNat 0 3), side := port (fld w.toNat 3 3), len := max 1 (fld w.toNat 6 4) }

/-- Whether no flit is on a path that a change of detours at router c affects: none on a detour, none that leaves c over an output whose entries change,
and no message partly injected (R189). -/
def Mach.pathsClear (m : Mach) (c : Nat) (outs : List Nat) : Bool :=
  m.cores.all fun e =>
    let on (f : Flit) : Bool := f.det || outs.any fun o => usesOut e.1 c o f
    (e.2.router.bufs.all fun b => if isLocalIn b.1 then (match b.2 with
        | f :: _ => f.head || !on f
        | [] => true) else b.2.all fun f => !on f) &&
    e.2.router.outs.all fun p => p.2.owed.all fun f => !on f

/-- The detour entries whose affected paths are drained take effect. -/
def Mach.installDetours (m : Mach) : Mach :=
  m.wafer.newDetours.foldl (fun m e =>
    if m.pathsClear e.1 (m.detourOuts e.1 e.2) then
      let m := m.onCore e.1 fun k => { k with router := { k.router with detours := e.2 } }
      { m with wafer := { m.wafer with newDetours := adel m.wafer.newDetours e.1 } }
    else m) m

/-! ## Age, samples, stalls -/

/-- FLIT_AGE_PROMOTION (R200). -/
def agePromoteAt (c : Nat) (p : MPort) (ch : Nat) (det : Bool) (m : Mach) : Mach :=
  match (inputKeys p ch det).find? fun key => match (m.core c).inBuf key with
    | f :: _ => f.head && !f.promoted && f.front + 256 ≤ m.cc
    | [] => false with
  | none => m
  | some key => m.onCore c fun k => (k.setInBuf key (match k.inBuf key with
      | f :: r => { f with promoted := true } :: r
      | [] => [])).rcount cntAged

/-- Flits that the input buffers of a port hold. -/
def Core.portDepth (k : Core) (i : Nat) : Nat :=
  ((k.router.bufs.filter fun e => min 4 (e.1 / 16) == i).map fun e => e.2.length).sum + (if i = 4 then k.router.urgQ.length else 0)

/-- ROUTER_SAMPLE (R206): occupancies every 1,024 cc. -/
def routerSampleAt (c : Nat) (m : Mach) : Mach :=
  let k := m.core c
  let last := (agetD k.router.cnt cntSampleAt 0).toNat
  m.when (last + 1024 ≤ m.cc && m.routerOk c && (m.field (fieldOf c)).ring == .on) fun m => m.onCore c fun k =>
    let k := [0, 1, 2, 3, 4].foldl (fun k i =>
      let d := k.portDepth i
      let k := k.rcount (cntDepthSum i) d
      let top := max d (agetD k.router.cnt (cntDepthMax i) 0).toNat
      { k with router := { k.router with cnt := aset k.router.cnt (cntDepthMax i) (BitVec.ofNat 64 top) } }) k
    let k := k.rcount cntSamples
    { k with router := { k.router with cnt := aset k.router.cnt cntSampleAt (BitVec.ofNat 64 m.cc) } }

/-- STALL (R206): outputs for which a head flit waits at the end of a cycle. -/
def Mach.countStalls (m : Mach) (c : Nat) : Mach :=
  let k := m.core c
  let wants (key : Nat) : List Nat :=
    match k.headAt key m.cc with
    | none => []
    | some f =>
      if f.mc then (m.mcLegs c f).filterMap fun g => if f.takenBy g then none else match g.2 with
        | .here => some 4
        | .toward d => some d
        | .single x => (match m.nextHop c (f.single x) with
          | .arrive => some 4
          | .go d _ _ => some d
          | _ => none)
      else match m.nextHop c f with
        | .arrive => [4]
        | .go d _ _ => [d]
        | _ => []
  ((k.inKeys.map wants).flatten.eraseDups).foldl (fun m o => m.onCore c fun k => k.rcount (cntStall o)) m

def execFlitForward (c : CoreIx) (p : MPort) (ch : ChanIx) (det : Bool) (ev : LinkEv) (s : State) :
    Host.Outcome State Fault Refusal := upd (flitForwardAt c p ch det ev) s
def execLetReplay (c : CoreIx) (p : MPort) (ev : LinkEv) (s : State) : Host.Outcome State Fault Refusal :=
  upd (letReplayAt c p ev) s
def execLinkRetrainDone (c : CoreIx) (p : MPort) (width : Fin 4) (s : State) : Host.Outcome State Fault Refusal :=
  upd (retrainDoneAt c p width) s
def execFlitAgePromotion (c : CoreIx) (p : MPort) (ch : ChanIx) (det : Bool) (s : State) :
    Host.Outcome State Fault Refusal := upd (agePromoteAt c p ch det) s
def execRouterSample (c : CoreIx) (s : State) : Host.Outcome State Fault Refusal := upd (routerSampleAt c) s

end Sys2Proof.Machine
end

