-- ==== Sys2Proof/Machine/UnderBank.lean ====
section
/-! DEFINITION. Accesses that complete at the under-bank and in the cache: LOCAL_UNDER_BANK_ACCESS and CACHE_LINE_FILL
(R149, R150, R152, R167, R168). -/

namespace Sys2Proof.Machine

open Sys2Proof

/-- A pending load delivers its value: dependent bundles can issue from the next cycle on (R54, R59). -/
def deliver (v : Slot) (rd : Nat) (x : BitVec 64) (cc : Nat) : Slot :=
  if rd < 32 then
    let locks := v.run.locks.map fun l =>
      if l.file == 0 && l.reg == rd && l.ready.isNone then { l with ready := some (cc + 1) } else l
    { v with arch := writeS v.arch rd x, run := { v.run with locks := locks } }
  else v

/-- A slot without the first pending access that a test picks. -/
def dropAcc (v : Slot) (p : PendAcc → Bool) : Slot :=
  match v.run.accs.findIdx? p with
  | some i => { v with run := { v.run with accs := v.run.accs.eraseIdx i } }
  | none => v

/-- A load that meets a poisoned codeword (R168): a free value in its register, and the fault of the slot. -/
def Mach.poisonedLoad (m : Mach) (c s rd wa pc : Nat) : Mach :=
  let d := m.draw
  (d.2.onSlot c s fun v => deliver v rd (BitVec.ofNat 64 d.1) m.cc).poisonFault c s wa pc

/-- The under-bank bucket of a slot's context at its own core (R266). -/
def Mach.ubTok (m : Mach) (c s : Nat) : Nat := ubKey c ((m.core c).slot s).ctl.cid.toNat

/-- The rate of a context's bucket at an under-bank, its weight in the controller's round-robin (R268). -/
def Mach.ubRate (m : Mach) (c cid : Nat) : Nat := match aget m.buckets (ubKey c cid) with
  | some b => b.rate
  | none => 1

/-- The context that the under-bank controller serves next of those that could be served: in the order of the CIDs after the last one, while it has granules left
of its turn; when none has, a new round begins (R268). -/
def Mach.ubTurn (m : Mach) (c : Nat) (able : List Nat) : Option Nat :=
  let k := m.core c
  let order := (able.filter (k.ubLast ≤ ·)).mergeSort (· ≤ ·) ++ (able.filter (· < k.ubLast)).mergeSort (· ≤ ·)
  match order.find? fun cid => 0 < agetD k.ubLeft cid (m.ubRate c cid) with
  | some cid => some cid
  | none => order.head?

/-- The turn of a context after n granules; one that had none left has begun a new round. -/
def Mach.ubServed (m : Mach) (c cid n : Nat) : Mach :=
  m.onCore c fun k =>
    let left := agetD k.ubLeft cid (m.ubRate c cid)
    let l := if left = 0 then [] else k.ubLeft
    let left := (if left = 0 then m.ubRate c cid else left) - n
    { k with ubLeft := aset l cid left, ubLast := if left = 0 then cid + 1 else cid }

/-- Whether an access of the core itself can be served (R152, R174): a load takes 52 cc from issue to its dependent bundle. -/
def Mach.ubAble (m : Mach) (c : Nat) (q : UbAcc) : Bool :=
  (m.core c).memReady 1 q.off m.cc && m.hasTok (m.ubTok c q.slot) 1 && (q.store.isSome || q.issued + 51 ≤ m.cc)

/-- The context of an access of the core itself. -/
def Core.accCid (k : Core) (q : UbAcc) : Nat := (k.slot q.slot).ctl.cid.toNat

/-- The place of the access of the core itself that the under-bank controller serves next: of each context the oldest, and among contexts by the round-robin of R268. -/
def Mach.ubNext (m : Mach) (c : Nat) : Option (Nat × UbAcc) :=
  let k := m.core c
  let first := k.ubq.zipIdx.filter fun x => !((k.ubq.take x.2).any fun y => k.accCid y == k.accCid x.1)
  let able := first.filter fun x => m.ubAble c x.1
  match m.ubTurn c (able.map fun x => k.accCid x.1) with
  | some cid => (able.find? fun x => k.accCid x.1 == cid).map fun x => (x.2, x.1)
  | none => none

/-- LOCAL_UNDER_BANK_ACCESS (R152). -/
def ubAccess (c : Nat) (cells : List CellErr) (m : Mach) : Mach :=
  let m := m.cellErrs c cells
  match m.ubNext c with
  | none => m
  | some (i, q) =>
    let m := ((m.takeTok (m.ubTok c q.slot) 1).ubServed c ((m.core c).accCid q) 1).onCore c fun k => ({ k with ubq := k.ubq.eraseIdx i }).touch 1 q.off m.cc
    match q.store with
    | some x => m.onCore c fun k => k.writeMem 1 q.off (toBytes 8 x.toNat)
    | none =>
      let k := m.core c
      let wa := waOf 1 (m.logical c) q.off
      let acc := (k.slot q.slot).run.accs.find? fun a => a.load && a.wa.toNat == wa && a.rid.isNone && a.line.isNone
      let rd := (acc.map (·.rd)).getD 32
      let m := (m.onCore c fun k => k.countRead 1 q.off 8).onSlot c q.slot fun v =>
        dropAcc v fun a => a.load && a.wa.toNat == wa && a.rid.isNone && a.line.isNone
      match k.poisonAt 1 q.off 8 with
      | some p => m.poisonedLoad c q.slot rd (waOf 1 (m.logical c) p) ((acc.map (·.pc)).getD 0)
      | none => m.onSlot c q.slot fun v => deliver v rd (BitVec.ofNat 64 (ofBytes (k.readMem 1 q.off 8))) m.cc

/-- Poison marks of the words of a line in a core's own memory. -/
def Core.linePoison (k : Core) (space off : Nat) : BitVec 16 :=
  BitVec.ofNat 16 (((List.range 16).filter fun i => (k.poisonAt space (off + 8 * i) 8).isSome).map fun i => 2 ^ i).sum

/-- A line of the core's own memory as it is filled. -/
def Core.ownLine (k : Core) (f : Fill) : Fill :=
  let wa := f.tag * 128
  { f with data := BitVec.ofNat 1024 (ofBytes (k.readMem (waSpace wa) (waOff wa) 128)), got := 4,
           poison := k.linePoison (waSpace wa) (waOff wa) }

/-- Whether a fill is complete in a cycle (R152): a line of the own under-bank 58 cc after issue, a remote one with its
last flit. -/
def Mach.fillReady (m : Mach) (c : Nat) (f : Fill) : Bool :=
  if m.lineOwn c f.tag then
    f.issued + 57 ≤ m.cc && (m.core c).memReady (waSpace (f.tag * 128)) (waOff (f.tag * 128)) m.cc &&
    (waSpace (f.tag * 128) != 1 || m.hasTok (m.ubTok c f.slot) 4)
  else f.got == 4 && f.issued < m.cc

/-- One access that waited for a line: a load reads it, a store merges into it (R149). -/
def Mach.lineServe (m : Mach) (c s tag : Nat) (a : PendAcc) : Mach :=
  match (m.core c).findLine tag with
  | none => m
  | some l =>
    let off := a.wa.toNat % 128
    if a.load then
      if bitOf l.poison.toNat (off / 8) then m.poisonedLoad c s a.rd (unitWa a.wa.toNat) a.pc
      else m.onSlot c s fun v => deliver v a.rd (lineLoad l off) m.cc
    else m.cacheStore c s l off a.value

/-- The accesses of a slot that wait for a line, oldest first, are served and leave the slot's list. -/
def Mach.lineServeSlot (m : Mach) (c tag s : Nat) : Mach :=
  let mine (a : PendAcc) : Bool := a.line == some tag
  let as := ((m.core c).slot s).run.accs.filter mine
  let m := m.onSlot c s fun v => { v with run := { v.run with accs := v.run.accs.filter fun a => !mine a } }
  as.foldl (fun m a => m.lineServe c s tag a) m

/-- Room on the fence lists of the slots whose stores wait for a line: the oldest line of a full list goes first. Answers whether each can go (R150). -/
def Mach.fillRoom (m : Mach) (c tag : Nat) : Bool × Mach :=
  [0, 1, 2, 3].foldl (fun r s =>
    if ((r.2.core c).slot s).run.accs.any fun a => a.line == some tag && !a.load then
      (if r.2.canCacheStore c s tag then (r.1, r.2.fenceRoom c s tag) else (false, r.2))
    else r) (true, m)

/-- CACHE_LINE_FILL (R149): the line enters its set, and the accesses that waited for it are served; a line whose stores overflow a fence list waits until the write-back
that this causes can go (R150). -/
def lineFill (c : Nat) (cells : List CellErr) (m : Mach) : Mach :=
  let m := m.cellErrs c cells
  match (m.core c).fills.find? fun f => m.fillReady c f && (m.fillRoom c f.tag).1 with
  | none => m
  | some f =>
    let own := m.lineOwn c f.tag
    let m := (m.fillRoom c f.tag).2
    let m := if own && waSpace (f.tag * 128) == 1 then m.takeTok (m.ubTok c f.slot) 4 else m
    let f := if own then (m.core c).ownLine f else f
    let m := m.onCore c fun k =>
      let k := if own then (k.touch (waSpace (f.tag * 128)) (waOff (f.tag * 128)) m.cc).countRead (waSpace (f.tag * 128)) (waOff (f.tag * 128)) 128 else k
      let k := { k with fills := k.fills.filter fun x => x.tag != f.tag }
      k.putLine { tag := f.tag, data := f.data, used := m.cc, slot := f.slot, poison := f.poison }
    [0, 1, 2, 3].foldl (fun m s => m.lineServeSlot c f.tag s) m

def execCacheLineFill (c : CoreRead) (s : State) : Host.Outcome State Fault Refusal := upd (lineFill c.core c.cells) s
def execLocalUnderBankAccess (c : CoreRead) (s : State) : Host.Outcome State Fault Refusal := upd (ubAccess c.core c.cells) s

end Sys2Proof.Machine
end

