-- ==== Sys2Proof/Machine/FwCsr.lean ====
section
/-! DEFINITION. Firmware's writes to a core's CSR page, which reach every field of every block (R10 to R13, R66 to R70, R142,
R175, R228, R229, R374, R430). -/

namespace Sys2Proof.Machine

open Sys2Proof

/-- The slot state of a code of SLOT_STATUS (R60). -/
def stOfCode (n : Nat) : Option SlotSt := [SlotSt.empty, .loaded, .running, .parked, .halted, .quiesced].find? fun st => stCode st == n

/-- Firmware's write into a SLOT block, which reaches every field of it (R67, R68, R142): of SLOT_WAKE_PEND the three stored bits; MESH is a level of the
slot's queues (R62). -/
def fwSlot (v : Slot) (o x tick cc : Nat) : Slot :=
  let t := v.ctl
  let n := v.cnt
  let b64 := BitVec.ofNat 64 x
  match o with
  | 0x00 => { v with ctl := { t with st := (stOfCode (fld x 0 3)).getD t.st, ready := bitOf x 3,
                                     block := BitVec.ofNat 4 (fld x 4 4), cid := BitVec.ofNat 10 (fld x 8 10) } }
  | 0x04 => { v with ctl := { t with weight := BitVec.ofNat 5 x, accBase := BitVec.ofNat 3 (fld x 8 3),
                                     accRows := BitVec.ofNat 4 (fld x 11 4) } }
  | 0x08 => { v with ctl := { t with subn := bitOf x 0, dbg := bitOf x 1 } }
  | 0x10 => { v with ctl := { t with pc := BitVec.ofNat 19 (fld x 0 19 / 16 * 16) }, run := { v.run with fbuf := [], fetchAt := 0 } }
  | 0x14 => { v with ctl := { t with wakeCause := BitVec.ofNat 6 x } }
  | 0x1C => { v with ctl := { t with cause := BitVec.ofNat 6 x, imprecise := bitOf x 6, more := bitOf x 7 } }
  | 0x20 => { v with ctl := { t with faultPc := BitVec.ofNat 19 x } }
  | 0x24 =>
    let v := v.clearPend (14 - x % 16 / 2 * 2) cc
    { v with ctl := { v.ctl with pendHuddle := v.ctl.pendHuddle || bitOf x 1, pendTimer := v.ctl.pendTimer || bitOf x 2,
                                 pendDebug := v.ctl.pendDebug || bitOf x 3 } }
  | 0x28 => { v with ctl := { t with faultAddr := BitVec.ofNat 48 x } }
  | 0x30 => { v with ctl := { t with stepCount := BitVec.ofNat 32 x } }
  | 0x34 => { v with ctl := { t with stepTag := BitVec.ofNat 16 x } }
  | 0x38 => { v with ctl := { t with stepTime := b64 } }
  | 0x40 => { v with cnt := { n with issue := b64 } }
  | 0x48 => { v with cnt := { n with spare := b64 } }
  | 0x50 => { v with cnt := { n with blkq := b64 } }
  | 0x58 => { v with cnt := { n with blkh := b64 } }
  | 0x60 => { v with cnt := { n with blks := b64 } }
  | 0x68 => { v with cnt := { n with blko := b64 } }
  | 0x70 => { v with cnt := { n with blkp := b64 } }
  | 0x80 | 0x88 | 0x90 | 0x98 | 0xA0 | 0xA8 | 0xB0 | 0xB8 =>
      { v with ctl := { t with win := vset t.win ((o - 0x80) / 8) b64 } }
  | _ => slotWrite v o x tick cc

/-- Firmware's write into the QUEUE block (R228); s is the slot whose copy an aliased register names. -/
def Mach.fwQueue (m : Mach) (c s o x : Nat) : Mach :=
  if o < 0x540 then
    (if o % 8 = 0 then (m.csrWrite c s o x).onCore c fun k => k.onQueue ((o - 0x500) / 8) fun q =>
      { q with slot := BitVec.ofNat 2 x, valid := bitOf x 2 } else m)
  else if o = 0x544 then m.onSlot c s fun v => { v with ali := { v.ali with hstat := BitVec.ofNat 6 x } }
  else if o = 0x548 then m.onSlot c s fun v => { v with ali := { v.ali with hsseq := BitVec.ofNat 16 x } }
  else if o = 0x540 || o = 0x54C || (0x580 ≤ o && o < 0x5C0 && o % 8 = 0) then m.csrWrite c s o x
  else m

/-- Firmware's write of a huddle's register (R229): SAT and UNSURE are cleared by ones. -/
def fwHuddle (h : Huddle) (x cc : Nat) : Huddle :=
  { h.clearFlags x cc with count := BitVec.ofNat 24 x, target := BitVec.ofNat 24 (x / 2 ^ 24), mode := BitVec.ofNat 2 (x / 2 ^ 48),
                           state := BitVec.ofNat 2 (x / 2 ^ 50), phase := BitVec.ofNat 8 (x / 2 ^ 52), cyc := none }

/-- Firmware's write into the MEM block (R175). -/
def fwMem (k : Core) (o x : Nat) : Core :=
  let b64 := BitVec.ofNat 64 x
  match o with
  | 0x700 => { k with mem := { k.mem with cbanks := min 4 (fld x 0 3) } }
  | 0x704 => { k with mem := { k.mem with resident := BitVec.ofNat 6 x } }
  | 0x710 => { k with mem := { k.mem with hit := b64 } }
  | 0x718 => { k with mem := { k.mem with miss := b64 } }
  | 0x720 => { k with mem := { k.mem with wb := b64 } }
  | 0x728 => { k with mem := { k.mem with eccCorr := b64 } }
  | 0x730 => { k with mem := { k.mem with eccUncorr := b64 } }
  | _ => k

/-- The domain state of a code of PWR_STATE (R374). -/
def domOf (n : Nat) : Dom := if n = 1 then .ret else if n = 2 then .off else .on

/-- Firmware's write of PWR_STATE (R374): the domains take the states written. A bank that goes OFF loses its contents and reads as zero when it is next ON; firmware never
switches a resident bank off (R157). CORE_LOGIC that goes OFF loses everything in it (R355). -/
def fwPwrState (k : Core) (x : Nat) : Core :=
  let k := if fld x 0 2 = 2 then k.lost else k
  let bank (i : Nat) : Dom :=
    if fld x (2 + 2 * i) 2 = 2 && bitOf k.mem.resident.toNat i then vget k.pwr.banks i else domOf (fld x (2 + 2 * i) 2)
  let gone := (List.range 6).filter fun i => bank i == .off
  { k with sram := gone.foldl (fun m b => memClear m (b * 65536) 65536) k.sram,
           poisonS := k.poisonS.filter (fun w => !gone.contains (w * 8 / 65536)),
           pwr := { k.pwr with logic := domOf (fld x 0 2), gated := fld x 0 2 == 3 || fld x 0 2 == 1, banks := Vector.ofFn fun i => bank i.val,
                               bankctl := domOf (fld x 14 2), sr := Vector.ofFn fun i => bitOf x (16 + i.val), iso := BitVec.ofNat 8 (x / 2 ^ 18),
                               lending := bitOf x 26, fsleep := bitOf x 27, level := fld x 28 4 } }

/-- Firmware's write into the PWR block (R374). -/
def Mach.fwPwr (m : Mach) (c s o x : Nat) : Mach :=
  let b64 := BitVec.ofNat 64 x
  let b32 := BitVec.ofNat 32 x
  let onPwr (f : Pwr → Pwr) : Mach := m.onCore c fun k => { k with pwr := f k.pwr }
  match o with
  | 0x900 => m.onSlot c s fun v => { v with ali := { v.ali with depth := BitVec.ofNat 2 x } }
  | 0x904 => m.csrWrite c s o x
  | 0x908 => m.csrWrite c s o x
  | 0x90C => m.onCore c fun k => fwPwrState k x
  | 0x910 => onPwr fun w => { w with voteCl := w.voteCl ||| b32 }
  | 0x914 => onPwr fun w => { w with voteCl := w.voteCl &&& ~~~ b32, park := some m.cc }
  | 0x918 => onPwr fun w => { w with voteBk := w.voteBk ||| b32 }
  | 0x91C => onPwr fun w => { w with voteBk := w.voteBk &&& ~~~ b32 }
  | 0x920 => isoRelAt c b32 m
  | 0x924 => (onPwr fun w => { w with edepth := BitVec.ofNat 2 x, lendDis := bitOf x 2, nofs := bitOf x 3,
                                      fwVoteCl := bitOf x 4, fwVoteBk := bitOf x 5 }).onCore c Core.emptyDrop
  | 0x928 => onPwr fun w => { w with cntDrop := b64 }
  | 0x930 => onPwr fun w => { w with cntBounce := b64 }
  | 0x938 => onPwr fun w => { w with cntEdgelost := b64 }
  | 0x940 => onPwr fun w => { w with cntRefuse := b64 }
  | _ => m

/-- Firmware's write of a sentry register (R430). -/
def fwSen (v : Slot) (o x : Nat) : Slot :=
  let a := v.ali
  let b64 := BitVec.ofNat 64 x
  match o with
  | 0xA00 => { v with ali := { a with frac := BitVec.ofNat 3 x, partner := BitVec.ofNat 17 (x / 256) } }
  | 0xA08 => { v with ali := { a with sampled := b64 } }
  | 0xA10 => { v with ali := { a with mismatch := b64 } }
  | 0xA18 => { v with ali := { a with deferred := b64 } }
  | 0xA20 => { v with ali := { a with lost := b64 } }
  | 0xA28 => { v with ali := { a with reexec := b64 } }
  | _ => v

/-- n bytes of a core's CSR page from an offset on, as its registers read. -/
def Mach.pageBytes (m : Mach) (c s off n : Nat) : Bytes :=
  ((List.range (n / 4)).map fun i =>
    let o := off + 4 * i
    toBytes 4 (match m.csr c s o with
      | some v => v
      | none => if o % 8 = 4 then (m.csr c s (o - 4)).getD 0 / 2 ^ 32 else 0)).flatten

/-- What firmware's read of n bytes of a core's CSR page clears: the fields of type RC that it touches (R10). -/
def Core.pageRead (k : Core) (off n cc : Nat) : Core :=
  ([0x114, 0x214, 0x314, 0x414, 0x544].filter fun o => off < o + 4 && o < off + n).foldl (fun k o => csrReadEffect k 0 o cc) k

/-- A write by firmware to an offset of a core's CSR page; at a reserved offset it has no effect (R12). OCCUPIED and PARKED of CORE_SLOTS show the states of
the slots, whatever is written (log 76). -/
def Mach.fwCsrWrite (m : Mach) (c s o x : Nat) : Mach :=
  if o < 0x100 then
    (match o with
     | 0x000 => m.onCore c fun k => { k with ident := some (BitVec.ofNat 23 x) }
     | 0x008 => m.onCore c fun k => { k with ready4 := BitVec.ofNat 4 (x / 16) }
     | 0x004 => m.onCore c fun k => { k with lindex := some (fld x 0 17) }
     | 0x010 => m.onCore c fun k => { k with cycles := BitVec.ofNat 64 x }
     | 0x018 => m.onCore c fun k => { k with skipped := BitVec.ofNat 64 x }
     | 0x020 => m.onCore c fun k => { k with idle := BitVec.ofNat 64 x }
     | _ => m)
  else if o < 0x500 then m.onSlot c ((o - 0x100) / 0x100) fun v => fwSlot v (o % 0x100) x m.now.toNat m.cc
  else if o < 0x600 then m.fwQueue c s o x
  else if o < 0x700 then
    (if o % 8 = 0 then m.onCore c fun k =>
      (k.onHuddle ((o - 0x600) / 8) fun h => fwHuddle h x m.cc).hudInput ((o - 0x600) / 8) m.cc id else m)
  else if o < 0x800 then m.onCore c fun k => fwMem k o x
  else if o < 0x900 then m
  else if o < 0xA00 then m.fwPwr c s o x
  else if o < 0xA40 then m.onSlot c s fun v => fwSen v o x
  else if o < 0xB00 then m.onCore c fun k => { k with testRegs := aset k.testRegs o (BitVec.ofNat 64 x) }
  else m

end Sys2Proof.Machine
end

