-- ==== Sys2Proof/Machine/Mesh.lean ====
section
/-! DEFINITION. What reaches a core over the mesh: MESH_WRITE, MESH_READ, MESH_MSG, MESH_SIGNAL, MESH_DATA, MESH_ACK, MESH_NOTE,
HELD_MESSAGE_LAND, QUEUE_STALL, HOLDCAP_HALT, HUDDLE_REPEAT_RELEASE and HUD_WAIT_TIMEOUT (R93, R147, R155, R167, R168, R181,
R197, R210 to R212, R215, R218 to R227, R275). -/

namespace Sys2Proof.Machine

open Sys2Proof

/-! ## Messages at a local output -/

/-- The message at the head of a local output, once all of its flits are there. -/
def Core.loMsg (k : Core) (key : Nat) : Option (Flit × List Flit) :=
  match k.loOut key with
  | f :: r => if f.rest ≤ r.length then some (f, f :: r.take f.rest) else none
  | [] => none

/-- Remove the message at the head of a local output. -/
def Core.loDrop (k : Core) (key : Nat) : Core :=
  let hs := adel (adel k.router.heldSince key) (key + 16)
  let k := { k with router := { k.router with heldSince := hs } }
  match k.loOut key with
  | f :: r => k.setLo key (r.drop f.rest)
  | [] => k

/-- The payload of a message's flits in order. -/
def msgPayload (fs : List Flit) : Bytes := (fs.map fun f => toBytes 32 f.pay.toNat).flatten

/-- Whether the core itself can serve a request to a space (R359): the under-bank needs no CORE_LOGIC. -/
def Core.canServe (k : Core) (space cc : Nat) : Bool := space == 1 || k.clocksRun cc

/-- An ACK of a request (R181). -/
def ackFlit (c : Nat) (f : Flit) (err : Bool) (cc : Nat) : Flit :=
  { src := c, cid := f.cid, chan := 1, op := 5, tag := f.tag, err := err, fw := f.fw, target := BitVec.ofNat 60 (ansTarget f),
    wa := ansWa f, why := f.why, front := cc + 1 }

/-! ## Acknowledgements (R85, R93, R197) -/

/-- A request of a slot was answered with an error (R93): dead-ball, imprecise. -/
def Mach.deadBall (m : Mach) (c s : Nat) (pc : Option Nat) (wa : Nat) : Mach := m.impreciseFault c s 2 wa pc

/-- The same for a request of a descriptor: the descriptor, while it has not completed, ends with it (R460). -/
def Mach.descBall (m : Mach) (c s serial wa : Nat) : Mach :=
  match ((m.core c).slot s).run.descs.find? fun d => d.serial == serial with
  | some d => (m.onCore c fun k => k.endDesc s serial m.cc).deadBall c s d.pc wa
  | none => m.deadBall c s none wa

/-- One acknowledgement fewer for a slot: of a message to its own core, or of one to another. -/
def ackSlot (v : Slot) (own : Bool) : Slot :=
  if own then { v with run := { v.run with localMsgs := v.run.localMsgs - 1 } }
  else { v with run := { v.run with acks := v.run.acks - 1 } }

/-- One acknowledgement fewer for a descriptor; it may now be done. -/
def ackDesc (v : Slot) (serial : Nat) (own : Bool) : Slot :=
  v.onDesc serial fun d => { d with acks := d.acks - 1, own := d.own - b2n own }

/-- An inbound fabric request whose mesh message is acknowledged (R299): the answer is owed when the log is done too. -/
def Mach.inAck (m : Mach) (id : Nat) (err : Bool) (data : Bytes) : Mach :=
  { m with fabric := { m.fabric with ins := m.fabric.ins.map fun r =>
      if r.id == id then
        { r with got := r.got + 1, data := r.data ++ data, err := r.err || err, meshDone := r.need ≤ r.got + 1 }
      else r } }

/-- What an acknowledgement does at the core that receives it (R85, R165, R197, R299). -/
def Mach.acknowledge (m : Mach) (c : Nat) (f : Flit) (own err : Bool) : Mach :=
  let wa := f.wa.toNat
  match f.why with
  | .store s pc =>
    let m := m.onSlot c s fun v => ackSlot v own
    if err then m.deadBall c s pc wa else m
  | .mover s serial =>
    let m := m.onSlot c s fun v => ackDesc (ackSlot v own) serial own
    if err then m.descBall c s serial wa else m
  | .line slots desc =>
    let m := slots.foldl (fun m s => m.onSlot c s fun v => ackSlot v false) m
    let m := match desc with
      | some (s, serial) => m.onSlot c s fun v => ackDesc v serial false
      | none => m
    if err then m.deadBall c (f.tag.toNat / 64) none wa else m
  | .mcast serial => m.aggDone c wa serial err
  | .fabric s serial =>
    let m := m.onSlot c s fun v =>
      ({ v with run := { v.run with facks := v.run.facks - 1 } }).onDesc serial fun d => { d with facks := d.facks - 1 }
    if err then m.mvUnreachable c s serial else m
  | .inbound id => m.inAck id err []
  | .none => if err then m.deadBall c (f.tag.toNat / 64) none wa else m
  | _ => m

/-- MESH_ACK (R197): an ACK at the core, or at its attachment. -/
def meshAckAt (c : Nat) (m : Mach) : Mach :=
  match [1, 9].find? fun key => match (m.core c).loMsg key with
    | some (f, _) => f.op == 5 && f.why != Why.turn
    | none => false with
  | none => m
  | some key =>
    match (m.core c).loMsg key with
    | some (f, _) => (m.onCore c fun k => k.loDrop key).acknowledge c f false f.err
    | none => m

/-- A request is done at its target: its sender's count falls at once when it is this core, else an ACK goes back; a copy of a
multicast counts at the router that made it, and one for the sender's own core is delivered there (R85). -/
def Mach.finish (m : Mach) (c : Nat) (f : Flit) (err : Bool) : Mach :=
  if f.attach then m.answer c 1 [ackFlit c f err m.cc]
  else match f.why with
    | .mcast serial =>
      let m := if f.src = c then m.onSlot c (f.tag.toNat / 64) fun v => ackSlot v true else m
      if f.mc then m.aggDone c f.src serial err else m.answer c 1 [ackFlit c f err m.cc]
    | .none => m
    | _ => if f.src = c then m.acknowledge c f true err else m.answer c 1 [ackFlit c f err m.cc]

/-- Firmware's record of a request to a place that does not exist (R147). -/
def Mach.badRequest (m : Mach) (c : Nat) : Mach := (m.logRec 0x10 (fieldOf c) 0xFFFF (toBytes 4 c)).logCount 0x78

/-! ## Writes and reads (R181) -/

/-- The offset that a request names in its space. -/
def reqOff (f : Flit) : Nat :=
  if f.mc then (if mcSpace f.target.toNat = 0 || mcSpace f.target.toNat = 0xF then mcGran f.target.toNat * 32
    else mcGran f.target.toNat)
  else waOff f.target.toNat

/-- The space that a request names. -/
def reqSpace (f : Flit) : Nat := if f.mc then mcSpace f.target.toNat else waSpace f.target.toNat

/-- The granules of n bytes at an offset. -/
def granules (off n : Nat) : Nat := (off + n + 31) / 32 - off / 32

/-- The bytes of a WRITE to an offset: 32 per flit, TAG[5:0] + 1 in the tail; poisoned words of a line are not written. -/
def writeParts (off : Nat) (fs : List Flit) : List (Nat × Bytes) :=
  (fs.zipIdx.map fun x =>
    let n := if x.1.tail then min 32 (x.1.tag.toNat % 64 + 1) else 32
    let b := (toBytes 32 x.1.pay.toNat).take n
    if x.1.bad.isEmpty then [(32 * x.2, b)]
    else ([0, 1, 2, 3].filter fun j => !x.1.bad.contains (off + 32 * x.2 + 8 * j)).map fun j => (32 * x.2 + 8 * j, (b.drop (8 * j)).take 8)).flatten

/-- Bytes that a WRITE carries. -/
def writeLen (fs : List Flit) : Nat :=
  32 * (fs.length - 1) + (match fs.getLast? with
    | some f => min 32 (f.tag.toNat % 64 + 1)
    | none => 0)

/-- A WRITE into a core's CSR page, by firmware only (R146): eight bytes at a time. -/
def Mach.csrBytes (m : Mach) (c off : Nat) (b : Bytes) : Mach :=
  (List.range ((b.length + 7) / 8)).foldl (fun m i => m.fwCsrWrite c 0 (off + 8 * i) (le b (8 * i) 8)) m

/-- The bytes of a WRITE written, and the WRITE acknowledged (R181). -/
def Mach.doWrite (m : Mach) (c : Nat) (f : Flit) (fs : List Flit) : Mach :=
  let space := reqSpace f
  let off := reqOff f
  (m.onCore c fun k => ((writeParts off fs).foldl (fun k p => k.remoteMem space (off + p.1) p.2) k).touch space off m.cc).finish c f false

/-- Cycles from the delivery of a READ to its response (R152, R203). -/
def readTime (space : Nat) : Nat := if space = 1 then 47 else 9

/-- The poisoned codewords or words that n bytes from an offset touch, as offsets (R168). -/
def Core.poisons (k : Core) (space off n : Nat) : List Nat :=
  if space = 0 then (k.poisonS.filter fun w => w * 8 < off + n && off < w * 8 + 8).map (· * 8)
  else (k.poisonU.filter fun w => touches off n w).map (· * 32)

/-- The DATA of a READ (R181): ⌈length ÷ 32⌉ flits, on BULK for the mover; each says which poisoned codewords or words it touches (R168). -/
def Mach.dataFlits (m : Mach) (c : Nat) (f : Flit) (space off n : Nat) : List Flit :=
  let k := m.core c
  let base : Flit := { src := c, cid := f.cid, chan := if f.tag.toNat % 64 < 32 then 1 else 4, op := 4, tag := f.tag, fw := f.fw,
                       target := BitVec.ofNat 60 (ansTarget f), wa := f.wa, why := f.why, front := m.cc + 1 + readTime space }
  (mkMsg base (toChunks (k.readMem space off n))).zipIdx.map fun x =>
    { x.1 with bad := k.poisons space (off + 32 * x.2) (min 32 (n - 32 * x.2)) }

/-- The DATA of firmware's READ of a CSR page (R12, R13): registers as they read, reserved offsets as 0. -/
def Mach.pageFlits (m : Mach) (c : Nat) (f : Flit) (off n : Nat) : List Flit :=
  let base : Flit := { src := c, cid := f.cid, chan := if f.tag.toNat % 64 < 32 then 1 else 4, op := 4, tag := f.tag, fw := f.fw,
                       target := BitVec.ofNat 60 (ansTarget f), wa := f.wa, why := f.why, front := m.cc + 1 }
  mkMsg base (toChunks (((m.pageBytes c 0 (off / 4 * 4) (n + 8)).drop (off % 4)).take n))

/-- The channel of the DATA that answers a READ (R179, R181), and the bytes that a READ asks for. -/
def dataChan (f : Flit) : Nat := if f.tag.toNat % 64 < 32 then 1 else 4
def readLen (f : Flit) : Nat := fld f.pay.toNat 0 9

/-- The bytes of a READ read, and sent to the requester (R181). -/
def Mach.doRead (m : Mach) (c : Nat) (f : Flit) : Mach :=
  let space := reqSpace f
  let off := reqOff f
  let fs := m.dataFlits c f space off (readLen f)
  (m.onCore c fun k => (k.touch space off m.cc).countRead space off (readLen f)).answer c (dataChan f) fs

/-! ### The under-bank controller (R268) -/

/-- Granules of a request. -/
def reqGranules (f : Flit) (fs : List Flit) : Nat := granules (reqOff f) (if f.op = 1 then readLen f else writeLen fs)

/-- Whether the memory and the router are ready for a request: its tier, and room and tokens for its answer (R174, R183). -/
def Mach.reqReady (m : Mach) (c : Nat) (f : Flit) : Bool :=
  (m.core c).canServe (reqSpace f) m.cc && (m.core c).memReady (reqSpace f) (reqOff f) m.cc &&
  (if f.op = 1 then m.canAnswer c (dataChan f) ((readLen f + 31) / 32) f else m.canAnswer c 1 1 f)

/-- Whether a request that waits at the controller can be served: it is ready, its context has the tokens of its granules, and no earlier request of the same
sender on the same channel waits (R186). -/
def Mach.ubCan (m : Mach) (c : Nat) (before : List (Flit × List Flit)) (x : Flit × List Flit) : Bool :=
  m.reqReady c x.1 && m.hasTok (ubKey c x.1.cid.toNat) (reqGranules x.1 x.2) &&
  !(before.any fun y => y.1.src == x.1.src && y.1.chan == x.1.chan && y.1.attach == x.1.attach)

/-- The place of the request that the controller serves next. -/
def Mach.ubPick (m : Mach) (c : Nat) : Option Nat :=
  let w := (m.core c).ubWait
  let able := w.zipIdx.filter fun x => m.ubCan c (w.take x.2) x.1
  match m.ubTurn c (able.map fun x => x.1.1.cid.toNat) with
  | some cid => (able.find? fun x => x.1.1.cid.toNat == cid).map (·.2)
  | none => none

/-- The controller serves what waits there, as far as it can: n requests at most. -/
def Mach.ubRun (m : Mach) (c : Nat) : Nat → Mach
  | 0 => m
  | n + 1 => match m.ubPick c with
    | none => m
    | some i =>
      match (m.core c).ubWait[i]? with
      | none => m
      | some x =>
        let g := reqGranules x.1 x.2
        let m := (m.takeTok (ubKey c x.1.cid.toNat) g).ubServed c x.1.cid.toNat g
        let m := m.onCore c fun k => { k with ubWait := k.ubWait.eraseIdx i }
        (if x.1.op = 1 then m.doRead c x.1 else m.doWrite c x.1 x.2).ubRun c n

/-- A context's request for the under-bank reaches its controller (R268). -/
def Mach.toController (m : Mach) (c ch : Nat) (f : Flit) (fs : List Flit) : Mach :=
  let m := m.onCore c fun k => { k.loDrop ch with ubWait := (k.loDrop ch).ubWait ++ [(f, fs)] }
  m.ubRun c (m.core c).ubWait.length

/-- MESH_WRITE (R181): the bytes are written, then the WRITE is acknowledged; a context's WRITE to the under-bank passes its controller. A write to the scratchpad waits at
the output while RSP has no room. -/
def meshWriteAt (c ch : Nat) (m : Mach) : Mach :=
  match (m.core c).loMsg ch with
  | none => m
  | some (f, fs) =>
    let k := m.core c
    let space := reqSpace f
    let off := reqOff f
    let n := writeLen fs
    let csr := space = 0xF && f.fw && off + n ≤ 0x1000
    let bad := !csr && !k.validOff space off n
    m.when (ch < 6 && f.op == 0 && (space == 1 && !f.fw && !bad || k.canServe space m.cc && k.memReady space off m.cc && m.canAnswer c 1 1 f)) fun m =>
      if space == 1 && !f.fw && !bad then m.toController c ch f fs
      else
        let m := m.onCore c fun k => k.loDrop ch
        if bad then (m.badRequest c).finish c f true
        else if csr then (m.csrBytes c off ((msgPayload fs).take n)).finish c f false
        else m.doWrite c f fs

/-- MESH_READ (R181): the bytes are read and sent back; a context's READ of the under-bank passes its controller. -/
def meshReadAt (c : Nat) (cells : List CellErr) (m : Mach) : Mach :=
  let m := m.cellErrs c cells
  match (m.core c).loMsg 0 with
  | none => m
  | some (f, fs) =>
    let k := m.core c
    let space := reqSpace f
    let off := reqOff f
    let n := readLen f
    let csr := space = 0xF && f.fw && off + n ≤ 0x1000
    let bad := n = 0 || 256 < n || !(csr || k.validOff space off n)
    let ub := space == 1 && !f.fw && !bad
    m.when (f.op == 1 && (ub || (k.canServe space m.cc && (if bad then m.canAnswer c 1 1 f else m.reqReady c f)))) fun m =>
      if ub then m.toController c 0 f fs
      else
        let m := m.onCore c fun k => k.loDrop 0
        if bad then (m.badRequest c).answer c 1 [errAnswer c f m.cc]
        else if csr then (m.onCore c fun k => k.pageRead off n m.cc).answer c (dataChan f) (m.pageFlits c f off n)
        else m.doRead c f

/-! ## Data at its requester (R152, R163, R181) -/

/-- The wafer address of the first poisoned codeword or word that a flit's data touches, of a request for an address. -/
def badWa (wa : Nat) (f : Flit) : Nat := waOf (waSpace wa) (waCore wa) (f.bad.headD 0)

/-- Which words of a line the data of a fill marks as poisoned. -/
def fillPoison (tag : Nat) (fs : List Flit) : BitVec 16 :=
  let off := waOff (tag * 128)
  let n := if waSpace (tag * 128) = 0 then 8 else 32
  let hit (i : Nat) : Bool := fs.any fun f => f.bad.any fun b => b < off + 8 * i + 8 && off + 8 * i < b + n
  BitVec.ofNat 16 (((List.range 16).filter hit).map fun i => 2 ^ i).sum

/-- DATA for a load, with its read ID free again. -/
def Mach.dataLoad (m : Mach) (c s rid : Nat) (f : Flit) : Mach :=
  match ((m.core c).slot s).run.accs.find? fun a => a.rid == some rid with
  | none => m
  | some a =>
    let m := m.onSlot c s fun v => dropAcc v fun a => a.rid == some rid
    if f.err then m.deadBall c s a.pc a.wa.toNat
    else if !f.bad.isEmpty then m.poisonedLoad c s a.rd (badWa a.wa.toNat f) a.pc
    else m.onSlot c s fun v => deliver v a.rd (BitVec.ofNat 64 f.pay.toNat) m.cc

/-- DATA for a cache fill: the line is complete, or, on an error, the slots that waited for it take the fault. -/
def Mach.dataFill (m : Mach) (c s rid : Nat) (f : Flit) (fs : List Flit) : Mach :=
  match (m.core c).fills.find? fun x => x.rid == some rid && x.slot == s with
  | none => m
  | some x =>
    if f.err then
      let waits (v : Slot) : Bool := v.run.accs.any fun a => a.line == some x.tag
      let hit := [0, 1, 2, 3].filter fun i => waits ((m.core c).slot i)
      let m := m.onCore c fun k => { k with fills := k.fills.filter fun y => y.tag != x.tag }
      hit.foldl (fun m i =>
        let pc := (((m.core c).slot i).run.accs.find? fun a => a.line == some x.tag).map (·.pc)
        let m := m.onSlot c i fun v => { v with run := { v.run with accs := v.run.accs.filter fun a => a.line != some x.tag } }
        m.deadBall c i pc (x.tag * 128)) m
    else
      let full : Fill := { x with data := BitVec.ofNat 1024 (ofBytes (msgPayload fs)), got := 4, issued := m.cc,
                                  poison := fillPoison x.tag fs }
      m.onCore c fun k => { k with fills := k.fills.map fun y => if y.tag == x.tag then full else y }

/-- DATA for a mover READ: an error ends the descriptor with a dead-ball fault, a poisoned part with LOST_CORE (R168). -/
def Mach.dataMover (m : Mach) (c s serial rid : Nat) (f : Flit) (fs : List Flit) : Mach :=
  let wa := f.wa.toNat
  if f.err then m.descBall c s serial wa
  else match fs.find? fun x => !x.bad.isEmpty with
    | some x => (m.onCore c fun k => k.endDesc s serial m.cc).poisonFault c s (badWa wa x)
        ((((m.core c).slot s).run.descs.find? fun d => d.serial == serial).map (·.pc))
    | none => m.mvLand c s serial rid (msgPayload fs)

/-- Whether DATA of a mover READ can be written now: its destination's tier is ready. -/
def Mach.dataReady (m : Mach) (c s serial rid : Nat) (f : Flit) : Bool :=
  match ((m.core c).slot s).run.descs.find? fun d => d.serial == serial with
  | none => true
  | some d => (match d.reads.find? fun r => r.rid == rid with
    | some r => f.err || (match m.readDst c s d r (min 32 r.len) with
      | .mem space off => (m.core c).memReady space off m.cc
      | _ => true)
    | none => true)

/-- Whether a DATA message of n bytes is a part of a longer READ, whose other parts follow (R299). -/
def Mach.partOfRead (m : Mach) (c s serial rid n : Nat) : Bool :=
  match ((m.core c).slot s).run.descs.find? fun d => d.serial == serial with
  | some d => (match d.reads.find? fun r => r.rid == rid with
    | some r => n < r.len
    | none => false)
  | none => false

/-- MESH_DATA (R181): DATA reaches its requester, or the attachment that asked for it. -/
def meshDataAt (c ch : Nat) (m : Mach) : Mach :=
  match [ch, ch + 8].find? fun key => match (m.core c).loMsg key with
    | some (f, _) => f.op == 4 && (ch == 1 || ch == 4) && f.why != Why.turn
    | none => false with
  | none => m
  | some key =>
    match (m.core c).loMsg key with
    | none => m
    | some (f, fs) =>
      let s := f.tag.toNat / 64
      let rid := f.tag.toNat % 64
      let free (m : Mach) : Mach := (m.onCore c fun k => k.loDrop key).onSlot c s fun v =>
        { v with run := { v.run with rids := v.run.rids.filter (· != rid) } }
      match f.why with
      | .store _ _ => (free m).dataLoad c s rid f
      | .mover s' serial => m.when (m.dataReady c s' serial rid f) fun m => (free m).dataMover c s serial rid f fs
      | .inbound id => (m.onCore c fun k => k.loDrop key).inAck id f.err (msgPayload fs)
      | .fabric s' serial => m.when (m.dataReady c s' serial rid f) fun m =>
          if f.err then (free m).mvUnreachable c s serial
          else if m.partOfRead c s serial rid (32 * fs.length) then
            (m.onCore c fun k => k.loDrop key).dataMover c s serial rid f fs
          else (free m).dataMover c s serial rid f fs
      | _ => (free m).dataFill c s rid f fs

/-! ## Messages into queues (R210 to R212, R215) -/

/-- The queue of a MSG message, none for an offset that space 0x2 does not have. -/
def msgQueue (f : Flit) : Option Nat := if reqSpace f = 2 && reqOff f < 8 then some (reqOff f) else none

/-- Whether a queue is, or is being put, in backstop state (R254): messages for it are appended. -/
def Core.inBackstop (k : Core) (q : Nat) : Bool :=
  match (k.slot (k.queue q).slot.toNat).plane with
  | some p => (k.queue q).valid && (match aget p.rings q with
    | some r => r.active || r.spilling
    | none => false)
  | none => false

/-- Whether a message has landed in a queue of the core in this cycle (R210). -/
def Core.landedNow (k : Core) (cc : Nat) : Bool :=
  k.queues.toList.any fun q => match q.msgs.getLast? with
    | some x => x.landed == cc
    | none => false

/-- Whether a queue takes a message in a cycle (R211). -/
def Core.accepts (k : Core) (q cc : Nat) : Bool :=
  (k.queue q).msgs.length < (k.queue q).thresh.toNat && (k.queue q).freed ≤ cc

/-- A message as a queue holds it. -/
def qMsgOf (fs : List Flit) (f : Flit) (cc : Nat) (now : BitVec 64) : QMsg :=
  { chunks := if f.token then [] else fs.map fun x => x.pay, token := f.token, landed := cc, src := f.src, time := now }

/-- A plane's activity record (R251). -/
def Core.noteActive (k : Core) (s : Nat) : Core :=
  k.onSlot s fun v => { v with plane := v.plane.map fun p => { p with active := true } }

/-- A logged or marked request has landed: the deadline of class 2 runs from here (R272). -/
def Mach.markLanding (m : Mach) (f : Flit) : Mach :=
  if f.marked then m.onCtx f.cid.toNat fun x =>
    if x.dead.dclass = 2 then { x with requests := x.requests ++ [m.now] } else x
  else m

/-- The message at the head of a local output lands in a queue (R210). -/
def Mach.land (m : Mach) (c ch q : Nat) (f : Flit) (fs : List Flit) : Mach :=
  ((m.onCore c fun k =>
    let k := (k.loDrop ch).onQueue q fun x => { x with msgs := x.msgs ++ [qMsgOf fs f m.cc m.now] }
    k.noteActive (k.queue q).slot.toNat).markLanding f).finish c f false

/-- Whether the head message of a local output can leave: its acknowledgement has room and tokens, and nothing has landed in this cycle. -/
def Mach.landRoom (m : Mach) (c : Nat) (f : Flit) : Bool :=
  m.canAnswer c 1 1 f && !(m.core c).landedNow m.cc && (m.core c).clocksRun m.cc

/-- MESH_MSG (R210, R211): the message lands, or is held from this cycle on. -/
def meshMsgAt (c ch : Nat) (m : Mach) : Mach :=
  match (m.core c).loMsg ch with
  | none => m
  | some (f, fs) =>
    m.when ((ch == 2 || ch == 3) && f.op == 2 && (aget (m.core c).router.heldSince ch).isNone && m.landRoom c f) fun m =>
      match msgQueue f with
      | none => ((m.onCore c fun k => k.loDrop ch).badRequest c).finish c f true
      | some q =>
        if (m.core c).inBackstop q then m
        else if (m.core c).accepts q m.cc then m.land c ch q f fs
        else m.onCore c fun k => { k with router := { k.router with heldSince := aset k.router.heldSince ch m.cc } }

/-- HELD_MESSAGE_LAND (R211). -/
def heldLandAt (c ch : Nat) (m : Mach) : Mach :=
  match (m.core c).loMsg ch with
  | none => m
  | some (f, fs) =>
    match msgQueue f, aget (m.core c).router.heldSince ch with
    | some q, some _ =>
      m.when (ch < 16 && f.op == 2 && m.landRoom c f && !(m.core c).inBackstop q && (m.core c).accepts q m.cc) fun m =>
        m.land c ch q f fs
    | _, _ => m

/-- The context of a queue: of the slot it is assigned to. -/
def Core.queueCid (k : Core) (q : Nat) : Nat := (k.slot (k.queue q).slot.toNat).ctl.cid.toNat

/-- QUEUE_STALL (R212): after 65,536 cc, once per held message. -/
def queueStallAt (c ch : Nat) (m : Mach) : Mach :=
  let k := m.core c
  match (k.loMsg ch).bind (fun x => msgQueue x.1), aget k.router.heldSince ch with
  | some q, some t =>
    m.when (ch < 16 && t + 65536 ≤ m.cc && (aget k.router.heldSince (ch + 16)).isNone) fun m =>
      let cid := k.queueCid q
      let m := m.onCore c fun k => { k with router := { k.router with heldSince := aset k.router.heldSince (ch + 16) q },
                                            holdDue := k.holdDue.filter (· != q) ++ [q] }
      m.raiseOwner cid (m.event 3 cid (m.logical c) (k.queue q).slot.toNat q 0)
  | _, _ => m

/-- HOLDCAP_HALT (R275): of a context with HOLDCAP, after the event, whether or not the message still waits. -/
def holdcapHaltAt (c q : Nat) (m : Mach) : Mach :=
  let k := m.core c
  let cid := k.queueCid q
  m.when (k.holdDue.contains q && (match m.ctx cid with
      | some x => x.dead.holdcap
      | none => false)) fun m =>
    let m := m.forceHaltAt c (k.queue q).slot.toNat 7
    let m := m.onCore c fun k =>
      let k := { k with holdDue := k.holdDue.filter (· != q) }.onQueue q fun x => { x with msgs := [] }
      [2, 3].foldl (fun k ch => match (k.loMsg ch).bind (fun x => msgQueue x.1) with
        | some q' => if q' = q then k.loDrop ch else k
        | none => k) k
    m.onCtx cid fun x => { x with prog := { x.prog with holdHalts := x.prog.holdHalts + 1 } }

/-! ## Signals (R218, R224 to R226) -/

/-- The identity of a SIGNAL (R224), with the time given. -/
def sigIdent (f : Flit) (now : BitVec 64) : LedgerRec :=
  let p := f.pay.toNat
  { sseq := BitVec.ofNat 16 (fld p 16 16), origin := BitVec.ofNat 17 (fld p 32 17), slot := BitVec.ofNat 2 (fld p 49 2),
    time := now }

/-- Whether two ledger entries name one signal. -/
def sameSignal (a b : LedgerRec) : Bool := a.sseq == b.sseq && a.origin == b.origin && a.slot == b.slot

/-- A ledger with one more entry, 64 at most; the time of the entry that leaves becomes FLOOR (R225). -/
def Huddle.enter (h : Huddle) (r : LedgerRec) : Huddle :=
  if h.ledger.length < 64 then { h with ledger := h.ledger ++ [r] }
  else { h with ledger := h.ledger.drop 1 ++ [r], floor := match h.ledger with
    | x :: _ => x.time
    | [] => h.floor }

/-- A remote signal at its huddle (R225, R226). -/
def Core.remoteSig (k : Core) (h : Nat) (f : Flit) (cc : Nat) (now : BitVec 64) : Core :=
  let p := f.pay.toNat
  let amount := fld p 0 16
  let r := sigIdent f now
  let hud := k.huddle h
  if amount = 0 then k
  else if hud.ledger.any (sameSignal r) then { k with hudDup := k.hudDup + 1 }
  else if bitOf p 51 && hud.floor != 0 && fld p 64 64 ≤ hud.floor.toNat then
    { k.onHuddle h (fun x => { x with unsure := true, unsureAt := some cc }) with hudUnsure := k.hudUnsure + 1 }
  else (k.onHuddle h fun x => x.enter r).signal h amount cc false

/-- MESH_SIGNAL (R225); an offset that space 0x3 does not have is answered with ERR (R147, R215). -/
def meshSignalAt (c : Nat) (m : Mach) : Mach :=
  match (m.core c).loMsg 5 with
  | none => m
  | some (f, _) =>
    m.when (f.op == 3 && (m.core c).clocksRun m.cc && m.canAnswer c 1 1 f) fun m =>
      let m := m.onCore c fun k => k.loDrop 5
      if reqSpace f = 3 && reqOff f < 32 then m.onCore c fun k => k.remoteSig (reqOff f) f m.cc m.now
      else (m.badRequest c).answer c 1 [ackFlit c f true m.cc]

/-- MESH_NOTE (R179): firmware takes its NOTE; what it carries is internal to firmware. -/
def meshNoteAt (c : Nat) (m : Mach) : Mach :=
  match (m.core c).loMsg 5 with
  | some (f, _) => m.when (f.op == 6) fun m => m.onCore c fun k => k.loDrop 5
  | none => m

/-- HUDDLE_REPEAT_RELEASE (R219). -/
def repeatReleaseAt (c h : Nat) (m : Mach) : Mach :=
  let hud := (m.core c).huddle h
  m.when (hud.met && hud.mode == 0 && hud.releasedAt != some m.cc) fun m =>
    m.onCore c fun k => k.hudInput h m.cc id

/-- HUD_WAIT_TIMEOUT (R227): the limit of a blocked HUD.WAIT has expired; it issues without passing. -/
def hudTimeoutAt (c s : Nat) (m : Mach) : Mach :=
  let v := (m.core c).slot s
  let h := match v.bundle with
    | some b => sImm (bS b) % 32
    | none => 0
  m.when (v.ctl.st == .running && v.ali.hlimit != 0 && !v.run.tmo && (match v.run.hwSince with
      | some t => t + v.ali.hlimit.toNat ≤ m.now.toNat
      | none => false)) fun m =>
    m.onSlot c s fun v =>
      let v := v.note 4 m.cc v.ali.hstat.toNat (h + 32)
      { v with ali := { v.ali with hstat := BitVec.ofNat 6 (h + 32) }, run := { v.run with tmo := true } }

def execMeshWrite (c : CoreIx) (ch : ChanIx) (s : State) : Host.Outcome State Fault Refusal := upd (meshWriteAt c ch) s
def execMeshRead (c : CoreRead) (s : State) : Host.Outcome State Fault Refusal := upd (meshReadAt c.core c.cells) s
def execMeshMsg (c : CoreIx) (ch : ChanIx) (s : State) : Host.Outcome State Fault Refusal := upd (meshMsgAt c ch) s
def execMeshSignal (c : CoreIx) (s : State) : Host.Outcome State Fault Refusal := upd (meshSignalAt c) s
def execMeshData (c : CoreIx) (ch : ChanIx) (s : State) : Host.Outcome State Fault Refusal := upd (meshDataAt c ch) s
def execMeshAck (c : CoreIx) (s : State) : Host.Outcome State Fault Refusal := upd (meshAckAt c) s
def execMeshNote (c : CoreIx) (s : State) : Host.Outcome State Fault Refusal := upd (meshNoteAt c) s
def execHuddleRepeatRelease (c : CoreIx) (h : HudIx) (s : State) : Host.Outcome State Fault Refusal :=
  upd (repeatReleaseAt c h) s
def execHudWaitTimeout (c : CoreIx) (sl : SlotIx) (s : State) : Host.Outcome State Fault Refusal := upd (hudTimeoutAt c sl) s
def execHeldMessageLand (c : CoreIx) (ch : ChanIx) (s : State) : Host.Outcome State Fault Refusal := upd (heldLandAt c ch) s
def execQueueStall (c : CoreIx) (ch : ChanIx) (s : State) : Host.Outcome State Fault Refusal := upd (queueStallAt c ch) s
def execHoldcapHalt (c : CoreIx) (q : QueueIx) (s : State) : Host.Outcome State Fault Refusal := upd (holdcapHaltAt c q) s

end Sys2Proof.Machine
end

