-- ==== Sys2Proof/Machine/Flow.lean ====
section
/-! DEFINITION. Flow mode beside the firing of nodes: STEER_FIRE, the detector (DETECTOR_WINDOW, PROBE_RETURN, TRACE_RETURN), the
backstop (SPILL_ORDER, SPILL, APPEND, REFILL) and DEPTH_SAMPLE (R247 to R259). -/

namespace Sys2Proof.Machine

open Sys2Proof

def Core.plane (k : Core) (s : Nat) : Option Plane := (k.slot s).plane

def Core.onPlane (k : Core) (s : Nat) (f : Plane → Plane) : Core := k.onSlot s fun v => { v with plane := v.plane.map f }

def Mach.onPlane (m : Mach) (c s : Nat) (f : Plane → Plane) : Mach := m.onCore c fun k => k.onPlane s f

/-! ## Steering units (R247 to R250) -/

/-- Whether a message is a true condition (R248). -/
def isTrue (x : QMsg) : Bool :=
  match x.chunks with
  | ch :: _ => ch.toNat % 2 == 1
  | [] => false

/-- Whether a steering unit of a slot's plane can pop a queue: assigned to the slot and bound to the steering port (R208, R209). -/
def Core.steerQueue (k : Core) (s q : Nat) : Bool := popOk k s q 5 && (k.queue q).port == 5

/-- What a steering entry of a slot's plane does with the messages at hand: the queues it pops and, if it sends, the queue whose message goes and
the port. None while a queue that it needs is empty, or is not one that it can pop. -/
def Core.steerPlan (k : Core) (s : Nat) (e : Steer) (cc : Nat) : Option (List Nat × Option (Nat × Nat)) :=
  let qc := e.qc.toNat
  let qa := e.qa.toNat
  let qb := e.qb.toNat
  let has (q : Nat) : Bool := k.steerQueue s q && k.available q cc != 0
  if !has qc then none
  else
    let t := isTrue (msgAt k qc 0)
    match e.kind.toNat with
    | 1 => if has qa then some ([qc, qa], some (qa, if t then e.ot.toNat else e.off.toNat)) else none
    | 2 =>
      let q := if t then qa else qb
      if has q then some ([qc, q], some (q, e.ot.toNat)) else none
    | 3 => if has qa then some ([qc, qa], if t then some (qa, e.ot.toNat) else none) else none
    | _ => none

/-- Send port o of a slot. -/
def Core.sendPort (k : Core) (s o : Nat) : Nat := (vget (k.slot s).ali.sp (o % 8)).toNat

/-- Flits of the steering units' messages that have fired and are still to enter a channel of the router. -/
def Core.steerFlits (k : Core) (ch : Nat) : Nat :=
  ((List.range 4).map fun s => match k.plane s with
    | some p => (p.steerOut.map fun e => match sendTarget k (k.slot s).ctl.cid.toNat e.2.1 with
        | some t => if t.1 = ch then max 1 e.2.2.length else 0
        | none => 0).sum
    | none => 0).sum

/-- Whether a send of n chunks through a port of a slot has room, behind pre flits and what steering units have fired (R80, R249). -/
def Mach.portRoom (m : Mach) (c s o n pre : Nat) : Bool :=
  let k := m.core c
  let cid := (k.slot s).ctl.cid.toNat
  let out := match sendTarget k cid (k.sendPort s o) with
    | some t => k.steerFlits t.1
    | none => 0
  m.canSend c cid (k.sendPort s o) (max 1 n) (pre + out)

/-- The queues that the popped messages leave, a full one freed for a held message (R211). -/
def Core.popQueues (k : Core) (qs : List Nat) (cc : Nat) : Core := dropPops k cc qs

/-- STEER_FIRE (R249, R250): the message that a unit sends enters the router at the end of the cycle, after what a node has sent. -/
def steerFireAt (c s u : Nat) (m : Mach) : Mach :=
  let k := m.core c
  match k.plane s with
  | none => m
  | some p =>
    match k.steerPlan s (lget p.steer u) m.cc with
    | none => m
    | some (pops, out) =>
      let room := match out with
        | some (q, o) => m.portRoom c s o (msgAt k q 0).chunks.length 0
        | none => true
      m.when (room && (k.slot s).ctl.st == .running && aget p.steerAt u != some m.cc && (aget p.steerOut u).isNone && k.clocksRun m.cc) fun m =>
        m.onCore c fun k => (k.popQueues pops m.cc).onPlane s fun p =>
          { p with active := true, steerFires := inc64 p.steerFires, steerAt := aset p.steerAt u m.cc,
                   steerOut := match out with
                     | some x => aset p.steerOut u (k.sendPort s x.2, (msgAt k x.1 0).chunks)
                     | none => p.steerOut }

/-- The message of a steering unit enters the router; one that the node's sends have left no room for waits (R250). -/
def Mach.steerSend (m : Mach) (c s u : Nat) : Mach :=
  match ((m.core c).plane s).bind fun p => aget p.steerOut u with
  | none => m
  | some (v, chunks) =>
    m.when (m.canSend c ((m.core c).slot s).ctl.cid.toNat v (max 1 chunks.length) 0) fun m =>
      (m.send c s ((m.core c).slot s).ctl.pc.toNat v chunks).onPlane c s fun p => { p with steerOut := adel p.steerOut u }

/-- The messages of a core's steering units at the end of a cycle, in unit order (R250). -/
def Mach.steerEnd (m : Mach) (c : Nat) : Mach :=
  if (m.core c).slots.toList.all fun v => v.plane.isNone then m
  else [0, 1, 2, 3].foldl (fun m s => [0, 1, 2, 3].foldl (fun m u => m.steerSend c s u) m) m

/-! ## The regions of a context -/

/-- The planes of a region: core and slot storage, by logical core index. -/
def Mach.regionPlanes (m : Mach) (cid g : Nat) : List (Nat × Nat) :=
  let all := m.cores.map fun e => ((List.range 4).filter fun s =>
    match (e.2.slot s).plane with
    | some p => p.region == g && (e.2.slot s).ctl.cid.toNat == cid && (e.2.slot s).ctl.st != .empty
    | none => false).map fun s => (e.1, s)
  all.flatten.mergeSort fun a b => m.logical a.1 ≤ m.logical b.1

/-- The context of a slot. -/
def Mach.slotCid (m : Mach) (c s : Nat) : Nat := ((m.core c).slot s).ctl.cid.toNat

/-- Whether a plane stands at its region's home core (R252). -/
def Mach.isHome (m : Mach) (c : Nat) (p : Plane) : Bool := m.logical c == coreAt p.rect.1 p.rect.2.1

/-- The cores of a rectangle in the order of a circuit (R252). -/
def circuit (r : Nat × Nat × Nat × Nat) : List Nat :=
  let xs := (List.range (r.2.2.1 + 1 - r.1)).map (· + r.1)
  let ys := (List.range (r.2.2.2 + 1 - r.2.1)).map (· + r.2.1)
  ((ys.zipIdx.map fun y => (if y.2 % 2 = 0 then xs else xs.reverse).map fun x => coreAt x y.1)).flatten

/-- Uncontended latency H + 3S between the cores that run two logical indices. -/
def Mach.wayTime (m : Mach) (a b : Nat) : Nat := hops (m.runs a) (m.runs b) + 3 * seams (m.runs a) (m.runs b)

/-- Time of the hops between consecutive cores. -/
def Mach.walkTime (m : Mach) : List Nat → Nat
  | a :: b :: r => m.wayTime a b + m.walkTime (b :: r)
  | _ => 0

/-- Cycles of one circuit (R252). -/
def Mach.circuitTime (m : Mach) (p : Plane) : Nat :=
  let l := circuit p.rect
  l.length + m.walkTime l + 2 + m.wayTime (l.getLastD 0) (l.headD 0)

/-! ## Stuck queues (R251, R253) -/

/-- The send port of a firing node that has no room (R253): the lowest-numbered one of the template. The S part's message follows the V part's (R92). -/
def Mach.nodePort (m : Mach) (c s b : Nat) : Option Nat :=
  let k := m.core c
  let v := k.slot s
  let ws := bS b
  let ch (o : Nat) : Option Nat := (sendTarget k v.ctl.cid.toNat (k.sendPort s o)).map (·.1)
  let vs := if vLive v.arch b then (vSends (bV b)).toList.map fun o => o % 8 else []
  let ss := if sLive v.arch b && (sOp ws == 0x1B || sOp ws == 0x1C) then [sImm ws % 8] else []
  let vb := vs.filter fun o => !m.portRoom c s o 4 0
  let sb := ss.filter fun o => !m.portRoom c s o 1 (if vs.any fun x => ch x == ch o then 4 else 0)
  (List.range 8).find? fun o => (vb ++ sb).contains o

/-- Whether a node's template pops a queue. -/
def nodePops (v : Slot) (b q : Nat) : Bool :=
  let p := popsOf v.arch b
  p.1.contains q || p.2.1.contains q || p.2.2.contains q

/-- Whether a steering entry takes messages from a queue. -/
def steerTakes (e : Steer) (q : Nat) : Bool :=
  e.kind != 0 && (e.qc.toNat == q || e.qa.toNat == q || (e.kind == 2 && e.qb.toNat == q))

/-- The send port on which the consumer of a queue is blocked (R251, R253). -/
def Mach.blockedPort (m : Mach) (c s q : Nat) : Option Nat :=
  let k := m.core c
  match k.plane s with
  | none => none
  | some p =>
    if (k.queue q).port = 5 then
      (p.steer.find? fun e => steerTakes e q).bind fun e => (k.steerPlan s e m.cc).bind fun x => x.2.bind fun o =>
        if m.portRoom c s o.2 (msgAt k o.1 0).chunks.length 0 then none else some o.2
    else (p.nodes.filter fun n => nodePops (k.slot s) n.toNat q).findSome? fun n => m.nodePort c s n.toNat

/-- A stuck queue (R251). -/
def Mach.isStuck (m : Mach) (c q : Nat) : Bool :=
  let k := m.core c
  let b := k.queue q
  b.valid && (k.plane b.slot.toNat).isSome && !k.inBackstop q && b.thresh.toNat ≤ b.msgs.length &&
  (m.blockedPort c b.slot.toNat q).isSome

/-- The stuck queues of a region, by logical core index and queue number. -/
def Mach.stuckQueues (m : Mach) (cid g : Nat) : List (Nat × Nat) :=
  ((m.regionPlanes cid g).map fun x =>
    ((List.range 8).filter fun q => ((m.core x.1).queue q).slot.toNat == x.2 && m.isStuck x.1 q).map fun q => (x.1, q)).flatten

/-- The queue whose message is held at the head of a core's local output: of MSG, else of MCAST. -/
def Core.heldQueue (k : Core) : Option Nat :=
  match (k.loMsg 2).bind fun x => msgQueue x.1 with
  | some q => some q
  | none => (k.loMsg 3).bind fun x => msgQueue x.1

/-- The core that a send port targets; of several members, the first at which a message is held. -/
def Mach.portCore (m : Mach) (c s o : Nat) : Option Nat :=
  let k := m.core c
  match sendTarget k (k.slot s).ctl.cid.toNat (k.sendPort s o) with
  | none => none
  | some (_, t, mc, core) =>
    if mc then (((mcRows t).map fun y => (mcCols t).map fun x => m.runs (coreAt x y)).flatten).find? fun d =>
      (m.core d).heldQueue.isSome
    else some (m.runs core)

/-- Chunks that a queue holds. -/
def Core.chunks (k : Core) (q : Nat) : Nat := ((k.queue q).msgs.map fun x => x.chunks.length).sum

/-- The queue of a cycle that is spilled (R253): fewest chunks, then logical core index, then queue number. -/
def Mach.chooseSpill (m : Mach) (l : List (Nat × Nat)) : Option (Nat × Nat) :=
  let key (x : Nat × Nat) : Nat × Nat × Nat := ((m.core x.1).chunks x.2, m.logical x.1, x.2)
  let less (a b : Nat × Nat × Nat) : Bool := a.1 < b.1 || (a.1 == b.1 && (a.2.1 < b.2.1 || (a.2.1 == b.2.1 && a.2.2 < b.2.2)))
  l.foldl (fun b x => match b with
    | none => some x
    | some y => if less (key x) (key y) then some x else some y) none

/-! ## The detector (R252, R253) -/

/-- The detector of a plane goes to a phase, with a circuit or trace that begins now. -/
def Mach.toPhase (m : Mach) (c s : Nat) (ph : DetPhase) (pr : Probe := {}) : Mach :=
  m.onPlane c s fun p => { p with phase := ph, since := m.cc, probe := { pr with next := m.cc } }

/-- A visit of a circuit (R252): the core reports its quiet bit, and in the second circuit its stuck queues, and starts a new activity record. -/
def Mach.probeVisit (m : Mach) (c s : Nat) (p : Plane) : Mach :=
  let cid := m.slotCid c s
  let l := circuit p.rect
  let i := p.probe.visited
  let d := m.runs (l.getD i 0)
  let here := (m.regionPlanes cid p.region).filter fun x => x.1 == d
  let quiet := !here.isEmpty && here.all fun x => ((m.core x.1).slot x.2).ctl.st == .running &&
    (match (m.core x.1).plane x.2 with
     | some p => !p.active
     | none => false)
  let stuck := if p.phase = .probe2 then
      (here.map fun x => ((List.range 8).filter fun q => ((m.core d).queue q).slot.toNat == x.2 && m.isStuck d q).map fun q => (d, q)).flatten
    else []
  let m := here.foldl (fun m x => m.onPlane x.1 x.2 fun p => { p with active := false }) m
  let e := l.getD (i + 1) (l.headD 0)
  (m.sendNote d (m.runs e) cid).onPlane c s fun p =>
    { p with probe := { p.probe with visited := i + 1, next := p.probe.next + 1 + m.wayTime (l.getD i 0) e, quiet := p.probe.quiet && quiet,
                                     stuck := p.probe.stuck ++ stuck } }

/-- A step of the trace (R253): at a queue that it has recorded, the queues from that one on form the cycle; at one that is not stuck, one outside the region or a 65th
one it is abandoned; else it moves on to the queue whose message is held at the core that the blocked port targets. -/
def Mach.traceStep (m : Mach) (c s : Nat) (p : Plane) : Mach :=
  let cid := m.slotCid c s
  let pr := p.probe
  let set (pr : Probe) : Mach := m.onPlane c s fun p => { p with probe := pr }
  match pr.cur with
  | none => m
  | some (d, q?) =>
    match (match q? with
      | some q => some q
      | none => (m.core d).heldQueue) with
    | none => set { pr with cur := none }
    | some q =>
      let s' := ((m.core d).queue q).slot.toNat
      let inRegion : Bool := match (m.core d).plane s' with
        | some x => x.region == p.region && m.slotCid d s' == cid
        | none => false
      if pr.path.contains (d, q) then set { pr with cur := none, loop := pr.path.dropWhile fun x => x != (d, q) }
      else if !inRegion || !m.isStuck d q || 64 ≤ pr.path.length then set { pr with cur := none }
      else match (m.blockedPort d s' q).bind fun o => m.portCore d s' o with
        | none => set { pr with cur := none, path := pr.path ++ [(d, q)] }
        | some e => (m.sendNote d e cid).onPlane c s fun p =>
            { p with probe := { pr with cur := some (e, none), path := pr.path ++ [(d, q)], next := pr.next + 2 + hops d e + 3 * seams d e } }

/-- What a circuit or the trace of a region's detector does in the current cycle (R252, R253). -/
def Mach.detectorStep (m : Mach) (c s : Nat) : Mach :=
  match (m.core c).plane s with
  | none => m
  | some p =>
    if m.cc < p.probe.next then m
    else match p.phase with
      | .window => m
      | .trace => m.traceStep c s p
      | _ => if p.probe.visited < (circuit p.rect).length then m.probeVisit c s p else m

/-- The same at every plane of a core, at the start of a cycle. -/
def Mach.detectorStart (m : Mach) (c : Nat) : Mach :=
  if (m.core c).slots.toList.all fun v => v.plane.isNone then m else [0, 1, 2, 3].foldl (fun m s => m.detectorStep c s) m

/-- DETECTOR_WINDOW (R252): WINDOW cycles have passed; P1 leaves. -/
def detectorWindowAt (c s : Nat) (m : Mach) : Mach :=
  match (m.core c).plane s with
  | none => m
  | some p =>
    m.when (p.phase == .window && p.since + p.window ≤ m.cc && m.isHome c p && ((m.core c).slot s).ctl.st == .running) fun m =>
      (m.toPhase c s .probe1).detectorStep c s

/-- The first of the stuck queues: the lowest logical core index, then the lowest number (R253). -/
def Mach.firstStuck (m : Mach) (l : List (Nat × Nat)) : Option (Nat × Nat) :=
  let less (a b : Nat × Nat) : Bool := m.logical a.1 < m.logical b.1 || (a.1 == b.1 && a.2 < b.2)
  l.foldl (fun b x => match b with
    | none => some x
    | some y => if less x y then some x else some y) none

/-- PROBE_RETURN (R252): a circuit comes back after its time, or is lost and missed after WINDOW cycles. -/
def probeReturnAt (c s : Nat) (lost : Bool) (m : Mach) : Mach :=
  match (m.core c).plane s with
  | none => m
  | some p =>
    let due := if lost then p.window else min p.window (m.circuitTime p)
    m.when ((p.phase == .probe1 || p.phase == .probe2) && p.since + due ≤ m.cc) fun m =>
      if lost || p.window < m.circuitTime p || p.probe.visited < (circuit p.rect).length || !p.probe.quiet then m.toPhase c s .window
      else if p.phase = .probe1 then (m.toPhase c s .probe2).detectorStep c s
      else match m.firstStuck p.probe.stuck with
        | none => m.toPhase c s .window
        | some x => ((m.toPhase c s .trace { cur := some (x.1, some x.2) }).onPlane c s fun p =>
            { p with detection := p.detection + 1 }).detectorStep c s

/-- TRACE_RETURN (R253): a cycle sends a spill order to the core of the chosen queue; otherwise the procedure repeats. -/
def traceReturnAt (c s : Nat) (m : Mach) : Mach :=
  match (m.core c).plane s with
  | none => m
  | some p =>
    m.when (p.phase == .trace && p.probe.cur.isNone && p.probe.next ≤ m.cc) fun m =>
      let m := m.toPhase c s .window
      match m.chooseSpill p.probe.loop with
      | some x => (m.sendNote c x.1 (m.slotCid c s)).onPlane c s fun p =>
          { p with order := some { core := x.1, region := p.region, queue := x.2, detection := p.detection,
                                   at_ := m.cc + 2 + hops c x.1 + 3 * seams c x.1 } }
      | none => m

/-! ## The backstop (R254 to R256) -/

/-- Bytes of one ring of a plane. -/
def ringSize (p : Plane) : Nat := p.bsSize / 8

/-- Bytes of a message's record: a 32 B header and its chunks. -/
def recBytes (x : QMsg) : Nat := 32 * (1 + x.chunks.length)

/-- The under-bank offset of a ring's byte. -/
def ringOff (v : Slot) (p : Plane) (q at_ : Nat) : Nat := winReg v.ctl 1 + p.bsBase + q * ringSize p + at_ % max 1 (ringSize p)

/-- A record as its bytes (R255). -/
def recImage (r : RingRec) : Bytes :=
  toBytes 1 r.chunks.length ++ toBytes 1 (b2n r.token) ++ toBytes 2 r.rseq.toNat ++ toBytes 4 r.src ++ toBytes 8 r.time.toNat ++
    toBytes 16 0 ++ (r.chunks.map fun ch => toBytes 32 ch.toNat).flatten

/-- Write 32 B pieces into a ring, which wraps. -/
def Core.ringWrite (k : Core) (s : Nat) (p : Plane) (q : Nat) : Nat → Nat → Bytes → Core
  | 0, _, _ => k
  | n + 1, at_, b => (k.writeMem 1 (ringOff (k.slot s) p q at_) (b.take 32)).ringWrite s p q n (at_ + 32) (b.drop 32)

/-- A message goes to the tail of its ring. -/
def Core.ringPut (k : Core) (s q : Nat) (x : QMsg) : Core :=
  match k.plane s with
  | none => k
  | some p =>
    let r := agetD p.rings q {}
    let e : RingRec := { chunks := x.chunks, token := x.token, rseq := r.rseq, src := x.src, time := x.time }
    let n := recBytes x
    let k := k.ringWrite s p q (n / 32) r.tail (recImage e)
    let r' : BackRing := { r with recs := r.recs ++ [e], tail := (r.tail + n) % max 1 (ringSize p), occ := r.occ + n,
                                  rseq := r.rseq + 1, maxOcc := max r.maxOcc (r.occ + n) }
    k.onPlane s fun p => { p with rings := aset p.rings q r' }

/-- FLOW_DEADLOCK (R256): every plane of the region halts, and the event names region, core and queue. -/
def Mach.flowDeadlock (m : Mach) (c s q : Nat) : Mach :=
  match (m.core c).plane s with
  | none => m
  | some p =>
    let cid := m.slotCid c s
    let tail := (agetD p.rings q {}).tail
    let addr := if p.bsSize = 0 then 0 else waOf 1 (m.logical c) (ringOff ((m.core c).slot s) p q tail)
    let m := (m.regionPlanes cid p.region).foldl (fun m x => m.onSlot x.1 x.2 fun v => forceHalt v 5 addr) m
    let m := m.onCtx cid fun x => { x with firstCause := if x.firstCause = 0 then 5 else x.firstCause }
    m.raiseOwner cid (m.event 5 cid (m.logical c) s (p.region + q * 256) 0)

/-- A transfer joins those of the core; alone, it starts in the next cycle. -/
def Core.addXfer (k : Core) (x : Xfer) (cc : Nat) : Core :=
  { k with xfers := k.xfers ++ [if k.xfers.isEmpty then { x with started := cc + 1 } else x] }

/-- The planes, by core and slot, whose spill order for a queue of a core has had the time of its way (R253). -/
def Mach.orderHomes (m : Mach) (c q : Nat) : List (Nat × Nat) :=
  (m.cores.map fun e => ((List.range 4).filter fun s => match (e.2.slot s).plane with
    | some p => (match p.order with
      | some o => o.core == c && o.queue == q && o.at_ ≤ m.cc
      | none => false)
    | none => false).map fun s => (e.1, s)).flatten

/-- One more, saturating at 32 bits. -/
def sat32 (n : Nat) : Nat := min 0xFFFFFFFF (n + 1)

/-- The messages, oldest first, whose records fit into n bytes of a ring (R256). -/
def fitting : Nat → List QMsg → List QMsg
  | _, [] => []
  | n, x :: r => if recBytes x ≤ n then x :: fitting (n - recBytes x) r else []

/-- SPILL_ORDER (R253, R254, R256): the order reaches its core; a queue no longer stuck is left alone. The spill's transfer takes in the records that the ring has
space for. -/
def spillOrderAt (c q : Nat) (m : Mach) : Mach :=
  match m.orderHomes c q with
  | [] => m
  | h :: _ =>
    let m := m.onPlane h.1 h.2 fun p => { p with order := none }
    let s := ((m.core c).queue q).slot.toNat
    if !m.isStuck c q then m
    else match (m.core c).plane s with
      | none => m
      | some p =>
        let r := agetD p.rings q {}
        let n := ((fitting (ringSize p - r.occ) ((m.core c).queue q).msgs).map recBytes).sum
        if p.bsSize = 0 then m.flowDeadlock c s q
        else m.onCore c fun k =>
          (k.onPlane s fun p => { p with rings := aset p.rings q { r with spilling := true } }).addXfer
            { kind := 0, queue := q, slot := s, left := n / 32 } m.cc

/-- The running transfer of a core when it is a queue's own of a kind and its last granule has moved. -/
def Core.xferDone (k : Core) (kind q : Nat) : Option Xfer :=
  match k.xfers with
  | x :: _ => if x.kind = kind && x.queue = q && x.left = 0 then some x else none
  | [] => none

/-- SPILL (R254, R256): the transfer has ended; the queue is in backstop state with COUNT 0. Where the next record finds too little space, the region halts, with what has been
written in the ring and the queue as it was. -/
def spillAt (c q : Nat) (m : Mach) : Mach :=
  match (m.core c).xferDone 0 q, (m.core c).plane ((m.core c).queue q).slot.toNat with
  | some x, some p =>
    let msgs := ((m.core c).queue q).msgs
    let fit := fitting (ringSize p - (agetD p.rings q {}).occ) msgs
    let m := m.onCore c fun k => (fit.foldl (fun k y => k.ringPut x.slot q y) k).nextXfer m.cc
    let ends (on : Bool) (m : Mach) : Mach := m.onPlane c x.slot fun p =>
      { p with rings := aset p.rings q { agetD p.rings q {} with active := on, spilling := false } }
    if fit.length < msgs.length then (ends false m).flowDeadlock c x.slot q
    else ((ends true m).onCore c fun k => k.onQueue q fun b => { b with msgs := [] }).onPlane c x.slot fun p =>
      { p with spills := sat32 p.spills, active := true }
  | _, _ => m

/-- APPEND (R254): a message for a queue in backstop state is accepted at once, and written to the tail of the ring, also while its plane is halted; a ring
without room is a FLOW_DEADLOCK (R256), after which the message stays at the local output. -/
def appendAt (c ch : Nat) (m : Mach) : Mach :=
  match (m.core c).loMsg ch with
  | none => m
  | some (f, fs) =>
    match msgQueue f with
    | none => m
    | some q =>
      let k := m.core c
      let s := (k.queue q).slot.toNat
      match k.plane s with
      | none => m
      | some p =>
        let r := agetD p.rings q {}
        let x := qMsgOf fs f m.cc m.now
        m.when ((ch == 2 || ch == 3) && f.op == 2 && r.active && k.hasRoom 4 1 1 && k.clocksRun m.cc) fun m =>
          if ringSize p < r.occ + recBytes x then
            (if (m.regionPlanes (m.slotCid c s) p.region).all fun y => ((m.core y.1).slot y.2).ctl.st == .halted then m else m.flowDeadlock c s q)
          else ((m.onCore c fun k => ((k.loDrop ch).ringPut s q x).addXfer
            { kind := 1, queue := q, slot := s, left := recBytes x / 32 } m.cc).markLanding f).finish c f false

/-- A ring without its oldest record; with an empty ring and no transfer left the queue leaves backstop state. -/
def Core.ringTake (k : Core) (s q : Nat) : Core :=
  k.onPlane s fun p =>
    let r := agetD p.rings q {}
    match r.recs with
    | [] => p
    | e :: rest =>
      let more := k.xfers.any fun x => x.queue == q
      let r' : BackRing := { r with recs := rest, occ := r.occ - 32 * (1 + e.chunks.length),
                                    active := r.active && (!rest.isEmpty || more) }
      { p with active := true, rings := aset p.rings q r' }

/-- REFILL (R254): the transfer of the oldest record has ended and its message lands; or one can start. -/
def refillAt (c q : Nat) (m : Mach) : Mach :=
  let k := m.core c
  let s := (k.queue q).slot.toNat
  match k.plane s with
  | none => m
  | some p =>
    let r := agetD p.rings q {}
    match r.recs with
    | [] => m
    | e :: _ =>
      match k.xferDone 2 q with
      | some _ => m.onCore c fun k =>
          let y : QMsg := { chunks := e.chunks, token := e.token, landed := m.cc, src := e.src, time := e.time }
          ((k.nextXfer m.cc).onQueue q fun b => { b with msgs := b.msgs ++ [y] }).ringTake s q
      | none =>
        m.when (r.active && (k.queue q).msgs.length < (k.queue q).thresh.toNat &&
            !(k.xfers.any fun x => x.kind == 2 && x.queue == q)) fun m =>
          m.onCore c fun k => k.addXfer { kind := 2, queue := q, slot := s, left := 1 + e.chunks.length } m.cc

/-! ## Depth sampling (R259) -/

/-- The bin of a queue's count. -/
def depthBin (k : Core) (q : Nat) : Nat :=
  let b := k.queue q
  let n := b.msgs.length
  let th := b.thresh.toNat
  if th ≤ n || (k.ring q).active then 15
  else if n = 0 then 0
  else 1 + (n - 1) * 14 / max (th - 1) 1

/-- DEPTH_SAMPLE (R259). -/
def depthSampleAt (c s : Nat) (m : Mach) : Mach :=
  let k := m.core c
  match k.plane s with
  | none => m
  | some p =>
    m.when (p.speriod != 0 && p.lastSample + p.speriod ≤ m.cc && (k.slot s).ctl.st == .running) fun m =>
      let qs := (List.range 8).filter fun q => (k.queue q).valid && (k.queue q).slot.toNat == s
      m.onPlane c s fun p =>
        { p with lastSample := m.cc, samples := sat32 p.samples,
                 hist := qs.foldl (fun h q => aset h (q * 16 + depthBin k q) (sat32 (agetD h (q * 16 + depthBin k q) 0))) p.hist }

def execSteerFire (c : CoreIx) (sl : SlotIx) (u : Fin 4) (s : State) : Host.Outcome State Fault Refusal :=
  upd (steerFireAt c sl u) s
def execDetectorWindow (c : CoreIx) (sl : SlotIx) (s : State) : Host.Outcome State Fault Refusal :=
  upd (detectorWindowAt c sl) s
def execProbeReturn (c : CoreIx) (sl : SlotIx) (lost : Bool) (s : State) : Host.Outcome State Fault Refusal :=
  upd (probeReturnAt c sl lost) s
def execTraceReturn (c : CoreIx) (sl : SlotIx) (s : State) : Host.Outcome State Fault Refusal := upd (traceReturnAt c sl) s
def execSpillOrder (c : CoreIx) (q : QueueIx) (s : State) : Host.Outcome State Fault Refusal := upd (spillOrderAt c q) s
def execSpill (c : CoreIx) (q : QueueIx) (s : State) : Host.Outcome State Fault Refusal := upd (spillAt c q) s
def execAppend (c : CoreIx) (ch : ChanIx) (s : State) : Host.Outcome State Fault Refusal := upd (appendAt c ch) s
def execRefill (c : CoreIx) (q : QueueIx) (s : State) : Host.Outcome State Fault Refusal := upd (refillAt c q) s
def execDepthSample (c : CoreIx) (sl : SlotIx) (s : State) : Host.Outcome State Fault Refusal := upd (depthSampleAt c sl) s

end Sys2Proof.Machine
end

