-- ==== Sys2Proof/Machine/Link.lean ====
section
/-! DEFINITION. The frames of a light engine: what leaves it, credits, acknowledgements and lets, fouls and their answers
(R285 to R291, R305, R309, R314 to R316). -/

namespace Sys2Proof.Machine

open Sys2Proof

/-! ## Pools and counters (R288, R317) -/

/-- The pool of a channel and VC. -/
def poolOf (chan vc : Nat) : Nat := if chan < 4 then 2 * chan + vc else chan + 4

/-- Frames per pool. -/
def poolSize : List Nat := [256, 256, 512, 512, 512, 512, 2048, 2048, 64, 64]

/-- Ordinary channels: REQ, RSP, MSG and BULK (R285). -/
def ordinary (chan : Nat) : Bool := chan < 4

/-- One more in element i of a list. -/
def ladd (l : List Nat) (i n : Nat) : List Nat := l.set i (lget l i + n)

/-- Count in a port's record (R317). -/
def Mach.portCount (m : Mach) (e off : Nat) (n : Nat := 1) : Mach :=
  m.onPort (m.engPort e) fun p => { p with cnt := bump p.cnt off n }

/-! ## Sending (R285, R288, R289, R305) -/

/-- The key of a frame's channel and VC. -/
def frKey (f : Bytes) : Nat := frChan f * 2 + frVc f

/-- The first stream of messages in transit. -/
def transitSrc : Nat := 65536

/-- Whether a frame's message goes on, or may start: one message at a time on a channel and VC (R287), and none starts while the port's engine set changes (R313). -/
def Mach.msgGoes (m : Mach) (e : Nat) (x : TxFrame) : Bool :=
  if frHead x.f then (aget (m.eng e).opened (frKey x.f)).isNone && (m.port (m.engPort e)).pendingSet.isNone
  else aget (m.eng e).opened (frKey x.f) == some x.src

/-- Whether a frame may leave an engine now: ordinary and URGENT frames only on a port that carries traffic (R282, R307, R316). -/
def Mach.canTx (m : Mach) (e : Nat) (x : TxFrame) : Bool :=
  let g := m.eng e
  let ch := frChan x.f
  let p := m.engPort e
  let held := match aget g.holds ch with
    | some t => m.cc < t
    | none => false
  if ch = 6 then true
  else if ch = 5 then g.carries && !held && lget g.sent 9 < lget g.granted 9
  else (if ordinary ch then g.sends else g.carries) && !held && m.portUp p && x.ready ≤ m.cc &&
    lget g.sent (poolOf ch (frVc x.f)) < lget g.granted (poolOf ch (frVc x.f)) &&
    (!ordinary ch || (g.replay.length < 256 && g.again.isEmpty && m.msgGoes e x)) &&
    (x.src == 0 || transitSrc ≤ x.src || m.hasTok (egressKey p x.src) 1)

/-- A frame as it goes on the wire: its FSEQ, the acknowledgement of the reverse direction, and its CRC. -/
def stampFrame (g : LightEng) (fseq : Nat) (f : Bytes) : Bytes :=
  mkFrame (frChan f) (frVc f) fseq (frTag f) (frOp f) (frHead f) (frTail f) (frErr f)
    (if g.rxAny then some ((g.rxSeq - 1).toNat) else none) (frPay f)

/-! ## Codewords (R283, R284) -/

/-- The codeword period of now: 5,440 bits at 212.5 Gb/s take 25.6 ns (DESIGN CHOICE, log 93: the periods of every lane begin together, at cycle 0). -/
def Mach.cwPeriod (m : Mach) : Nat := m.cc * 25 / 768

/-- The lanes in use of an engine. -/
def LightEng.laneList (g : LightEng) : List Nat := (List.range 16).filter fun l => bitOf g.lanes.toNat l

/-- Frame slots that the codeword period under way has left: five in each lane's codeword. -/
def Mach.slotsLeft (m : Mach) (e : Nat) : Nat :=
  let g := m.eng e
  5 * g.laneList.length - (if g.cwAt = m.cwPeriod then g.cwUsed else 0)

/-- A frame takes the next frame slot. -/
def Mach.emit (m : Mach) (e : Nat) (f : Bytes) : Mach :=
  let now := m.cwPeriod
  m.onEng e fun g => { g with wire := f :: g.wire, cwAt := now, cwUsed := (if g.cwAt = now then g.cwUsed else 0) + 1 }

/-- The message bits of a codeword: five frame slots, then LANE, CWCNT and IDLE; the slots come first (DEDUCED, log 93). -/
def codeword (lane cwcnt : Nat) (slots : List Bytes) : BitVec 5140 :=
  let idle := ((List.range 5).map fun i => if slots.length ≤ i then 2 ^ i else 0).sum
  BitVec.ofNat 5140 (ofBytes (padTo slots.flatten 640) + (lane + 16 * (cwcnt % 256) + 4096 * idle) * 2 ^ 5120)

/-- The codewords of the period under way, one for each lane in use: the frames sent fill their slots lane by lane. -/
def LightEng.codewords (g : LightEng) : List (BitVec 5140) :=
  let frames := (g.wire.take g.cwUsed).reverse
  g.laneList.zipIdx.map fun l => codeword l.1 g.cwAt ((frames.drop (5 * l.2)).take 5)

/-! ## The choice of the next frame (R305) -/

/-- Buffers of a pool freed; their count is owed to the partner in a CREDIT frame. -/
def LightEng.free (g : LightEng) (pool n : Nat) : LightEng := { g with freed := ladd g.freed pool n }

/-- The CREDIT frame (R288, R291). -/
def creditPay (g : LightEng) : Bytes := (g.freed.map fun n => toBytes 2 n).flatten

/-- A frame of firmware put before every frame but those of LINK that wait already. -/
def putLink (q : List TxFrame) (x : TxFrame) : List TxFrame :=
  (q.takeWhile fun y => frChan y.f == 6) ++ x :: q.dropWhile fun y => frChan y.f == 6

/-- A LINK frame queued (R291). -/
def Mach.queueLink (m : Mach) (e op : Nat) (pay : Bytes) : Mach :=
  m.onEng e fun g => if g.st == .idle || g.st == .down then g
    else { g with queue := putLink g.queue { f := mkFrame 6 0 0 0 op true true false none pay } }

/-- A frame leaves an engine: numbered and kept for replay on ordinary channels; a slot, credits and tokens are taken, and a buffer that it held is free. -/
def Mach.tx (m : Mach) (e : Nat) (x : TxFrame) : Mach :=
  let ch := frChan x.f
  let m := if x.src = 0 || transitSrc ≤ x.src then m else m.takeTok (egressKey (m.engPort e) x.src) 1
  let m := if ch < 6 then m.portCount e (0x08 + 8 * ch) else m
  let g := m.eng e
  let f := stampFrame g (if ordinary ch then g.txSeq.toNat else 0) x.f
  let m := (m.emit e f).onEng e fun g =>
    { g with replay := if ordinary ch then g.replay ++ [f] else g.replay,
             txSeq := if ordinary ch then g.txSeq + 1 else g.txSeq,
             opened := if !ordinary ch then g.opened else if frTail f then adel g.opened (frKey f) else aset g.opened (frKey f) x.src,
             sent := if ch < 6 then ladd g.sent (poolOf ch (frVc x.f)) 1 else g.sent }
  match x.free with
  | some (e', pool) =>
    let m := m.onEng e' fun g => g.free pool 1
    m.queueLink e' 8 (creditPay (m.eng e'))
  | none => m

/-- The frames that are first of their stream on their channel and VC, with their places. -/
def LightEng.heads (g : LightEng) : List (TxFrame × Nat) :=
  g.queue.zipIdx.filter fun x => !((g.queue.take x.2).any fun y => y.src == x.1.src && frKey y.f == frKey x.1.f)

/-- The rate of a stream at a port: the transit share, or the rate of its job tag's bucket (R305). -/
def Mach.streamRate (m : Mach) (p src : Nat) : Nat :=
  if transitSrc ≤ src then (m.port p).share else match aget m.buckets (egressKey p src) with
    | some b => b.rate
    | none => 0

/-- What a stream counts as among those that share frame slots: its job tag, or the transit share of the port. -/
def slotKey (src : Nat) : Nat := min src transitSrc

/-- The frame that has had least for its rate, of those that can go: weighted round-robin between the transit share and the local buckets. -/
def Mach.wrr (m : Mach) (e : Nat) (l : List (TxFrame × Nat)) : Option (TxFrame × Nat) :=
  let had (x : TxFrame) : Nat := agetD (m.eng e).served (slotKey x.src) 0 + 1
  let rate (x : TxFrame) : Nat := m.streamRate (m.engPort e) x.src
  match l with
  | [] => none
  | x :: r => some (r.foldl (fun a b => if had b.1 * rate a.1 < had a.1 * rate b.1 then b else a) x)

/-- The frame that leaves next: LINK frames first, then URGENT and MGMT, then firmware's on ordinary channels, then the rest by their rates (log 93). -/
def Mach.nextTx (m : Mach) (e : Nat) : Option (TxFrame × Nat) :=
  let l := (m.eng e).heads.filter fun x => m.canTx e x.1
  (l.find? fun x => frChan x.1.f == 6) <|> (l.find? fun x => 4 ≤ frChan x.1.f) <|> (l.find? fun x => x.1.src == 0) <|> m.wrr e l

/-- A stream's frame slot counted; the count starts afresh when the streams of the round have had a slot for every unit of their rates. -/
def Mach.serve (m : Mach) (e src : Nat) : Mach :=
  if src = 0 then m
  else
    let keys := ((m.eng e).heads.map fun x => slotKey x.1.src).eraseDups
    let total := (keys.map fun k => m.streamRate (m.engPort e) k).sum
    m.onEng e fun g =>
      let s := aset g.served (slotKey src) (agetD g.served (slotKey src) 0 + 1)
      { g with served := if total ≤ (s.map (·.2)).sum then [] else s }

/-- Send at most n frames: a frame to be sent again goes before every ordinary frame (R289). -/
def Mach.pumpN : Nat → Nat → Mach → Mach
  | 0, _, m => m
  | n + 1, e, m =>
    match m.nextTx e, (m.eng e).again with
    | some x, [] => Mach.pumpN n e (((m.serve e x.1.src).onEng e fun g => { g with queue := g.queue.eraseIdx x.2 }).tx e x.1)
    | none, [] => m
    | x, f :: r =>
      (match x with
      | some x => Mach.pumpN n e ((m.onEng e fun g => { g with queue := g.queue.eraseIdx x.2 }).tx e x.1)
      | none =>
        if (m.eng e).sends then
          Mach.pumpN n e ((m.emit e (stampFrame (m.eng e) (frSeq f) f)).onEng e fun g => { g with again := r })
        else m)

/-- Send what an engine can send in the codeword period under way. -/
def Mach.pump (m : Mach) (e : Nat) : Mach :=
  if (m.eng e).queue.isEmpty && (m.eng e).again.isEmpty then m else Mach.pumpN (m.slotsLeft e) e m

/-- Frames put into an engine's queue. -/
def Mach.sendFrames (m : Mach) (e src : Nat) (fs : List Bytes) (ready : Nat := 0) (free : Option (Nat × Nat) := none) : Mach :=
  (m.onEng e fun g => { g with queue := g.queue ++ fs.map fun f => { src := src, f := f, ready := ready, free := free } }).pump e

/-- A LINK frame (R291), which goes before every other frame. -/
def Mach.sendLink (m : Mach) (e op : Nat) (pay : Bytes) : Mach := (m.queueLink e op pay).pump e

/-- Buffers of a pool freed, and reported in a CREDIT frame. -/
def Mach.freePool (m : Mach) (e pool n : Nat) : Mach :=
  if n = 0 then m
  else
    let m := m.onEng e fun g => g.free pool n
    m.sendLink e 8 (creditPay (m.eng e))

/-! ## Receiving (R289) -/

/-- Frames that an acknowledgement passes leave the replay buffer. -/
def ackedAway (l : List Bytes) (ack : Nat) : List Bytes :=
  match l.findIdx? fun f => frSeq f == ack with
  | some i => l.drop (i + 1)
  | none => l

/-- The acknowledgement that a frame carries. -/
def Mach.rxAck (m : Mach) (e : Nat) (f : Bytes) : Mach :=
  if frAckV f then (m.onEng e fun g =>
    let left := ackedAway g.replay (frAckSeq f)
    { g with replay := left, again := g.again.filter fun x => left.any fun y => frSeq y == frSeq x }).pump e else m

/-- How far a frame's FSEQ is ahead of the one expected, modulo 4,096. -/
def Mach.seqAhead (m : Mach) (e : Nat) (f : Bytes) : Nat := (frSeq f + 4096 - (m.eng e).rxSeq.toNat) % 4096

/-- Whether an ordinary frame is a duplicate: up to 256 behind (R289). -/
def Mach.isDup (m : Mach) (e : Nat) (f : Bytes) : Bool := 3840 ≤ m.seqAhead e f

/-- A frame with its 128 bytes and a good CRC. -/
def frGood (f : Bytes) : Bool := f.length == 128 && le f 124 4 == crc32 (f.take 124)

/-- A frame is taken in: the sequence goes on, its buffer is in use, and it is counted. -/
def Mach.takeFrame (m : Mach) (e : Nat) (f : Bytes) : Mach :=
  let ch := frChan f
  let m := m.portCount e (0x38 + 8 * ch)
  m.onEng e fun g =>
    let g := { g with recvd := ladd g.recvd (poolOf ch (frVc f)) 1 }
    if ordinary ch then { g with rxSeq := g.rxSeq + 1, rxAny := true, discard := false, outLets := 0 } else g

/-! ## Fouls (R314 to R316) -/

/-- OPs legal on a channel (R286). -/
def frOpOk (chan op : Nat) : Bool :=
  match chan with
  | 0 => op == 1
  | 1 => op == 5
  | 2 => op == 2
  | 3 => op == 0 || op == 4
  | 4 => op == 6
  | 5 => op == 6 || op == 7
  | 6 => 8 ≤ op && op ≤ 12
  | _ => false

/-- LEN of a LINK frame (R291). -/
def linkLen (op : Nat) : Nat :=
  match op with
  | 8 => 20
  | 11 => 24
  | _ => 4

/-- Data bytes that a message carries in its frames: none for a READ or an ACK (R287). -/
def dataLen (op mlen : Nat) : Nat := if op = 1 || op = 5 then 0 else mlen

/-- Whether MLEN agrees with the HEAD frame. -/
def headLenOk (f : Bytes) : Bool :=
  let n := dataLen (frOp f) (thLen (frPay f))
  20 ≤ frLen f && frLen f == 20 + min 96 n && frTail f == (n ≤ 96) && !(frOp f == 1 && thLen (frPay f) == 0)

/-- Whether a body frame agrees with the message it belongs to. -/
def bodyLenOk (r : RxMsg) (f : Bytes) : Bool :=
  let left := dataLen r.op (thLen r.hdr) - r.data.length
  r.drop || (frLen f == min 116 left && frTail f == (left ≤ 116) && frOp f == r.op)

/-- A malformed frame (R314 code 1), but for what depends on the message. -/
def frMalformed (f : Bytes) : Bool :=
  let h := frHdr f
  let ch := frChan f
  ch == 7 || !frOpOk ch (frOp f) || 116 < frLen f || bitOf h 39 || h / 2 ^ 60 != 0 ||
  (4 ≤ ch && (frVc f != 0 || frSeq f != 0)) || (ch == 6 && (frTag f != 0 || !frHead f || !frTail f)) ||
  (ch == 6 && (frLen f != linkLen (frOp f) || ((f.drop (8 + frLen f)).take (116 - frLen f)).any fun b => b != 0))

/-- The place that an inbound request names through a job-table entry (R295): space, logical core, offset or queue. -/
def jobPlace (j : JobTag) (th : Bytes) (op : Nat) : Option (Nat × Nat × Nat) :=
  let space := fld (thOrig th) 25 2
  let lin := thLin th
  let w := j.x1 + 1 - j.x0
  let core (rel : Nat) : Option Nat :=
    if j.y0 + rel / w ≤ j.y1 then some (coreAt (j.x0 + rel % w) (j.y0 + rel / w)) else none
  if !bitOf j.access.toNat space || 2 < space || (space == 2) != (op == 2) then none
  else if space = 2 then
    (if fld lin 20 10 = 0 && bitOf j.qmask.toNat (lin % 8) then (core (fld lin 3 17)).map fun c => (2, c, lin % 8) else none)
  else
    let off := j.offLo + lin % 2 ^ j.shift
    let last := off + thLen th - 1
    if j.offHi < last || (if space = 0 then 0x5FFFF else 0x17FFFFF) < last || (op == 0 && !j.wr) then none
    else (core (lin / 2 ^ j.shift)).map fun c => (space, c, off)

/-- The job-table entry of a tag. -/
def Mach.jobOf (m : Mach) (tag : Nat) : Option JobTag := m.fabric.jobs.find? fun j => tag != 0 && j.tag.toNat == tag

/-- The twin's coordinate. -/
def Mach.twinCoord (m : Mach) : Nat := Nat.xor m.fabric.coord.toNat (2 ^ 24)

/-- Whether a frame with tag 0 is one of those of R296 and R320: a record for a ring kept here, or the acknowledgement of one. -/
def Mach.tagZeroOk (m : Mach) (e : Nat) (f : Bytes) : Bool :=
  m.engPort e == 8 && ((frOp f == 5 && m.fabric.ins.any fun r => !r.logDone && r.lseq == some (thLin (frPay f))) ||
    (frOp f == 0 && (aget m.fabric.twin (thLin (frPay f) % 1024)).isSome))

/-- Whether a HEAD frame's message would be a foul for this device (codes 4, 5, 6, 9). -/
def Mach.headFoul (m : Mach) (e : Nat) (f : Bytes) : Option Nat :=
  let th := frPay f
  let dst := thDst th
  let own := m.fabric.coord.toNat
  if 1024 < thLen th || (frOp f == 2 && 256 < thLen th) then some 9
  else if !m.coordOk dst || (m.engPort e == 8 && dst / 2 ^ 24 % 2 != own / 2 ^ 24 % 2) then some 6
  else if frTag f = 0 then (if m.tagZeroOk e f then none else some 4)
  else if dst = own && frOp f < 3 then (match m.jobOf (frTag f) with
    | none => some 4
    | some j => if j.revoked || (jobPlace j th (frOp f)).isSome then none else some 5)
  else none

/-- The foul that a frame is on an engine (R314), if any. -/
def Mach.foulOf (m : Mach) (e : Nat) (f : Bytes) : Option Nat :=
  let g := m.eng e
  let ch := frChan f
  let key := ch * 2 + frVc f
  if frMalformed f then some 1
  else if 6 ≤ ch then (if frOp f = 10 && bitOf (le (frPay f) 0 4) 4 then some 8 else none)
  else if lget poolSize (poolOf ch (frVc f)) ≤ lget g.recvd (poolOf ch (frVc f)) - lget g.freed (poolOf ch (frVc f)) then some 2
  else if !ordinary ch then none
  else if 256 < m.seqAhead e f && !m.isDup e f then some 3
  else if m.seqAhead e f ≠ 0 then none
  else match aget g.rx key, frHead f with
    | none, false => some 7
    | some _, true => some 7
    | some r, false => if bodyLenOk r f then none else some 1
    | none, true =>
      if frLen f < 20 || thDst (frPay f) ≠ le (frPay f) 0 4 || thSrc (frPay f) ≠ le (frPay f) 4 4 ||
         thLin (frPay f) ≠ le (frPay f) 8 4 || thOrig (frPay f) / 2 ^ 27 ≠ 0 || le (frPay f) 18 2 ≠ 0 then some 1
      else match m.headFoul e f with
        | some c => some c
        | none => if headLenOk f then none else some 1

/-- The FOUL frame's payload (R315). -/
def foulPay (code now : Nat) (f : Bytes) : Bytes :=
  toBytes 1 code ++ toBytes 1 (frChan f) ++ toBytes 2 (frSeq f) ++ toBytes 2 (frTag f) ++ toBytes 2 0 ++
    toBytes 4 (if frHead f && ordinary (frChan f) then le (frPay f) 0 4 else 0) ++ toBytes 4 0 ++ toBytes 8 now

/-- A foul counted, answered at most once per 1 µs and port, and the port quarantined past FOUL_MAX in 10 ms (R314 to R316). -/
def Mach.countFoul (m : Mach) (e code : Nat) (f : Bytes) : Mach :=
  let p := m.engPort e
  let m := m.portCount e (0xA8 + 4 * (code - 1))
  let due : Bool := match (m.port p).lastFoul with
    | some t => t + usCc 1 ≤ m.cc
    | none => true
  let m := if frChan f = 6 && code ≠ 8 then m
    else if due then (m.sendLink e 11 (foulPay code m.now.toNat f)).onPort p fun q => { q with lastFoul := some m.cc }
    else m.portCount e 0xCC
  let recent := m.cc :: ((m.port p).fouls.filter fun t => m.cc < t + usCc 10000)
  let m := m.onPort p fun q => { q with fouls := recent }
  if recent.length ≤ m.fabric.foulMax || (m.port p).quarantined then m
  else
    let m := m.onPort p fun q => { q with quarantined := true, cnt := aset q.cnt 0xD0 m.now }
    ((m.logRec 0x0D 0xFFFF 0xFFFF (toBytes 1 p)).logCount 0x70).raiseAll pfs (m.event 0xA 0 0 0 p 0)

/-- Whether an engine takes in frames of a channel: LINK and MGMT at any time, the others on a port that carries traffic, or is quarantined and discards them (R282, R307,
R316). -/
def Mach.listens (m : Mach) (e chan : Nat) : Bool :=
  (m.eng e).carries && (5 ≤ chan || m.portUp (m.engPort e) || (m.fabric.assigned && (m.port (m.engPort e)).quarantined))

/-- FOUL (R314): the frame is discarded; of a HEAD frame the whole message; its place in the sequence passes. -/
def foulAt (e code : Nat) (f : Bytes) (m : Mach) : Mach :=
  m.when (m.listens e (frChan f) && frGood f && m.foulOf e f == some code && code != 8) fun m =>
    let m := (m.rxAck e f).countFoul e code f
    let ch := frChan f
    if ordinary ch && code ≠ 3 && code ≠ 2 && m.seqAhead e f = 0 then
      let pool := poolOf ch (frVc f)
      let key := ch * 2 + frVc f
      let m := (m.takeFrame e f)
      let held := match aget (m.eng e).rx key with
        | some r => r.n
        | none => 0
      let rx (l : AMap RxMsg) : AMap RxMsg :=
        if frHead f && !frTail f then aset l key { chan := ch, vc := frVc f, drop := true }
        else if frTail f then adel l key
        else match aget l key with
          | some r => aset l key { r with drop := true, n := 0 }
          | none => l
      let m := m.onEng e fun g => { g with rx := rx g.rx }
      m.freePool e pool (1 + held)
    else m

/-- FOUL_FRAME_RECEIVE (R315): counted, and nothing else. The count stands beside those of R317. -/
def foulFrameAt (e : Nat) (pay : Bytes) (m : Mach) : Mach :=
  m.when (pay.length == 24 && (m.eng e).st != .idle) fun m => m.portCount e 0x1000

/-! ## Asking for a retrain or an engine-set change (R309 to R311) -/

/-- The payload of a RETRAIN frame (R310). -/
def retrainPay (kind what rnum lanes : Nat) : Bytes := toBytes 4 (kind + 16 * what + 256 * rnum + 65536 * lanes)

/-- The lanes that an engine can use. -/
def LightEng.usable (g : LightEng) : Nat := if g.lanes = 0 then 0xFFFF else g.lanes.toNat

/-- A RETRAIN frame of the request under way. -/
def Mach.sendRetrain (m : Mach) (e kind : Nat) : Mach :=
  let g := m.eng e
  m.sendLink e 12 (retrainPay kind g.what g.rnum.toNat g.usable)

/-- A HOLD of every ordinary channel, which firmware sends before a retrain or an engine-set change; its time is a free value. -/
def Mach.sendHold (m : Mach) (e : Nat) : Mach :=
  let d := m.draw
  d.2.sendLink e 10 (toBytes 4 (0xF + 65536 * (d.1 % 65536)))

/-- An engine in ACTIVE starts to ask its partner (R311). -/
def Mach.ask (m : Mach) (e what : Nat) : Mach :=
  if (m.eng e).st = .active then
    let m := (m.onEng e fun g => { g with st := .asking, what := what, rnum := g.rnum + 1, reqs := 1, reqAt := m.cc, unmet := 0,
                                          letRun := 0 }).sendHold e
    let m := if what ≤ 2 then m.portCount e 0xD8 else m
    m.sendRetrain e 1
  else m

/-- WHAT of a retrain: from saved settings where there are any. -/
def LightEng.retrainWhat (g : LightEng) : Nat := if g.saved then 1 else 2

/-! ## Credits, lets and frame errors (R288, R289) -/

/-- A cumulative count of 16 bits that has advanced from a longer one. -/
def advance16 (old new : Nat) : Nat := old + (new + 65536 - old % 65536) % 65536

/-- CREDIT (R288). -/
def creditAt (e : Nat) (pay : Bytes) (m : Mach) : Mach :=
  m.when (pay.length == 20 && (m.eng e).st != .idle) fun m =>
    let count (g : LightEng) (p : Nat) : Nat :=
      lget poolSize p + advance16 (lget g.granted p - lget poolSize p) (le pay (2 * p) 2)
    (m.onEng e fun g => { g with granted := (List.range 10).map (count g) }).pump e

/-- FABRIC_LET (R289): the frames from the named FSEQ on are sent again, in order. -/
def fabricLetAt (e : Nat) (pay : Bytes) (m : Mach) : Mach :=
  let seq := le pay 0 2
  m.when (pay.length == 4 && (m.eng e).carries && seq < 4096) fun m =>
    let m := m.portCount e 0x70
    (m.onEng e fun g =>
      let again := match g.replay.findIdx? fun f => frSeq f == seq with
        | some i => g.replay.drop i
        | none => []
      let run := if g.letSeq.toNat = seq && g.letRun ≠ 0 then g.letRun + 1 else 1
      { g with again := again, letRun := run, letSeq := BitVec.ofNat 12 seq }).pump e

/-- An ordinary frame in error starts a discard and a LET; an URGENT or MGMT frame is only dropped (R289, R290). -/
def Mach.frameBad (m : Mach) (e cause chan : Nat) : Mach :=
  let m := if cause = 1 then m.portCount e 0x80 else if cause = 2 then m.portCount e 0x88 else m
  if !ordinary chan then (if cause = 3 then m else m.portCount e 0x90)
  else if (m.eng e).discard && cause = 3 then m
  else
    let g := m.eng e
    let m := m.portCount e 0x68
    (m.onEng e fun g => { g with discard := true, outLets := g.outLets + 1 }).sendLink e 9
      (toBytes 2 g.rxSeq.toNat ++ toBytes 1 cause ++ toBytes 1 0)

/-- FRAME_ERROR (R289, R290, R398): an uncorrectable codeword before 10^13 bits have passed since a retrain starts another. Cause 0 is a codeword that FEC has corrected, which
is only counted (R317; log 93). -/
def frameErrorAt (e cause chan : Nat) (m : Mach) : Mach :=
  if (m.eng e).carries && cause == 0 then m.portCount e 0x78 else
  m.when ((m.eng e).carries && 1 ≤ cause && chan < 6) fun m =>
    let again : Bool := match (m.eng e).probation with
      | some t => cause == 1 && m.cc < t
      | none => false
    let m := m.frameBad e cause chan
    if again then m.ask e (m.eng e).retrainWhat else m

/-- HOLD (R309). -/
def holdAt (e : Nat) (v : Nat) (m : Mach) : Mach :=
  m.when ((m.eng e).carries && fld v 6 10 == 0) fun m =>
    let time := v / 2 ^ 16 % 2 ^ 16
    let stop := m.cc + time * 64 * 12 / 10
    let chans := [0, 1, 2, 3, 5].filter fun ch => bitOf v ch
    let m := if bitOf v 4 then m.countFoul e 8 (mkFrame 6 0 0 0 10 true true false none (toBytes 4 v)) else m
    let m := m.onEng e fun g => { g with holds := if time = 0 then [] else chans.foldl (fun h ch => aset h ch stop) g.holds }
    m.pump e

/-- HOLD_EXPIRY (R309). -/
def holdExpiryAt (e ch : Nat) (m : Mach) : Mach :=
  match aget (m.eng e).holds ch with
  | some t => m.when (t ≤ m.cc) fun m => (m.onEng e fun g => { g with holds := adel g.holds ch }).pump e
  | none => m

def execCredit (e : FieldIx) (payload : Bytes) (s : State) : Host.Outcome State Fault Refusal := upd (creditAt e payload) s
def execFabricLet (e : FieldIx) (payload : Bytes) (s : State) : Host.Outcome State Fault Refusal := upd (fabricLetAt e payload) s
def execFrameError (e : FieldIx) (cause : Fin 4) (chan : BitVec 3) (s : State) : Host.Outcome State Fault Refusal :=
  upd (frameErrorAt e cause chan.toNat) s
def execHold (e : FieldIx) (value : BitVec 32) (s : State) : Host.Outcome State Fault Refusal := upd (holdAt e value.toNat) s
def execHoldExpiry (e : FieldIx) (ch : Fin 6) (s : State) : Host.Outcome State Fault Refusal := upd (holdExpiryAt e ch) s
def execFoul (e : FieldIx) (code : Fin 10) (frame : Bytes) (s : State) : Host.Outcome State Fault Refusal :=
  upd (foulAt e code frame) s
def execFoulFrameReceive (e : FieldIx) (payload : Bytes) (s : State) : Host.Outcome State Fault Refusal :=
  upd (foulFrameAt e payload) s

end Sys2Proof.Machine
end

