-- ==== Sys2Proof/Machine/Fabric.lean ====
section
/-! DEFINITION. Fabric messages: reception, transit, turns, the attachments of the anchor cores, answers, time-outs, and the input log
(R30, R295 to R304, R318 to R322). -/

namespace Sys2Proof.Machine

open Sys2Proof

/-! ## The attachments' way into the mesh (R297, R299) -/

/-- The mesh channel of a fabric channel, and back. -/
def meshChan (ch : Nat) : Nat := if ch = 3 then 4 else ch
def fabChan (ch : Nat) : Nat := if ch = 4 then 3 else ch

/-- Whether a message of n flits can enter the router from an attachment: it has room, and the context tokens at the anchor core (R266). -/
def Mach.attachRoom (m : Mach) (a n : Nat) (f : Flit) : Bool :=
  (m.core a).hasRoom 5 f.chan n && (f.fw || m.hasFlitTok a f.cid.toNat n (ansSegs a f.target.toNat))

/-- Messages that wait at an attachment enter its router in order on each channel. -/
def Mach.drainList (m : Mach) (a : Nat) (blocked : List Nat) : List (List Flit) → List (List Flit) × Mach
  | [] => ([], m)
  | [] :: r => m.drainList a blocked r
  | (f :: t) :: r =>
    if !blocked.contains f.chan && m.attachRoom a (t.length + 1) f then
      let paid := m.payFlits a f.cid.toNat (ansSegs a f.target.toNat) (f :: t)
      (paid.2.onCore a fun k => k.enqueue 5 f.chan paid.1).drainList a blocked r
    else
      let y := m.drainList a (f.chan :: blocked) r
      ((f :: t) :: y.1, y.2)

def Mach.drainAttach (m : Mach) (a : Nat) : Mach :=
  let y := m.drainList a [] (m.core a).attach
  y.2.onCore a fun k => { k with attach := y.1 }

/-- Messages given to an anchor's attachment for the mesh. -/
def Mach.addAttach (m : Mach) (a : Nat) (msgs : List (List Flit)) : Mach :=
  (m.onCore a fun k => { k with attach := k.attach ++ msgs }).drainAttach a

/-- Data cut into mesh messages of at most 256 B, with the offset of each. -/
def cutData : Nat → Nat → Bytes → List (Nat × Bytes)
  | 0, _, _ => []
  | n + 1, off, d => if d.isEmpty then [] else (off, d.take 256) :: cutData n (off + 256) (d.drop 256)

/-- A message from one attachment to another (R298): the header with the job tag and, where the message goes straight on (R31), the VC it leaves on; then the data. -/
def turnMsgs (a b chan op tag : Nat) (err : Bool) (th data : Bytes) (cc : Nat) (vc : Option Nat := none) : List (List Flit) :=
  let wa := attachWa b
  let f : Flit := { src := a, chan := meshChan chan, op := BitVec.ofNat 3 op, target := BitVec.ofNat 60 wa, wa := BitVec.ofNat 48 wa,
                    fw := true, err := err, attach := true, why := .turn, front := cc + 1,
                    pay := BitVec.ofNat 256 (ofBytes (th ++ toBytes 2 tag ++ toBytes 1 ((vc.map (· + 1)).getD 0))) }
  [f] :: (cutData 4 0 data).map fun d => mkMsg f (toChunks d.2)

/-- The number of an anchor core within its field. -/
def anchorIx (a : Nat) : Nat := (coreX a % 48 - 22) + 4 * (coreY a % 48 - 22)

/-! ## Leaving the device (R298, R302) -/

/-- The VC of a message that starts on an engine's link. -/
def Mach.startVc (m : Mach) (e : Nat) : Nat :=
  let p := m.engPort e
  if p = 8 then 0 else b2n (m.onDateline (p / 2) (p % 2 == 1))

/-- The stream of a message that leaves here: its job tag where this device sends it, else the transit share (R305). -/
def Mach.streamOf (m : Mach) (e tag : Nat) (th : Bytes) : Nat := if thSrc th = m.fabric.coord.toNat then tag else transitSrc + e

/-- A message of this device, or one that turns, from anchor a of field e0 towards its device; discarded where there is no way. -/
def Mach.sendFrom (m : Mach) (e0 a chan op tag : Nat) (err : Bool) (th data : Bytes) : Mach :=
  match m.route (thDst th) with
  | .out p vc =>
    (match m.engFor p (fld (thOrig th) 0 17 + thDst th) with
     | none => m
     | some e =>
       if e = e0 then m.sendFrames e (m.streamOf e tag th) (mkFrames chan vc tag op err th data)
       else m.addAttach a (turnMsgs a (anchorOf e (anchorIx a)) chan op tag err th data m.cc))
  | _ => m

/-- The transport header of an answer: device coordinates swapped (R287). -/
def answerTh (th : Bytes) (n : Nat) : Bytes := mkTh (thSrc th) (thDst th) (thLin th) (thOrig th) n

/-- The fabric answer to a request: DATA to a READ, else an ACK. -/
def Mach.answerOut (m : Mach) (e a op tag : Nat) (err : Bool) (th data : Bytes) : Mach :=
  let data := if err || op ≠ 1 then [] else data
  m.sendFrom e a (if op = 1 then 3 else 1) (if op = 1 then 4 else 5) tag err (answerTh th data.length) data

/-- A request that cannot be carried on is answered with ERR; a response is discarded (R303). -/
def Mach.unreachable (m : Mach) (e : Nat) (r : RxMsg) : Mach :=
  if r.op < 3 then m.answerOut e (anchorOf e (thSrc r.hdr)) r.op r.tag true r.hdr [] else m

/-- Whether a CKPT_SAVE of a context is under way, which holds its inbound messages (R346). -/
def Mach.saving (m : Mach) (cid : Nat) : Bool :=
  m.host.cmds.any fun y => y.opcode == 0x0120 && y.cid == cid && y.started && y.result.isNone

/-! ## The input log (R318 to R322) -/

/-- A log record (R321). -/
def logRecord (lseq time cid mlen queue srcc tag : Nat) (data : Bytes) : Bytes :=
  let b := toBytes 8 lseq ++ toBytes 8 time ++ toBytes 2 cid ++ toBytes 2 mlen ++ toBytes 4 queue ++ toBytes 4 srcc ++ toBytes 2 tag ++
    toBytes 2 0 ++ data
  padTo b ((b.length + 31) / 32 * 32)

/-- QUEUE of a record. -/
def logQueue (core q : Nat) (token : Bool) : Nat := core + q * 2 ^ 17 + b2n token * 2 ^ 20

/-- Bytes of a log's ring in use. -/
def Ctx.logUsed (x : Ctx) : Nat := (x.logKept.map (·.2)).sum

/-- Whether a message of n bytes can be logged now (R322): it fits, and the pair port is up. -/
def Mach.canLog (m : Mach) (x : Ctx) (n : Nat) : Bool := m.portUp 8 && x.logUsed + 32 + (n + 31) / 32 * 32 ≤ x.logSize

/-- LIN of a record's message: the context in its low ten bits, and the record number. -/
def logLin (cid lseq : Nat) : Nat := cid + 1024 * (lseq % 2 ^ 21)

/-- Send a record to the twin (R318, R320): BULK WRITE with tag 0, on engine A(CID mod N) of the pair port. -/
def Mach.sendLog (m : Mach) (cid : Nat) (x : Ctx) (queue srcc tag : Nat) (data : Bytes) : Nat × Mach :=
  let lseq := x.logNext.toNat
  let rec_ := logRecord lseq m.now.toNat cid data.length queue srcc tag data
  let lin := logLin cid lseq
  let th := mkTh m.twinCoord m.fabric.coord.toNat lin 0 rec_.length
  let m := m.setCtx cid { x with logNext := x.logNext + 1, logKept := x.logKept ++ [(lseq, rec_.length)] }
  (lin, match m.engFor 8 cid with
    | some e => m.sendFrames e 0 (mkFrames 3 0 0 0 false th rec_)
    | none => m)

/-- A message that lands unlogged (R319, R322): counted, and, for a log that could not take it, reported. -/
def Mach.unloggedMsg (m : Mach) (cid : Nat) (report : Bool) : Mach :=
  let m := m.onCtx cid fun x => { x with unlogged := x.unlogged + 1, unloggedAt := some (x.unloggedAt.getD m.now) }
  if report then m.raiseOwner cid (m.event 0xC cid 0 0 0 (match m.ctx cid with
    | some x => (x.unloggedAt.getD m.now).toNat
    | none => 0)) else m

/-- What happens to a LOGGED message of n bytes for a context: 0 it waits, 1 it is logged, 2 it lands unlogged with no log, 3 it
lands unlogged under the policy pass. -/
def Mach.logChoice (m : Mach) (cid n : Nat) : Nat :=
  match m.ctx cid with
  | some x => if !x.logOpen then 2 else if m.canLog x n then 1 else if x.logPolicy = 0 then 0 else 3
  | none => 2

/-- The log's part of a LOGGED message: the LIN of its record, if it is logged. -/
def Mach.logPart (m : Mach) (cid queue srcc tag : Nat) (data : Bytes) : Option Nat × Mach :=
  match m.logChoice cid data.length, m.ctx cid with
  | 1, some x =>
    let y := m.sendLog cid x queue srcc tag data
    (some y.1, y.2)
  | 3, _ => (none, m.unloggedMsg cid true)
  | _, _ => (none, m.unloggedMsg cid false)

/-- A record kept by this device as the twin (R320, R321). -/
def Mach.twinAppend (m : Mach) (cid : Nat) (b : Bytes) : Mach :=
  let t := agetD m.fabric.twin cid {}
  let r : LogRec := { lseq := BitVec.ofNat 64 (le b 0 8), time := BitVec.ofNat 64 (le b 8 8), cid := BitVec.ofNat 10 cid,
                      mlen := le b 0x12 2, queue := BitVec.ofNat 32 (le b 0x14 4), srcc := BitVec.ofNat 32 (le b 0x18 4),
                      jobtag := BitVec.ofNat 16 (le b 0x1C 2), data := (b.drop 32).take (le b 0x12 2) }
  { m with fabric := { m.fabric with twin := aset m.fabric.twin cid { t with next := r.lseq + 1, recs := t.recs ++ [r] } } }

/-- LOG_WRITE (R320): the twin's side; a ring that no record has reached yet opens with its first one. -/
def logWriteAt (cid : Nat) (queue srcc jobtag time : Nat) (data : Bytes) (m : Mach) : Mach :=
  m.when (data.length ≤ 256 && m.portUp 8) fun m =>
    let t := agetD m.fabric.twin cid {}
    m.twinAppend cid (logRecord t.next.toNat time cid data.length queue srcc jobtag data)

/-! ## Arrival at this device (R295, R299, R300) -/

/-- Mesh WRITEs of inbound data. -/
def inWrites (base : Flit) (space phys off : Nat) (data : Bytes) : List (List Flit) :=
  (cutData 4 off data).map fun d =>
    let t := waOf space phys d.1
    mkMsg { base with target := BitVec.ofNat 60 t, wa := BitVec.ofNat 48 t, tag := BitVec.ofNat 8 ((d.2.length - 1) % 32) }
      (toChunks d.2)

/-- Mesh READs of an inbound READ: at most 256 B each. -/
def inReads (base : Flit) (space phys : Nat) : Nat → Nat → Nat → List (List Flit)
  | 0, _, _ => []
  | k + 1, off, n =>
    if n = 0 then []
    else
      let t := waOf space phys off
      [{ base with target := BitVec.ofNat 60 t, wa := BitVec.ofNat 48 t, tag := 32, pay := BitVec.ofNat 256 (min n 256) }] ::
        inReads base space phys k (off + 256) (n - min n 256)

/-- The mesh traffic of an inbound request (R299). -/
def inTraffic (base : Flit) (op space phys off n : Nat) (data : Bytes) : List (List Flit) :=
  match op with
  | 1 => inReads { base with chan := 0, op := 1 } space phys 4 off n
  | 2 =>
    let t := waOf 2 phys off
    [mkMsg { base with chan := 2, op := 2, target := BitVec.ofNat 60 t, wa := BitVec.ofNat 48 t } (toChunks data)]
  | _ => inWrites { base with chan := 4, op := 0 } space phys off data

/-- A request for this device becomes mesh traffic, and its answer is owed; none while it must wait. -/
def Mach.inRequest (m : Mach) (e : Nat) (r : RxMsg) : Option Mach :=
  match m.jobOf r.tag with
  | none => some m
  | some j =>
    if j.revoked then some (m.portCount e 0x98 r.n)
    else match jobPlace j r.hdr r.op with
      | none => some m
      | some (space, core, off) =>
        let phys := m.runs core
        let a := anchorOf e (phys % 16)
        let data := r.data.take (thLen r.hdr)
        let logged := r.op == 2 && bitOf (thLin r.hdr) 30
        if !(m.core a).attach.isEmpty || m.saving j.cid.toNat || (logged && m.logChoice j.cid.toNat data.length == 0) then none
        else
          let y := if logged then m.logPart j.cid.toNat (logQueue core off data.isEmpty) (thSrc r.hdr) r.tag data else (none, m)
          let m := y.2
          let id := m.fabric.inNext
          let base : Flit := { src := a, cid := j.cid, attach := true, why := .inbound id, front := m.cc + 1, marked := logged }
          let msgs := inTraffic base r.op space phys off (thLen r.hdr) data
          let q : InReq := { id := id, eng := e, hdr := r.hdr, tag := BitVec.ofNat 16 r.tag, read := r.op == 1, need := msgs.length,
                             logDone := y.1.isNone, anchor := a, lseq := y.1 }
          let m := { m with fabric := { m.fabric with ins := m.fabric.ins ++ [q], inNext := id + 1 } }
          some (m.addAttach a msgs)

/-- A record from the twin, kept and acknowledged (R296, R320). -/
def Mach.inLog (m : Mach) (e : Nat) (r : RxMsg) : Mach :=
  if r.op = 5 then
    let settle (q : InReq) : InReq := if q.lseq = some (thLin r.hdr) then { q with logDone := true, err := q.err || r.err } else q
    { m with fabric := { m.fabric with ins := m.fabric.ins.map settle } }
  else
    let m := m.twinAppend (thLin r.hdr % 1024) r.data
    m.sendFrames e 0 (mkFrames 1 0 0 5 false (answerTh r.hdr 0) [])

/-- An answer for a requester of this device becomes mesh traffic; with no request outstanding it is discarded (R299, R300). -/
def Mach.inAnswer (m : Mach) (e : Nat) (r : RxMsg) : Option Mach :=
  let o := thOrig r.hdr
  let phys := m.runs (fld o 0 17)
  let slot := fld o 17 2
  match m.fabric.reqs.find? fun q => q.core == phys && q.slot == slot && q.rid == fld o 19 6 && q.lin == thLin r.hdr &&
      q.read == (r.op == 4) with
  | none => some m
  | some q =>
    let a := anchorOf e (phys % 16)
    if !(m.core a).attach.isEmpty then none
    else
      let t := waOf 0 phys 0
      let base : Flit := { src := a, cid := ((m.core phys).slot slot).ctl.cid, chan := meshChan r.chan, op := BitVec.ofNat 3 r.op,
                           tag := BitVec.ofNat 8 (slot * 64 + q.rid), err := r.err, target := BitVec.ofNat 60 t,
                           why := .fabric slot q.serial, attach := true, front := m.cc + 1 }
      let msgs := if r.op = 5 || r.err then [[base]] else (cutData 4 0 r.data).map fun d => mkMsg base (toChunks d.2)
      let m := { m with fabric := { m.fabric with reqs := m.fabric.reqs.filter fun x => x.id != q.id } }
      some (m.addAttach a msgs)

/-- Whether a message that came in on a port goes straight on: its coordinate still differs in the port's dimension. -/
def Mach.straightOn (m : Mach) (e dst : Nat) : Bool :=
  let p := m.engPort e
  let own := m.fabric.coord.toNat
  p < 8 && dst / 2 ^ 24 % 2 == own / 2 ^ 24 % 2 && nextDim own dst == some (p / 2)

/-- The port opposite to another in its dimension. -/
def oppPort (p : Nat) : Nat := Nat.xor p 1

/-- A message that turns here crosses the mesh to the engine that carries it on (R298, R302); one that would go straight on but for a bench engine that stands in on its
way crosses it to engine k of the opposite port, and keeps to its VC (R31, R292). -/
def Mach.turn (m : Mach) (e : Nat) (r : RxMsg) : Option Mach :=
  let a := anchorOf e (thSrc r.hdr % 16)
  let on := m.straightOn e (thDst r.hdr) && m.portUp (oppPort (m.engPort e))
  let p := oppPort (m.engPort e)
  if !(m.core a).attach.isEmpty then none
  else match if on then Route.out p (max r.vc (b2n (m.onDateline (p / 2) (p % 2 == 1)))) else m.route (thDst r.hdr) with
    | .out p vc => (match m.engOnward p (m.engIndex e) with
      | some e' => some (m.addAttach a (turnMsgs a (anchorOf e' (thSrc r.hdr % 16)) r.chan r.op r.tag r.err r.hdr r.data m.cc (if on then some vc else none)))
      | none => some (m.unreachable e r))
    | _ => some (m.unreachable e r)

/-- A whole message at an ingress attachment; none while it must wait there. -/
def Mach.arrived (m : Mach) (e : Nat) (r : RxMsg) : Option Mach :=
  if thDst r.hdr ≠ m.fabric.coord.toNat then m.turn e r
  else if r.tag = 0 then some (m.inLog e r)
  else if r.op < 3 then m.inRequest e r
  else m.inAnswer e r

/-- A whole message is handed on, or waits behind those that wait on its channel and VC; its buffers free when it goes. -/
def Mach.submitIn (m : Mach) (e : Nat) (r : RxMsg) : Mach :=
  let behind := m.fabric.heldIn.any fun h => h.1 == e && h.2.chan == r.chan && h.2.vc == r.vc
  match if behind then none else m.arrived e r with
  | some m => m.freePool e (poolOf r.chan r.vc) r.n
  | none => { m with fabric := { m.fabric with heldIn := m.fabric.heldIn ++ [(e, r)] } }

/-- Try again what waits at the ingress attachments. -/
def Mach.retryIn (m : Mach) : Mach :=
  let l := m.fabric.heldIn
  if l.isEmpty then m
  else l.foldl (fun m h => m.submitIn h.1 h.2) { m with fabric := { m.fabric with heldIn := [] } }

/-! ## Transit (R30, R298, R302, R303) -/

/-- The engine and VC on which a message in transit leaves: engine k of the opposite port, VC 1 from the dateline on; none where it
crosses the mesh, waits, or stops. -/
def Mach.transitTo (m : Mach) (e vc : Nat) : Option (Nat × Nat) :=
  let p := oppPort (m.engPort e)
  if !m.portUp p || (m.eng e).standsFor.isSome then none
  else match m.engOnward p (m.engIndex e) with
    | some e' => if (m.eng e').standsFor.isSome then none else some (e', max vc (b2n (m.onDateline (p / 2) (p % 2 == 1))))
    | none => none

/-- Whether a frame belongs to a message in transit over the transit path. -/
def Mach.isTransit (m : Mach) (e : Nat) (f : Bytes) : Bool :=
  ordinary (frChan f) &&
  (if frHead f then m.straightOn e (thDst (frPay f)) && (m.transitTo e (frVc f)).isSome
   else match aget (m.eng e).rx (frChan f * 2 + frVc f) with
     | some r => r.via.isSome
     | none => false)

/-- Whether a frame is one that its engine takes in now: good, no foul, on a port that carries its channel. -/
def Mach.takes (m : Mach) (e : Nat) (f : Bytes) : Bool :=
  m.listens e (frChan f) && frGood f && (m.foulOf e f).isNone && frChan f < 6

/-- What an engine does with an ordinary frame that is not next in order: nothing but to take its acknowledgement. -/
def Mach.outOfOrder (m : Mach) (e : Nat) (f : Bytes) : Bool := ordinary (frChan f) && m.seqAhead e f != 0

/-- Whether an ordinary or URGENT frame meets a quarantine (R316). -/
def Mach.quarantineDrop (m : Mach) (e : Nat) (f : Bytes) : Bool := (m.port (m.engPort e)).quarantined && frChan f != 5

/-- A frame of an open message whose engine k has changed its VC goes on as it began. -/
def reFrame (f : Bytes) (vc : Nat) : Bytes :=
  mkFrame (frChan f) vc 0 (frTag f) (frOp f) (frHead f) (frTail f) (frErr f) none (frPay f)

/-- About 90 ns (R304; log 56). -/
def transitCc : Nat := 108

/-- FRAME_TRANSIT (R30, R304, R305): the frame keeps its buffer, and with it the sender's credit, until it leaves. -/
def transitAt (e : Nat) (f : Bytes) (m : Mach) : Mach :=
  m.when (m.takes e f && !m.outOfOrder e f && !m.quarantineDrop e f && m.isTransit e f) fun m =>
    let key := frChan f * 2 + frVc f
    let via := if frHead f then m.transitTo e (frVc f) else match aget (m.eng e).rx key with
      | some r => r.via
      | none => none
    match via with
    | none => m
    | some (e', vc) =>
      let m := ((m.rxAck e f).takeFrame e f).portCount e 0xA0
      let open_ : RxMsg := { op := frOp f, tag := frTag f, chan := frChan f, vc := frVc f, hdr := (frPay f).take 20,
                             data := (frPay f).drop 20, via := some (e', vc) }
      let more (r : RxMsg) : RxMsg := if frHead f then open_ else { r with data := r.data ++ frPay f }
      let m := m.onEng e fun g =>
        { g with rx := if frTail f then adel g.rx key else aset g.rx key (more (agetD g.rx key {})) }
      m.sendFrames e' (transitSrc + e) [reFrame f vc] (m.cc + transitCc) (some (e, poolOf (frChan f) (frVc f)))

/-- A message in transit whose onward port is down waits at that port (R303). -/
def Mach.waitOnward (m : Mach) (e : Nat) (r : RxMsg) : Mach :=
  (m.onPort (oppPort (m.engPort e)) fun p => { p with waiting := p.waiting ++ [{ msg := r, eng := e, since := m.cc }] }).freePool e
    (poolOf r.chan r.vc) r.n

/-- A whole message after its last frame. -/
def Mach.wholeMsg (m : Mach) (e : Nat) (r : RxMsg) : Mach :=
  if m.straightOn e (thDst r.hdr) && !m.portUp (oppPort (m.engPort e)) then m.waitOnward e r else m.submitIn e r

/-- FABRIC_MESSAGE_RECEIVE (R285, R289, R299, R316). -/
def messageReceiveAt (e : Nat) (f : Bytes) (m : Mach) : Mach :=
  m.when (m.takes e f && !m.isTransit e f && !(frChan f == 5 && frOp f == 7)) fun m =>
    let pool := poolOf (frChan f) (frVc f)
    let m := m.rxAck e f
    if m.outOfOrder e f then (if m.isDup e f then m else m.frameBad e 3 (frChan f))
    else if m.quarantineDrop e f || !ordinary (frChan f) then (m.takeFrame e f).freePool e pool 1
    else
      let m := m.takeFrame e f
      let key := frChan f * 2 + frVc f
      let old := agetD (m.eng e).rx key {}
      let r : RxMsg :=
        if frHead f then { op := frOp f, tag := frTag f, err := frErr f, chan := frChan f, vc := frVc f, hdr := (frPay f).take 20,
                           data := (frPay f).drop 20, n := 1 }
        else { old with data := if old.drop then [] else old.data ++ frPay f, n := if old.drop then 0 else old.n + 1 }
      let m := if r.drop then m.freePool e pool 1 else m
      if !frTail f then m.onEng e fun g => { g with rx := aset g.rx key r }
      else
        let m := m.onEng e fun g => { g with rx := adel g.rx key }
        if r.drop then m else m.wholeMsg e r

/-- Messages that waited for a failed onward link go on when the link has returned (R303). -/
def Mach.retryOnward (m : Mach) (p : Nat) : Mach :=
  let l := (m.port p).waiting
  if l.isEmpty || !m.portUp p then m
  else
    l.foldl (fun m w => match m.transitTo w.eng w.msg.vc with
      | some (e', vc) => m.sendFrames e' (transitSrc + w.eng) (mkFrames w.msg.chan vc w.msg.tag w.msg.op w.msg.err w.msg.hdr w.msg.data)
      | none => m.submitIn w.eng { w.msg with n := 0 }) (m.onPort p fun q => { q with waiting := [] })

/-- ONWARD_LINK_WAIT_EXPIRY (R303): 1 ms. -/
def onwardExpiryAt (p : Nat) (m : Mach) : Mach :=
  match (m.port p).waiting with
  | w :: rest => m.when (w.since + usCc 1000 ≤ m.cc) fun m =>
      (m.onPort p fun q => { q with waiting := rest }).unreachable w.eng w.msg
  | [] => m

/-! ## FABRIC_ATTACHMENT_SEND (R297 to R299) -/

/-- The answer of an inbound request that is done goes out (R299). -/
def Mach.respondOut (m : Mach) (c : Nat) (q : InReq) : Mach :=
  let m := { m with fabric := { m.fabric with ins := m.fabric.ins.filter fun x => x.id != q.id } }
  m.answerOut q.eng c (if q.read then 1 else 0) q.tag.toNat q.err q.hdr (q.data.take (thLen q.hdr))

/-- The mesh message that an attachment takes up next, with the key of its local output. -/
def Core.attachIn (k : Core) : Option (Nat × Flit × List Flit) :=
  [8, 9, 10, 12].findSome? fun key => match k.loMsg key with
    | some (f, fs) => (match f.why with
      | .fabric _ _ => some (key, f, fs)
      | .turn => some (key, f, fs)
      | _ => none)
    | none => none

/-- A gathered message with one more mesh message of its source. -/
def Core.gather (k : Core) (f : Flit) (fs : List Flit) : Core × Gather :=
  let own : Bool := f.why != .turn
  let slot := if own then f.tag.toNat / 64 else 0
  let mine (g : Gather) : Bool := g.src == f.src && g.slot == slot && g.chan == f.chan && g.own == own
  let pay := (fs.map fun x => toBytes 32 x.pay.toNat).flatten
  let g : Gather := match k.gathers.find? mine with
    | some g => { g with data := g.data ++ pay }
    | none => { src := f.src, slot := slot, chan := f.chan, hdr := pay.take 20, tag := BitVec.ofNat 16 (le pay 20 2), cid := f.cid,
                vc := if own || pay.getD 22 0 = 0 then none else some ((pay.getD 22 0).toNat - 1), op := f.op.toNat, err := f.err, own := own, serial := match f.why with
                  | .fabric _ n => n
                  | _ => 0 }
  ({ k with gathers := k.gathers.filter fun x => !mine x }, g)

/-- Whether a gathered message is whole. -/
def Gather.whole (g : Gather) : Bool := g.err || dataLen (if g.op = 4 then 0 else g.op) (thLen g.hdr) ≤ g.data.length

/-- A request of this device is outstanding from here on (R300). -/
def Mach.openReq (m : Mach) (g : Gather) : Mach :=
  if g.own then
    let q : FReq := { id := m.fabric.reqNext, core := g.src, slot := g.slot, serial := g.serial, read := g.op == 1,
                      lin := thLin g.hdr, start := m.cc, rid := fld (thOrig g.hdr) 19 6 }
    { m with fabric := { m.fabric with reqs := m.fabric.reqs ++ [q], reqNext := m.fabric.reqNext + 1 } }
  else m

/-- The data that a gathered message carries. -/
def Gather.body (g : Gather) : Bytes := if g.err then [] else g.data.take (dataLen (if g.op = 4 then 0 else g.op) (thLen g.hdr))

/-- An outgoing message whose engine has left its port's set goes on through another engine (R298, R313); where no port leads on, a request of this device is answered with
ERR at once, one in passage as unreachable (R303). -/
def Mach.noEngine (m : Mach) (e c : Nat) (g : Gather) : Mach :=
  let next := match m.route (thDst g.hdr) with
    | .out p _ => (m.engFor p (fld (thOrig g.hdr) 0 17 + thDst g.hdr)).filter (· != e)
    | _ => none
  match next with
  | some e' => (m.openReq g).addAttach c (turnMsgs c (anchorOf e' (anchorIx c)) (fabChan g.chan) g.op g.tag.toNat g.err g.hdr g.body m.cc)
  | none =>
  if g.own then
    let phys := m.runs (fld (thOrig g.hdr) 0 17)
    let t := waOf 0 phys 0
    let read := g.op == 1
    m.addAttach c [[{ src := c, cid := g.cid, chan := if read then 4 else 1, op := if read then 4 else 5,
                      tag := BitVec.ofNat 8 (g.slot * 64 + fld (thOrig g.hdr) 19 6), err := true, target := BitVec.ofNat 60 t,
                      why := .fabric g.slot g.serial, attach := true, front := m.cc + 1 }]]
  else m.unreachable e { op := g.op, tag := g.tag.toNat, hdr := g.hdr }

/-- A whole message leaves on the engine of its anchor; one that turns takes the time of R304. -/
def Mach.launchMsg (m : Mach) (e : Nat) (g : Gather) : Mach :=
  let tag := g.tag.toNat
  let fs := mkFrames (fabChan g.chan) (g.vc.getD (m.startVc e)) tag g.op g.err g.hdr g.body
  (m.openReq g).sendFrames e (m.streamOf e tag g.hdr) fs (if g.own then 0 else m.cc + transitCc)

/-- FABRIC_ATTACHMENT_SEND (R297, R299): the attachment of an anchor core takes up a finished answer, or the next mesh message, with
whose last a fabric message leaves. It takes none up while frames of the message's channel wait at the engine, or an engine-set change of its port drains (R313). -/
def attachmentSendAt (c : Nat) (m : Mach) : Mach :=
  let e := fieldOf c
  if !isAnchor c then m
  else match m.fabric.ins.find? fun q => q.anchor == c && q.host.isNone && q.meshDone && q.logDone with
    | some q => m.respondOut c q
    | none =>
      match (m.core c).attachIn with
      | none => m
      | some (key, f, fs) =>
        if (m.port (m.engPort e)).pendingSet.isSome || (m.eng e).queue.any fun x => x.src < transitSrc && frChan x.f == fabChan f.chan then m
        else
          let y := ((m.core c).loDrop key).gather f fs
          if y.2.whole then
            let m := m.setCore c y.1
            if (m.activeSet (m.engPort e)).contains (m.engIndex e) && m.portUp (m.engPort e) then m.launchMsg e y.2 else m.noEngine e c y.2
          else m.setCore c { y.1 with gathers := y.1.gathers ++ [y.2] }

/-! ## FABRIC_TIMEOUT (R300) -/

/-- A request not answered within FTIMEOUT: the mover descriptor fault, and no completion. -/
def fabricTimeoutAt (id : Nat) (m : Mach) : Mach :=
  match m.fabric.reqs.find? fun q => q.id == id with
  | none => m
  | some q => m.when (q.start + usCc (1000 * m.fabric.ftimeout) ≤ m.cc) fun m =>
      let m := { m with fabric := { m.fabric with reqs := m.fabric.reqs.filter fun x => x.id != id } }
      let m := m.onSlot q.core q.slot fun v =>
        if q.read then { v with run := { v.run with rids := v.run.rids.filter (· != q.rid) } }
        else { v with run := { v.run with facks := v.run.facks - 1 } }
      m.mvUnreachable q.core q.slot q.serial

/-! ## What goes on with time -/

/-- One cycle of the fabric: what waits for room, credits or tokens goes on as soon as it can. -/
def Mach.fabricCycle (m : Mach) : Mach :=
  let m := m.cores.foldl (fun m e => if e.2.attach.isEmpty then m else m.drainAttach e.1) m
  let m := (List.range 8).foldl (fun m p => m.retryOnward p) m.retryIn
  (List.range 56).foldl (fun m e => m.pump e) m

def execFabricMessageReceive (e : FieldIx) (frame : Bytes) (s : State) : Host.Outcome State Fault Refusal :=
  upd (messageReceiveAt e frame) s
def execFrameTransit (e : FieldIx) (frame : Bytes) (s : State) : Host.Outcome State Fault Refusal := upd (transitAt e frame) s
def execFabricAttachmentSend (c : CoreIx) (s : State) : Host.Outcome State Fault Refusal := upd (attachmentSendAt c) s
def execFabricTimeout (id : Nat) (s : State) : Host.Outcome State Fault Refusal := upd (fabricTimeoutAt id) s
def execOnwardLinkWaitExpiry (p : PortIx) (s : State) : Host.Outcome State Fault Refusal := upd (onwardExpiryAt p) s
def execLogWrite (cid : BitVec 10) (queue srcc : BitVec 32) (jobtag : BitVec 16) (time : BitVec 64) (data : Bytes) (s : State) :
    Host.Outcome State Fault Refusal :=
  upd (logWriteAt cid.toNat queue.toNat srcc.toNat jobtag.toNat time.toNat data) s

end Sys2Proof.Machine
end

