-- ==== Sys2Proof/Machine/Tick.lean ====
section
/-! DEFINITION. The tick of the clock, what a step does on an empty queue (R15, R16, R69; log 1). -/

namespace Sys2Proof.Machine

open Sys2Proof

/-- One TCLK tick at a slot's timer: at zero the expiry is due. -/
def timerTick (v : Slot) (tick : Nat) : Slot :=
  if v.ctl.st = .empty || v.ctl.timer = 0 then v
  else if v.ctl.timer = 1 then
    { v with ctl := { v.ctl with timer := 0 }, run := { v.run with due := true, expTick := some tick } }
  else { v with ctl := { v.ctl with timer := v.ctl.timer - 1 } }

/-- Whether a slot or plane of a context is RUNNING or PARKED (R280). -/
def Mach.ctxLive (m : Mach) (cid : Nat) : Bool :=
  m.cores.any fun e => e.2.slots.toList.any fun v =>
    v.ctl.cid.toNat == cid && (v.ctl.st == SlotSt.running || v.ctl.st == SlotSt.parked)

/-- Whether a steering unit of a plane has a message to send and cannot, as a module stands (R250). -/
def Mach.steerStuck (m : Mach) (c s u : Nat) : Bool :=
  match (m.core c).plane s with
  | none => false
  | some p => (match (m.core c).steerPlan s (lget p.steer u) m.cc with
    | some (_, some (q, o)) => !m.portRoom c s o (msgAt (m.core c) q 0).chunks.length 0
    | _ => false)

/-- Whether work of a context at a core waits only for tokens in this cycle (R268, R281): a slot's send, its mover descriptor or steering unit, an access of the
under-bank, a request at its controller or at the attachment, a sentry packet. free is the module without buckets. -/
def Mach.tokenWaits (m free : Mach) (c cid : Nat) : Bool :=
  let k := m.core c
  ((List.range 4).any fun s =>
    let v := k.slot s
    v.ctl.st != .empty && v.ctl.cid.toNat == cid &&
    ((v.ctl.block == 7 && free.blockOf c s != 7) || (!m.mvReady c s && free.mvReady c s) || (!m.xferReady c s && free.xferReady c s) ||
     (List.range 4).any fun u => m.steerStuck c s u && !free.steerStuck c s u)) ||
  (k.ubq.any fun q => k.accCid q == cid && !m.ubAble c q && free.ubAble c q) ||
  (k.ubWait.any fun x => x.1.cid.toNat == cid && free.ubCan c [] x) ||
  (k.attach.any fun l => match l with
    | f :: r => !f.fw && f.cid.toNat == cid && !m.attachRoom c (r.length + 1) f && free.attachRoom c (r.length + 1) f
    | [] => false) ||
  (k.prep.any fun p => p.1.cid.toNat == cid && !m.hasFlitTok c cid 1 (min 1 (seams c p.1.partner)))

/-- Whether a substitution suspends the reservations of a context, which then counts against neither its hang limit nor its deadlines (R277). -/
def Mach.suspended (m : Mach) (x : Ctx) : Bool := m.wafer.subst.toList.any fun e => e.holding && x.slots.any fun s => s.core == e.orig

/-- A cycle of the progress clocks and of TOKEN_WAIT (R277, R280, R281). -/
def Mach.progressCycle (m : Mach) : Mach :=
  let free := { m with buckets := [] }
  let wait (cid : Nat) : Nat := if m.buckets.isEmpty then 0 else (m.cores.filter fun e => m.tokenWaits free e.1 cid).length
  { m with ctxs := amap m.ctxs fun cid x =>
      { x with clock := if x.st == .admitted && m.ctxLive cid && !m.suspended x then x.clock + 1 else x.clock,
               prog := { x.prog with tokenWait := inc64 x.prog.tokenWait (wait cid) } } }

/-- A TCLK tick of HELD_TIME (R281). -/
def Mach.heldTick (m : Mach) : Mach :=
  { m with ctxs := amap m.ctxs fun cid x =>
      { x with prog := { x.prog with heldTime := inc64 x.prog.heldTime (b2n (m.heldFor cid)) } } }

/-- One tick of TCLK. -/
def Mach.oneTick (m : Mach) : Mach :=
  let m := { m with clk := { m.clk with tclk := m.clk.tclk + 1 } }
  (m.traceMarkers.heldTick).mapCores fun _ k => { k with slots := k.slots.map (fun (v : Slot) => timerTick v m.now.toNat) }

/-- TCLK advances with every twelfth cycle while the root PLL is locked (R16); while it slews, one tick in 1,024 is added or skipped
(R325). DESIGN CHOICE (log 92): the ticks fall in the cycles whose number is a multiple of twelve, whenever the PLL locked. -/
def Mach.tclkTick (m : Mach) : Mach :=
  if m.clk.locked && m.clk.cc % 12 == 0 then
    let m := { m with clk := { m.clk with ticks := m.clk.ticks + 1 } }
    if m.clk.ticks % 1024 = 0 && 0 < m.clk.slew then
      ({ m with clk := { m.clk with slew := m.clk.slew - 1 } }).oneTick.oneTick
    else if m.clk.ticks % 1024 = 0 && m.clk.slew < 0 then { m with clk := { m.clk with slew := m.clk.slew + 1 } }
    else m.oneTick
  else m

/-- The end of a cycle at one core: its sequencer's cycle if it has not had it, the rows of its TILE.STs, the router's stalls, the granule slots that nothing took, and
the conditions of R358. -/
def Mach.endCycle (m : Mach) (c : Nat) : Mach :=
  let m := ((((m.countCycle c).2).countStalls c).aggFlush c).senAdvance c
  let m := m.ubRun c (m.core c).ubWait.length
  let m := if (m.core c).hasCycle m.cc then (m.stAdvance c).steerEnd c else m
  m.onCore c fun k =>
    let k := if k.pwr.logic == .on && !cycleRemoved k.pwr m.cc then k.moverIdle m.cc else k
    let k := if k.remote.isEmpty then k else { k with remote := [] }
    (if k.quiet m.cc then k else { k with pwr := { k.pwr with busyAt := m.cc } }).parkWatch m.cc |>.emptyRest c m.cc

/-- What an idle step does: the cycle ends at every core, and the next cycle starts. -/
def tick (m : Mach) : Mach :=
  let m := m.cores.foldl (fun m e => m.endCycle e.1) m
  let m := m.progressCycle.fabricCycle.installDetours
  let m := Mach.tclkTick { m with clk := { m.clk with cc := m.clk.cc + 1 } }
  m.cores.foldl (fun m e => (m.cycleStart e.1).detectorStart e.1) m

end Sys2Proof.Machine
end

