-- ==== Sys2Proof/Machine/Host.lean ====
section
/-! DEFINITION. The host interface: rings, doorbells, the mailbox, completions, interrupts and events (R326 to R340, R345, R349 to
R351), CSR_WRITE (R10), and the frame in which every host command runs. -/

namespace Sys2Proof.Machine

open Sys2Proof

/-! ## Functions -/

/-- The management port, which acts with PF rights (R456). -/
def mgmtFn : Nat := 512

/-- Whether a function has PF rights (R327, R456). -/
def isPf (f : Nat) : Bool := f % 256 == 0

/-- The port of a function. -/
def portOf (f : Nat) : Nat := f / 256

/-- Whether a port's link is up. -/
def Mach.hostUp (m : Mach) (p : Nat) : Bool := vget m.host.portUp p

/-- The entries of a ring. -/
def Ring.size (r : Ring) : Nat := 2 ^ r.n

/-- Whether the completion ring has a free entry (R335): one entry stays unused, as in the command ring. -/
def Ring.free (r : Ring) : Bool := (r.cplTail + 1) % r.size != r.cplHead

/-- Completions that DB_CPL_HEAD has not passed (R349). -/
def Ring.unread (r : Ring) : Nat := (r.cplTail + r.size - r.cplHead) % r.size

/-- The event ring of a function. -/
def Fn.eventRing (x : Fn) : Option Nat := (x.rings.find? fun e => e.2.events).map (·.1)

def Mach.onRing (m : Mach) (f r : Nat) (g : Ring → Ring) : Mach := m.onFn f fun x =>
  match aget x.rings r with
  | some y => { x with rings := aset x.rings r (g y) }
  | none => x

/-- Rings taken on the device. -/
def Mach.ringsTaken (m : Mach) : Nat := (m.host.fns.map fun e => e.2.rings.length).sum

/-! ## Host memory -/

/-- Bytes written into host memory. -/
def Mach.hostPut (m : Mach) (addr : Nat) (b : Bytes) : Mach := { m with host := { m.host with mem := memWrite m.host.mem addr b } }

/-- A host violation (R339): counted for the function, in the life log with the function, and reported where the rule says. -/
def Mach.violation (m : Mach) (f detail : Nat) (event : Bool) : Mach :=
  let m := m.onFn f fun x => { x with viols := x.viols + 1 }
  let m := (m.logRec 0x0C 0xFFFF 0xFFFF (toBytes 2 f ++ toBytes 8 m.now.toNat)).logCount 0x6C
  if event then m.raise f (m.event 0xF 0 0 0 detail 0) else m

/-! ## Interrupts (R349) -/

/-- The MSI-X word that holds a vector's control (R328); masked before software writes it (log 19). -/
def Fn.msixCtl (x : Fn) (v : Nat) : BitVec 64 := agetD x.msix (2 * v + 1) 0x100000000

/-- Raise a vector: pending while masked. -/
def Mach.interrupt (m : Mach) (f v : Nat) : Mach :=
  if bitOf ((m.fn f).msixCtl v).toNat 32 then m.onFn f fun x => { x with pba := if x.pba.contains v then x.pba else v :: x.pba }
  else { m with host := { m.host with interrupts := (f, v) :: m.host.interrupts } }

/-- After an entry of a ring: the vector at ICOUNT pending completions, or at once (R349). -/
def Mach.ringInt (m : Mach) (f r : Nat) (atOnce : Bool) : Mach :=
  match aget (m.fn f).rings r with
  | none => m
  | some y =>
    if y.icount = 0 then m
    else if atOnce || y.icount ≤ y.unread then (m.interrupt f y.vector).onRing f r fun y => { y with oldest := none }
    else m

/-! ## Entries (R333, R335) -/

/-- The 32 bytes of an entry. -/
def cplBytes (e : Cpl) (sqhead : Nat) (phase : Bool) : Bytes :=
  toBytes 2 e.tag.toNat ++ toBytes 2 e.status.toNat ++ toBytes 2 sqhead ++ toBytes 2 (b2n phase + 2 * b2n e.event) ++
    toBytes 8 e.res0.toNat ++ toBytes 16 e.res1.toNat

/-- Write an entry into a ring that has room. -/
def Mach.writeEntry (m : Mach) (f r : Nat) (e : Cpl) (atOnce : Bool) : Mach :=
  match aget (m.fn f).rings r with
  | none => m
  | some y =>
    let m := m.hostPut (y.cplBase + 32 * y.cplTail) (cplBytes e y.head (y.pass % 2 == 0))
    let tail := (y.cplTail + 1) % y.size
    let m := m.onRing f r fun y => { y with cplTail := tail, pass := y.pass + b2n (tail == 0), pendingInt := y.pendingInt + 1,
                                            oldest := some (y.oldest.getD m.cc) }
    m.ringInt f r atOnce

/-- An entry for a ring: written, or kept while there is no free entry or others are kept. -/
def Mach.putEntry (m : Mach) (f r : Nat) (e : Cpl) (atOnce : Bool) : Mach :=
  match aget (m.fn f).rings r with
  | none => m
  | some y =>
    if y.free && y.kept.isEmpty then m.writeEntry f r e atOnce
    else m.onRing f r fun y => { y with kept := y.kept ++ [e] }

/-- Write kept entries while there is room. -/
def Mach.flushKept (m : Mach) (f r : Nat) : Nat → Mach
  | 0 => m
  | n + 1 =>
    match aget (m.fn f).rings r with
    | none => m
    | some y =>
      match y.kept with
      | e :: rest => if y.free then
          ((m.onRing f r fun y => { y with kept := rest }).writeEntry f r e false).flushKept f r n else m
      | [] => m

/-! ## Events (R350, R351) -/

/-- Keep an event for a function: 256 at most, the oldest discarded and counted. -/
def Fn.keep (x : Fn) (e : Cpl) : Fn :=
  if x.kept.length < 256 then { x with kept := x.kept ++ [e] }
  else { x with kept := x.kept.drop 1 ++ [e], lostEvents := x.lostEvents + 1 }

/-- Write a function's kept events into its event ring while there is room, event 0x0010 first. -/
def Mach.flushEvents (m : Mach) (f : Nat) : Nat → Mach
  | 0 => m
  | n + 1 =>
    let x := m.fn f
    match x.eventRing with
    | none => m
    | some r =>
      match aget x.rings r with
      | none => m
      | some y =>
        if !y.free || !y.kept.isEmpty then m
        else if x.lostEvents ≠ 0 then
          ((m.onFn f fun x => { x with lostEvents := 0 }).writeEntry f r (m.event 0x10 0 0 0 x.lostEvents 0) false).flushEvents f n
        else match x.kept with
          | e :: rest => ((m.onFn f fun x => { x with kept := rest }).writeEntry f r e false).flushEvents f n
          | [] => m

/-- Whether an event for a function also leaves by the management port: for a PF while both ports are down (R327, R456). -/
def Mach.viaMgmt (m : Mach) (f : Nat) : Bool := (isPf f && !m.hostUp 0 && !m.hostUp 1) && m.host.mgmtSeen && m.host.mgmtUp

/-- A datagram out of the management port. -/
def Mach.mgmtSend (m : Mach) (b : Bytes) : Mach := { m with host := { m.host with mgmtOut := b :: m.host.mgmtOut } }

/-- EVENT_POST (R350, R351): the oldest raised event of a function is written or kept. -/
def eventPostAt (f : Nat) (m : Mach) : Mach :=
  match (m.fn f).raised with
  | [] => m
  | e :: rest =>
    let m := m.onFn f fun x => { x with raised := rest }
    let m := if m.viaMgmt f then m.mgmtSend (cplBytes e 0 true) else m
    let x := m.fn f
    let room := match x.eventRing.bind (aget x.rings) with
      | some y => y.free && y.kept.isEmpty && x.kept.isEmpty && m.hostUp (portOf f)
      | none => false
    match room, x.eventRing with
    | true, some r => m.writeEntry f r e false
    | _, _ => m.onFn f fun x => x.keep e

/-! ## Commands (R332, R334, R338 to R340) -/

/-- Argument bytes that a command uses (R341); none for an opcode not listed. -/
def argLen (op : Nat) (arg : Bytes) : Option Nat :=
  let b0 := le arg 0 1
  match op with
  | 0x0001 => some 24
  | 0x0002 | 0x0100 | 0x0102 => some 1
  | 0x0101 | 0x0103 | 0x0121 | 0x0133 | 0x0140 | 0x0161 | 0x0170 | 0x0190 | 0x0192 => some 0
  | 0x0110 => some (match b0 with
    | 0 => 19
    | 1 => 15
    | 2 => 10
    | 3 => 6
    | _ => 40)
  | 0x0111 => some 6
  | 0x0112 => some 8
  | 0x0120 => some (if b0 = 0 then 1 else 10)
  | 0x0130 => some 13
  | 0x0131 | 0x0132 => some 8
  | 0x0150 => some 9
  | 0x0160 => some 4
  | 0x0171 => some 8
  | 0x0172 => some 9
  | 0x0173 => some (if le arg 2 1 = 1 then 7 else 3)
  | 0x0174 => some 1
  | 0x0180 => some 5
  | 0x0181 => some 9
  | 0x0182 => some 14
  | 0x0183 => some 3
  | 0x0191 => some 2
  | 0x0193 => some 8
  | _ => none

/-- A command from the 64 bytes of its entry (R332). -/
def parseCmd (f : Nat) (via : Via) (e : Bytes) (stamp : BitVec 64) (data : Bytes) : Cmd :=
  { fn := f, tag := le e 2 2, via := via, opcode := le e 0 2, cid := le e 4 2, flags := BitVec.ofNat 16 (le e 6 2),
    addr := le e 8 8, len := le e 16 4, arg := padTo (e.drop 0x18) 40, stamp := stamp, data := data }

/-- A malformed entry (R339): reserved bits or bytes, TAG 0xFFFF, a misaligned ADDR. -/
def malformed (x : Cmd) (e : Bytes) : Bool :=
  e.length != 64 || x.tag == 0xFFFF || x.flags.toNat / 8 != 0 || le e 0x14 4 != 0 || x.addr % 4 != 0 ||
  (x.cid != 0xFFFF && x.cid / 1024 != 0) ||
  (match argLen x.opcode x.arg with
   | some n => (x.arg.drop n).any fun b => b != 0
   | none => false)

/-- Opcodes for PFs only, by opcode and kind (R341). -/
def pfOnly (x : Cmd) : Bool :=
  [0x0160, 0x0170, 0x0171, 0x0172, 0x0173, 0x0191, 0x0192, 0x0193].contains x.opcode ||
  (x.opcode == 0x0150 && [1, 4, 5].contains (le x.arg 0 1))

/-- Opcodes that name a context. -/
def namesCtx (x : Cmd) : Bool :=
  [0x0101, 0x0102, 0x0103, 0x0110, 0x0111, 0x0112, 0x0120, 0x0121, 0x0130, 0x0131, 0x0132, 0x0133, 0x0174, 0x0180, 0x0181,
   0x0182].contains x.opcode || (x.opcode == 0x0150 && [2, 3].contains (le x.arg 0 1))

/-- Opcodes carried out before READY and in minimal mode (R345). -/
def earlyOp (op : Nat) : Bool :=
  [0x0001, 0x0002, 0x0140, 0x0150, 0x0161, 0x0190, 0x0191, 0x0192, 0x0193].contains op

/-- Variants that no row carries out: an argument out of range (R338). -/
def badVariant (x : Cmd) : Bool :=
  let b0 := le x.arg 0 1
  match x.opcode with
  | 0x0110 => 3 < b0
  | 0x0111 => 2 < b0
  | 0x0120 => 1 < b0
  | 0x0150 => b0 = 0 || 5 < b0
  | 0x0172 => b0 = 0 || 5 < b0
  | 0x0173 => le x.arg 2 1 = 0 || 5 < le x.arg 2 1
  | 0x0183 => le x.arg 1 1 = 0 || 4 < le x.arg 1 1
  | 0x0193 => b0 = 0 || 2 < b0
  | _ => false

/-- What firmware answers to an entry before it carries anything out (R338 to R340, R345, R456), in the order of log 25; none
when the command may start. -/
def Mach.entryStatus (m : Mach) (x : Cmd) (e : Bytes) : Option Nat :=
  if malformed x e then some 0x0107
  else if m.host.cmds.any fun y => y.fn == x.fn && y.tag == x.tag then some 0x0108
  else if (argLen x.opcode x.arg).isNone || (x.opcode == 0x0183 && x.fn != mgmtFn) then some 0x0101
  else if (!m.boot.ready || m.boot.minimal) && !earlyOp x.opcode then some 0x0404
  else if m.boot.stage ≤ 2 && x.opcode ≠ 0x0190 && x.opcode ≠ 0x0192 then some 0x0404
  else if m.boot.life = .retired && !earlyOp x.opcode then some 0x0503
  else if pfOnly x && !isPf x.fn then some 0x0502
  else if namesCtx x && !(x.opcode == 0x0132 && isPf x.fn && (aget m.fabric.twin x.cid).isSome) && !(match m.ctx (x.cid % 1024) with
      | some y => x.cid < 1024 && (isPf x.fn || y.owner == x.fn)
      | none => false) then some 0x0103
  else if badVariant x then some 0x0102
  else none

/-- A completion of a command. -/
def cplOf (x : Cmd) (status res0 : Nat) (res1 : Nat := 0) : Cpl :=
  { tag := BitVec.ofNat 16 x.tag, status := BitVec.ofNat 16 status, res0 := BitVec.ofNat 64 res0,
    res1 := BitVec.ofNat 128 res1 }

/-- An entry submitted by a function: a command in progress, or one that is answered at once. -/
def Mach.submit (m : Mach) (f : Nat) (via : Via) (e : Bytes) (data : Bytes) (waiting : Bool) : Mach :=
  let x := parseCmd f via e m.now data
  let st := m.entryStatus x e
  let m := if st = some 0x0107 || st = some 0x0108 then m.violation f 0 false else m
  let x := { x with order := m.host.nextOrder, waiting := waiting, result := st.map fun s => cplOf x s 0 }
  { m with host := { m.host with cmds := m.host.cmds ++ [x], nextOrder := m.host.nextOrder + 1 } }

/-- Whether two commands come from one ring. -/
def sameRing (a b : Cmd) : Bool := a.fn == b.fn && a.via == b.via

/-- Whether a command comes before another (R334): by the tick of its doorbell, within a tick by function number, which takes port 0 first, and within a function in the order
in which it came. -/
def Cmd.before (x y : Cmd) : Bool :=
  if x.stamp == y.stamp then (if x.fn = y.fn then x.order < y.order else x.fn < y.fn) else x.stamp.toNat < y.stamp.toNat

/-- Whether a command waits for its ring: behind a full completion ring, or under ORDER (R332, R335). -/
def Mach.blockedCmd (m : Mach) (x : Cmd) : Bool :=
  x.waiting || (bitOf x.flags.toNat 2 && m.host.cmds.any fun y => sameRing x y && y.order < x.order)

/-- Whether firmware may start a command now (R334): every earlier one has started, or waits for its ring. -/
def Mach.mayStart (m : Mach) (x : Cmd) : Bool :=
  1 ≤ m.boot.stage && !m.boot.held && !m.boot.off && !m.blockedCmd x &&
  !(m.host.cmds.any fun y => y.before x && y.result.isNone && !y.started && !m.blockedCmd y)

def Mach.onCmd (m : Mach) (order : Nat) (g : Cmd → Cmd) : Mach :=
  { m with host := { m.host with cmds := m.host.cmds.map fun x => if x.order == order then g x else x } }

/-- A command's result; COMMAND_COMPLETION delivers it. -/
def Mach.done (m : Mach) (x : Cmd) (status : Nat) (res0 : Nat := 0) (res1 : Nat := 0) : Mach :=
  m.onCmd x.order fun y => { y with started := true, result := some (cplOf x status res0 res1) }

/-- The command of a function with a tag that has no result yet, and an opcode. -/
def Mach.cmdFor (m : Mach) (f tag op : Nat) : Option Cmd :=
  m.host.cmds.find? fun x => x.fn == f && x.tag == tag && x.opcode == op && x.result.isNone

/-- A host command's row: its command starts, and is marked as started. -/
def Mach.runCmd (m : Mach) (f tag op : Nat) (pick : Cmd → Bool) (body : Cmd → Mach → Mach) : Mach :=
  match m.cmdFor f tag op with
  | none => m
  | some x =>
    m.when (!x.started && pick x && m.mayStart x) fun m =>
      body x (m.onCmd x.order fun y => { y with started := true, since := m.cc })

/-- The state of the context a command names (R262): the status that refuses it, or none. -/
def Mach.ctxStatus (m : Mach) (x : Cmd) (allowed : CtxSt → Bool) : Option Nat :=
  match m.ctx x.cid with
  | none => some 0x0103
  | some y =>
    if allowed y.st then none
    else if y.st = .resetting || y.st = .destroying then some 0x0401 else some 0x0402

/-- A command on an ADMITTED context (R262). -/
def Mach.onAdmitted (m : Mach) (x : Cmd) (body : Ctx → Mach → Mach) : Mach :=
  match m.ctxStatus x (fun st => st == .admitted), m.ctx x.cid with
  | none, some y => body y m
  | some s, _ => m.done x s
  | none, none => m.done x 0x0103

/-- The bytes a command reads from its host buffer: LEN of them; none for a failed access (R339). -/
def cmdData (x : Cmd) (data : Option Bytes) : Option Bytes :=
  if x.fn = mgmtFn then some (padTo x.data x.len) else data.map fun b => padTo b x.len

/-- A failed access to host memory (R339). -/
def Mach.dmaError (m : Mach) (x : Cmd) : Mach := (m.violation x.fn 0 false).done x 0x0602

/-- A command that reads its host buffer. -/
def Mach.withData (m : Mach) (x : Cmd) (data : Option Bytes) (body : Bytes → Mach → Mach) : Mach :=
  match cmdData x data with
  | some b => body b m
  | none => m.dmaError x

/-- A command's result bytes into its host buffer, or into the datagrams of the management port; then its completion. -/
def Mach.doneWith (m : Mach) (x : Cmd) (ok : Bool) (b : Bytes) (res0 : Nat) : Mach :=
  if x.fn = mgmtFn then (m.onCmd x.order fun y => { y with out := b }).done x 0 res0
  else if ok then (m.hostPut x.addr b).done x 0 res0
  else m.dmaError x

/-- A command whose result needs n bytes of buffer (R338). -/
def Mach.doneIfFits (m : Mach) (x : Cmd) (ok : Bool) (b : Bytes) : Mach :=
  if x.len < b.length then m.done x 0x0105 b.length else m.doneWith x ok b b.length

/-! ## Rings (R330 to R335) -/

/-- RING_CREATE (R330). -/
def ringCreateAt (f tag : Nat) (m : Mach) : Mach :=
  m.runCmd f tag 0x0001 (fun _ => true) fun x m =>
    let r := le x.arg 0 1
    let n := le x.arg 1 1
    let v := le x.arg 2 2
    let cb := le x.arg 8 8
    let pb := le x.arg 16 8
    let fn := m.fn f
    let bad := (aget fn.rings r).isSome || n < 4 || 16 < n || v = 0 || 2047 < v || 1 < le x.arg 5 1 || 1000 < le x.arg 6 2 ||
      cb % 4096 ≠ 0 || pb % 4096 ≠ 0 || (le x.arg 5 1 = 1 && fn.eventRing.isSome) || f = mgmtFn
    if bad then m.done x 0x0102
    else if 4096 ≤ m.ringsTaken then m.done x 0x0209
    else
      let y : Ring := { cmdBase := cb, cplBase := pb, n := n, vector := v, icount := le x.arg 4 1, itime := le x.arg 6 2,
                        events := le x.arg 5 1 == 1 }
      ((m.onFn f fun z => { z with rings := aset z.rings r y }).flushEvents f 300).done x 0

/-- RING_DESTROY (R330): done once every other command of the ring is. -/
def ringDestroyAt (f tag : Nat) (m : Mach) : Mach :=
  match m.cmdFor f tag 0x0002 with
  | none => m
  | some x =>
    let r := le x.arg 0 1
    let busy := m.host.cmds.any fun y => y.fn == f && y.via == .ring r && y.order != x.order
    let kept := match aget (m.fn f).rings r with
      | some y => !y.kept.isEmpty
      | none => false
    if !x.started && !m.mayStart x then m
    else if (aget (m.fn f).rings r).isNone || x.via = .ring r then m.done x 0x0102
    else if busy || kept then m.onCmd x.order fun y => { y with started := true }
    else (m.onFn f fun z => { z with rings := adel z.rings r }).done x 0

/-- The answer to a bad doorbell (R339): an entry with TAG 0xFFFF on the ring, or else in the event ring. -/
def Mach.badDoorbell (m : Mach) (f r : Nat) : Mach :=
  let m := m.violation f r false
  let e : Cpl := { tag := 0xFFFF, status := 0x0106 }
  if (aget (m.fn f).rings r).isSome then m.putEntry f r e false
  else match (m.fn f).eventRing with
    | some q => m.putEntry f q e false
    | none => m.onFn f fun x => x.keep e

/-- DB_CMD_TAIL_WRITE (R334, R335, R339): firmware stamps the doorbell and reads the entries up to the tail. A ring whose completion ring has no free entry is not
consumed. -/
def dbTailAt (f r v : Nat) (entries : Option (List Bytes)) (m : Mach) : Mach :=
  m.when (f < mgmtFn && m.hostUp (portOf f)) fun m =>
    let t := v % 65536
    match aget (m.fn f).rings r with
    | none => m.badDoorbell f r
    | some y =>
      if y.size ≤ t then m.badDoorbell f r
      else
        let n := (t + y.size - y.tail) % y.size
        let m := m.onRing f r fun y => { y with tail := t }
        match entries with
        | none => (m.violation f 0 false).putEntry f r { tag := 0xFFFF, status := 0x0602 } false
        | some es =>
          let stall := !y.free || !y.kept.isEmpty
          let m := (es.take n).foldl (fun m e => m.submit f (.ring r) e [] stall) m
          if stall then m else m.onRing f r fun y => { y with head := (y.head + min n es.length) % y.size }

/-- Commands of a ring that firmware consumes again (R335). -/
def Mach.resume (m : Mach) (f r : Nat) : Mach :=
  match aget (m.fn f).rings r with
  | none => m
  | some y =>
    if !y.free || !y.kept.isEmpty then m
    else
      let mine (x : Cmd) : Bool := x.fn == f && x.via == .ring r && x.waiting
      let n := (m.host.cmds.filter mine).length
      let m := { m with host := { m.host with cmds := m.host.cmds.map fun x => if mine x then { x with waiting := false } else x } }
      m.onRing f r fun y => { y with head := (y.head + n) % y.size }

/-- DB_CPL_HEAD_WRITE (R335, R349). -/
def dbHeadAt (f r v : Nat) (m : Mach) : Mach :=
  m.when (f < mgmtFn && m.hostUp (portOf f)) fun m =>
    let h := v % 65536
    match aget (m.fn f).rings r with
    | none => m.badDoorbell f r
    | some y =>
      if y.size ≤ h then m.badDoorbell f r
      else
        let used := (h + y.size - y.cplHead) % y.size
        let m := if y.unread < used then m else m.onRing f r fun y =>
          { y with cplHead := h, pendingInt := y.pendingInt - used, oldest := if used = y.unread then none else y.oldest }
        ((m.flushKept f r 65536).flushEvents f 300).resume f r

/-! ## The mailbox (R336, R337, R339) -/

/-- The command entry in MB_CMD. -/
def Fn.mbEntry (x : Fn) : Bytes := (x.mbCmd.toList.map fun w => toBytes 8 w.toNat).flatten

/-- MB_DOORBELL (R337). -/
def mbDoorbellAt (f v : Nat) (m : Mach) : Mach :=
  m.when (v % 2 = 1 && f < mgmtFn && m.hostUp (portOf f)) fun m =>
    if (m.fn f).busy then (m.onFn f fun x => { x with viol := true, violAt := some m.cc }).violation f 0x2080 true
    else (m.onFn f fun x => { x with busy := true }).submit f .mailbox (m.fn f).mbEntry [] false

/-- MB_STATUS_READ (R336): DONE and VIOL are cleared by the read; one that was set in the cycle of the read is not in the value read, and stays (R11). -/
def mbStatusReadAt (f : Nat) (m : Mach) : Mach :=
  m.onFn f fun x =>
    let done := x.done && x.doneAt != some m.cc
    let viol := x.viol && x.violAt != some m.cc
    { x with readValue := BitVec.ofNat 64 (b2n x.busy + 2 * b2n done + 4 * b2n viol), done := x.done && !done, viol := x.viol && !viol }

/-- Offsets of BAR0 that no software register has, and the status page (R328). -/
def bar0Reserved (off : Nat) : Bool :=
  off < 0x1000 || (0x2098 ≤ off && off < 0x10000) || 0x18100 ≤ off

/-- BAR0_RESERVED_WRITE (R339). -/
def bar0ReservedAt (f off : Nat) (m : Mach) : Mach := m.when (bar0Reserved off && f < mgmtFn) fun m => m.violation f off true

/-! ## COMMAND_COMPLETION (R333) -/

/-- A completed command leaves the list of those in progress. -/
def Mach.dropCmd (m : Mach) (order : Nat) : Mach :=
  { m with host := { m.host with cmds := m.host.cmds.filter fun x => x.order != order } }

/-- Bytes in datagrams of at most 1,024 B. -/
def datagrams (seq : BitVec 32) : Nat → Bytes → List Bytes
  | 0, _ => []
  | n + 1, b => if b.isEmpty then [] else (toBytes 4 seq.toNat ++ b.take 1024) :: datagrams seq n (b.drop 1024)

/-- What a context's state becomes when its CTX_RESET or CTX_DESTROY completes; its job tags are valid again after a reset (R262, R278,
R279). -/
def Mach.afterCompletion (m : Mach) (x : Cmd) : Mach :=
  let ok := match x.result with
    | some e => e.status == 0
    | none => false
  match m.ctx x.cid with
  | none => m
  | some y =>
    if ok && x.opcode = 0x0102 && y.st = .resetting then
      let st := if y.heldDestroy.isSome then CtxSt.destroying else .admitted
      let m := m.onCtx x.cid fun y => { y with st := st, prog := { y.prog with resets := y.prog.resets + 1 } }
      { m with fabric := { m.fabric with jobs := m.fabric.jobs.map fun j =>
          if j.cid.toNat = x.cid then { j with revoked := false } else j } }
    else if ok && x.opcode = 0x0103 && y.st = .destroying then { m with ctxs := adel m.ctxs x.cid }
    else m

/-- LOADs of a message whose part in the mesh and the input log is done get their results (R343, R344). -/
def Mach.settleLoads (m : Mach) : Mach :=
  let ready (q : InReq) : Bool := q.host.isSome && q.meshDone && q.logDone
  let m := (m.fabric.ins.filter ready).foldl (fun m q => match m.host.cmds.find? fun x => some x.order == q.host with
    | some x => m.done x (if q.err then 0x0603 else 0)
    | none => m) m
  { m with fabric := { m.fabric with ins := m.fabric.ins.filter fun q => !ready q } }

/-- COMMAND_COMPLETION (R333, R335 to R337, R456): the entry of a command with a result is written. A ring whose host memory
does not take it gets it again, with DMA_ERROR, once DB_CPL_HEAD is written. -/
def completionAt (f tag : Nat) (ok : Bool) (m : Mach) : Mach :=
  let m := m.settleLoads
  match m.host.cmds.find? fun x => x.fn == f && x.tag == tag && x.result.isSome && !x.waiting with
  | none => m
  | some x =>
    let e := x.result.getD {}
    let m := (m.dropCmd x.order).afterCompletion x
    match x.via with
    | .ring r =>
      if ok then m.putEntry f r e (bitOf x.flags.toNat 0)
      else (m.violation f 0 false).onRing f r fun y => { y with kept := y.kept ++ [{ e with status := 0x0602 }] }
    | .mailbox =>
      let m := m.onFn f fun y => { y with busy := false, done := true, doneAt := some m.cc, mbCpl := BitVec.ofNat 256 (ofBytes (cplBytes e 0 true)) }
      if (m.fn f).intr then m.interrupt f 0 else m
    | .mgmt seq => (datagrams seq (x.out.length + 1) x.out).foldl Mach.mgmtSend (m.mgmtSend (toBytes 4 seq.toNat ++ cplBytes e 0 true))

/-- INTERRUPT_COALESCE (R349): ITIME has passed since the oldest pending completion. -/
def coalesceAt (f r : Nat) (m : Mach) : Mach :=
  match aget (m.fn f).rings r with
  | none => m
  | some y =>
    m.when (y.icount != 0 && y.unread != 0 && (match y.oldest with
        | some t => t + usCc y.itime ≤ m.cc
        | none => false)) fun m =>
      (m.interrupt f y.vector).onRing f r fun y => { y with oldest := none }

/-! ## CSR_WRITE (R10, R13, R328, R336) -/

/-- A write of software to BAR0: MB_CMD, MB_CTRL and the MSI-X table; an unmasked pending vector is sent. -/
def Mach.bar0Write (m : Mach) (f off x : Nat) : Mach :=
  if 0x2000 ≤ off && off < 0x2040 && off % 8 = 0 then
    m.onFn f fun y => { y with mbCmd := vset y.mbCmd ((off - 0x2000) / 8) (BitVec.ofNat 64 x) }
  else if off = 0x2090 then m.onFn f fun y => { y with intr := bitOf x 0 }
  else if 0x10000 ≤ off && off < 0x18000 && off % 8 = 0 then
    let w := (off - 0x10000) / 8
    let m := m.onFn f fun y => { y with msix := aset y.msix w (BitVec.ofNat 64 x) }
    let v := w / 2
    if w % 2 = 1 && !bitOf x 32 && (m.fn f).pba.contains v then
      (m.onFn f fun y => { y with pba := y.pba.filter (· != v) }).interrupt f v
    else m
  else m

/-- CSR_WRITE (R10). -/
def csrWriteAt (p : RegPage) (off : Nat) (v : Nat) (m : Mach) : Mach :=
  match p with
  | .core c s => m.fwCsrWrite c s off v
  | .bar0 f => m.when (f.val < mgmtFn) fun m => m.bar0Write f off v

def execRingCreate (f : FnIx) (tag : BitVec 16) (s : State) : Host.Outcome State Fault Refusal := upd (ringCreateAt f tag.toNat) s
def execRingDestroy (f : FnIx) (tag : BitVec 16) (s : State) : Host.Outcome State Fault Refusal :=
  upd (ringDestroyAt f tag.toNat) s
def execDbCmdTailWrite (f : FnIx) (r : BitVec 8) (v : BitVec 64) (entries : Option (List Bytes)) (s : State) :
    Host.Outcome State Fault Refusal := upd (dbTailAt f r.toNat v.toNat entries) s
def execDbCplHeadWrite (f : FnIx) (r : BitVec 8) (v : BitVec 64) (s : State) : Host.Outcome State Fault Refusal :=
  upd (dbHeadAt f r.toNat v.toNat) s
def execMbDoorbell (f : FnIx) (v : BitVec 64) (s : State) : Host.Outcome State Fault Refusal := upd (mbDoorbellAt f v.toNat) s
def execMbStatusRead (f : FnIx) (s : State) : Host.Outcome State Fault Refusal := upd (mbStatusReadAt f) s
def execBar0ReservedWrite (f : FnIx) (off : BitVec 24) (s : State) : Host.Outcome State Fault Refusal :=
  upd (bar0ReservedAt f off.toNat) s
def execCommandCompletion (f : FnIx) (tag : BitVec 16) (ok : Bool) (s : State) : Host.Outcome State Fault Refusal :=
  upd (completionAt f tag.toNat ok) s
def execInterruptCoalesce (f : FnIx) (r : BitVec 8) (s : State) : Host.Outcome State Fault Refusal :=
  upd (coalesceAt f r.toNat) s
def execEventPost (f : FnIx) (s : State) : Host.Outcome State Fault Refusal := upd (eventPostAt f) s
def execCsrWrite (p : RegPage) (off : BitVec 24) (v : BitVec 64) (s : State) : Host.Outcome State Fault Refusal :=
  upd (csrWriteAt p off.toNat v.toNat) s

end Sys2Proof.Machine
end

