-- ==== Sys2Proof/Machine/Config.lean ====
section
/-! DEFINITION. The configuration block of a context (R342) and the checks of its windows, job tags and groups (R142, R143, R195,
R295). -/

namespace Sys2Proof.Machine

open Sys2Proof

/-- A configuration block as read (R342). -/
structure CfgBlock where
  slots : List CtxSlot := []
  wins : List (Nat × Nat × Vector (BitVec 64) 8) := []
  resv : List Resv := []
  dead : Deadline := {}
  hangGiven : Bool := false
  tags : List JobTag := []
  groups : AMap (BitVec 60) := []
  bad : Bool := false
  deriving DecidableEq, Repr, Inhabited

/-- Size of an entry of a section type; none for a type that R342 does not list. -/
def entrySize (type : Nat) : Option Nat :=
  match type with
  | 1 => some 16
  | 2 => some 72
  | 3 => some 16
  | 4 => some 56
  | 5 => some 32
  | 6 => some 8
  | _ => none

/-- A slot entry. -/
def slotEntry (b : Bytes) : CtxSlot × Bool :=
  ({ core := le b 0 4, slot := le b 4 1, weight := le b 5 1, accRows := le b 6 1, cbanks := le b 7 1,
     qmask := BitVec.ofNat 8 (le b 8 1), resMask := BitVec.ofNat 8 (le b 9 1), hmask := BitVec.ofNat 32 (le b 10 4) },
   3 < le b 4 1 || 16 < le b 5 1 || 8 < le b 6 1 || 4 < le b 7 1 || 64 ≤ le b 9 1 || le b 14 2 != 0 || nCores ≤ le b 0 4)

/-- Reserved bits of the window registers that are not 0 (R142). -/
def winReserved (w : Nat → Nat) : Bool :=
  w 0 / 2 ^ 19 != 0 || w 0 % 64 != 0 || w 1 / 2 ^ 25 != 0 || w 1 % 4096 != 0 || fld (w 2) 43 17 != 0 || w 3 / 2 ^ 58 != 0 ||
  w 4 / 2 ^ 20 != 0 || w 4 % 64 != 0 || fld (w 5) 26 36 != 0 || w 5 % 4096 != 0 || w 6 / 2 ^ 43 != 0 || w 7 / 2 ^ 18 != 0

/-- A windows entry: core, slot and the eight registers. -/
def winEntry (b : Bytes) : (Nat × Nat × Vector (BitVec 64) 8) × Bool :=
  let v : Vector (BitVec 64) 8 := Vector.ofFn fun i => BitVec.ofNat 64 (le b (8 + 8 * i.val) 8)
  ((le b 0 4, le b 4 1, v), 3 < le b 4 1 || le b 5 3 != 0 || winReserved fun i => (vget v i).toNat)

/-- A reservation entry. -/
def resvEntry (b : Bytes) : Resv × Bool :=
  let r : Resv := { resource := le b 0 1, dir := le b 1 1, inst := le b 2 4, units := le b 6 4, prop := le b 10 4 }
  (r, r.resource = 0 || 5 < r.resource || 1 < r.dir || (r.dir = 1 && r.resource != 3 && r.resource != 5) || le b 14 2 != 0 ||
    (match r.resource with
     | 3 => 97 ≤ r.inst
     | 5 => 9 ≤ r.inst
     | _ => nCores ≤ r.inst))

/-- A deadline entry (R272, R275, R280, R421). -/
def deadEntry (b : Bytes) : Deadline × Bool :=
  let c := le b 0 1
  let d : Deadline := { dclass := c, pct := le b 1 1, progress := le b 2 1, holdcap := le b 3 1 == 1 || 1 ≤ c,
                        sentry := le b 4 1, dl := le b 8 4, hang := le b 12 4, c := le b 16 8, u := le b 24 8,
                        sbytes := le b 32 8, pb := le b 40 8, lp := le b 48 4 }
  (d, 2 < c || 3 < d.pct || 1 < d.progress || 1 < le b 3 1 || 5 < d.sentry || le b 5 3 != 0 || 600000 < d.hang || le b 52 4 != 0)

/-- A job-tag entry (R295). -/
def tagEntry (b : Bytes) : JobTag × Bool :=
  let rect := le b 4 8
  let t : JobTag := { tag := BitVec.ofNat 16 (le b 0 2), x0 := fld rect 0 9, y0 := fld rect 9 9, x1 := fld rect 18 9,
                      y1 := fld rect 27 9, offLo := le b 12 4, offHi := le b 16 4, shift := le b 20 1,
                      access := BitVec.ofNat 8 (le b 21 1), wr := le b 22 1 == 1, qmask := BitVec.ofNat 8 (le b 23 1) }
  (t, t.tag == 0 || rect / 2 ^ 36 != 0 || 2 ^ 25 ≤ t.offLo || 2 ^ 25 ≤ t.offHi || t.offHi < t.offLo || t.shift < 12 ||
    25 < t.shift || 8 ≤ le b 21 1 || 1 < le b 22 1 || le b 24 8 != 0 || t.x1 < t.x0 || t.y1 < t.y0 || 383 < t.x1 || 335 < t.y1)

/-- A group entry as the strided rectangle of R193: group number and target bits. -/
def groupEntry (b : Bytes) : (Nat × BitVec 60) × Bool :=
  let v := le b 0 8
  let t := fld v 8 36 + fld v 44 6 * 2 ^ 54
  ((fld v 0 8, BitVec.ofNat 60 t), v / 2 ^ 50 != 0 || fld v 26 9 < fld v 8 9 || fld v 35 9 < fld v 17 9 || 383 < fld v 26 9 ||
    335 < fld v 35 9)

/-- One entry of a section added to the block read so far. -/
def addEntry (c : CfgBlock) (type : Nat) (b : Bytes) : CfgBlock :=
  match type with
  | 1 => let e := slotEntry b; { c with slots := c.slots ++ [e.1], bad := c.bad || e.2 }
  | 2 => let e := winEntry b; { c with wins := c.wins ++ [e.1], bad := c.bad || e.2 }
  | 3 => let e := resvEntry b; { c with resv := c.resv ++ [e.1], bad := c.bad || e.2 }
  | 4 => let e := deadEntry b; { c with dead := e.1, hangGiven := true, bad := c.bad || e.2 || c.hangGiven }
  | 5 => let e := tagEntry b; { c with tags := c.tags ++ [e.1], bad := c.bad || e.2 }
  | _ => let e := groupEntry b; { c with groups := aset c.groups e.1.1 e.1.2, bad := c.bad || e.2 }

/-- The entries of a section. -/
def addEntries (type size : Nat) : Nat → Bytes → CfgBlock → CfgBlock
  | 0, _, c => c
  | n + 1, b, c => addEntries type size n (b.drop size) (addEntry c type (b.take size))

/-- The sections of a block. -/
def readSections : Nat → Bytes → CfgBlock → CfgBlock
  | 0, b, c => { c with bad := c.bad || !b.isEmpty }
  | n + 1, b, c =>
    let len := le b 4 4
    match entrySize (le b 0 2) with
    | none => { c with bad := true }
    | some size =>
      if len ≠ 8 + size * le b 2 2 || b.length < len then { c with bad := true }
      else readSections n (b.drop len) (addEntries (le b 0 2) size (le b 2 2) (b.drop 8) c)

/-- A configuration block (R342): its total length must agree with its contents. -/
def readBlock (b : Bytes) : CfgBlock :=
  let n := le b 4 4
  if b.length < 8 || le b 0 2 ≠ 1 || n < 8 || b.length < n then { bad := true }
  else readSections (le b 2 2) ((b.take n).drop 8) {}

/-- The windows of a slot entry put into it; a windows entry that names no slot of the block, or a slot twice, is wrong. -/
def CfgBlock.merge (c : CfgBlock) : CfgBlock :=
  let slots := c.slots.map fun s => match c.wins.find? fun w => w.1 == s.core && w.2.1 == s.slot with
    | some w => { s with win := w.2.2 }
    | none => s
  let keys := c.slots.map fun s => (s.core, s.slot)
  let wkeys := c.wins.map fun w => (w.1, w.2.1)
  { c with slots := slots, bad := c.bad || keys.eraseDups.length != keys.length || wkeys.eraseDups.length != wkeys.length ||
                                  wkeys.any fun k => !keys.contains k }

/-! ## Windows (R142, R143) -/

/-- Window register i of a slot entry. -/
def CtxSlot.w (s : CtxSlot) (i : Nat) : Nat := (vget s.win i).toNat

/-- The scratchpad window as a byte range. -/
def CtxSlot.spad (s : CtxSlot) : Nat × Nat := (s.w 0 % 2 ^ 19, s.w 4 % 2 ^ 20)

/-- The under-bank window as a byte range. -/
def CtxSlot.ub (s : CtxSlot) : Nat × Nat := (s.w 1 % 2 ^ 25, s.w 5 % 2 ^ 26)

/-- The remote rectangle X0, Y0, X1, Y1 and offsets; present when a space is reachable. -/
def CtxSlot.remote (s : CtxSlot) : Nat × Nat × Nat × Nat := (fld (s.w 2) 0 9, fld (s.w 2) 9 9, fld (s.w 6) 0 9, fld (s.w 6) 9 9)
def CtxSlot.hasRemote (s : CtxSlot) : Bool := fld (s.w 2) 60 2 != 0
def CtxSlot.offLo (s : CtxSlot) : Nat := fld (s.w 2) 18 25
def CtxSlot.offHi (s : CtxSlot) : Nat := fld (s.w 6) 18 25

/-- The queue-mask rectangle; present when some queue or huddle is reachable. -/
def CtxSlot.qrect (s : CtxSlot) : Nat × Nat × Nat × Nat := (fld (s.w 3) 0 9, fld (s.w 3) 9 9, fld (s.w 7) 0 9, fld (s.w 7) 9 9)
def CtxSlot.hasQ (s : CtxSlot) : Bool := fld (s.w 3) 18 40 != 0

/-- Whether a rectangle is one of the grid. -/
def rectOk (r : Nat × Nat × Nat × Nat) : Bool := r.1 ≤ r.2.2.1 && r.2.1 ≤ r.2.2.2 && r.2.2.1 < 384 && r.2.2.2 < 336

/-- Whether a core index lies in a rectangle. -/
def inRect (r : Nat × Nat × Nat × Nat) (c : Nat) : Bool :=
  r.1 ≤ coreX c && coreX c ≤ r.2.2.1 && r.2.1 ≤ coreY c && coreY c ≤ r.2.2.2

/-- The core indices of a rectangle. -/
def rectCores (r : Nat × Nat × Nat × Nat) : List Nat :=
  ((List.range (r.2.2.2 + 1 - r.2.1)).map fun j => (List.range (r.2.2.1 + 1 - r.1)).map fun i => coreAt (r.1 + i) (r.2.1 + j)).flatten

/-- Whether two byte ranges, start and size, meet; an empty one meets nothing. -/
def rangesMeet (a b : Nat × Nat) : Bool := a.2 != 0 && b.2 != 0 && a.1 < b.1 + b.2 && b.1 < a.1 + a.2

/-- The first byte at or after lo that no range of a list covers. -/
def coverTo (rs : List (Nat × Nat)) : Nat → Nat → Nat
  | 0, lo => lo
  | n + 1, lo => match rs.find? fun r => r.1 ≤ lo && lo < r.1 + r.2 with
    | some r => coverTo rs n (r.1 + r.2)
    | none => lo

/-- Whether ranges cover bytes lo to hi, both included. -/
def covers (rs : List (Nat × Nat)) (lo hi : Nat) : Bool := hi < coverTo rs (rs.length + 1) lo

/-- Bytes of a context's own at a core in a space: its windows there. -/
def ownRanges (slots : List CtxSlot) (core space : Nat) : List (Nat × Nat) :=
  (slots.filter fun s => s.core == core).map fun s => if space = 0 then s.spad else s.ub

/-- Whether a remote window of a space covers only bytes of the context (R143). -/
def remoteOwned (slots : List CtxSlot) (r : Nat × Nat × Nat × Nat) (space lo hi : Nat) : Bool :=
  (rectCores r).all fun c => covers (ownRanges slots c space) lo hi

/-- The slot entries of every other context. -/
def Mach.otherSlots (m : Mach) (cid : Nat) : List CtxSlot :=
  ((m.ctxs.filter fun e => e.1 != cid).map fun e => e.2.slots).flatten

/-- The partition of a core for a set of slot entries: the largest request (R140). -/
def cbanksFor (slots : List CtxSlot) (core : Nat) : Nat :=
  ((slots.filter fun s => s.core == core).map fun s => s.cbanks).foldl max 0

/-- The conditions of R143 on the windows of a slot entry. -/
def winOk (all : List CtxSlot) (others : List CtxSlot) (s : CtxSlot) : Bool :=
  let cb := cbanksFor (all ++ others) s.core
  let free (space : Nat) (r : Nat × Nat) : Bool :=
    !((others.filter fun o => o.core == s.core).any fun o => rangesMeet r (if space = 0 then o.spad else o.ub))
  s.spad.1 + s.spad.2 ≤ (6 - cb) * 65536 && free 0 s.spad &&
  s.ub.1 + s.ub.2 ≤ 0x1800000 &&
  rectOk s.remote && s.offLo ≤ s.offHi && rectOk s.qrect &&
  (!bitOf (s.w 2) 60 || remoteOwned all s.remote 0 s.offLo s.offHi) &&
  (!bitOf (s.w 2) 61 || remoteOwned all s.remote 1 s.offLo s.offHi)

/-- Whether a queue-mask window leaves the queues and huddles of other contexts out (R143 for endpoints; log 41). -/
def qwinOk (others : List CtxSlot) (s : CtxSlot) : Bool :=
  !(s.hasQ && others.any fun o => inRect s.qrect o.core &&
    (o.qmask.toNat &&& fld (s.w 3) 18 8 != 0 || o.hmask.toNat &&& fld (s.w 3) 26 32 != 0))

/-- Whether some queue-mask window of the context covers the queues and huddles of a slot entry (R208). -/
def queuesCovered (all : List CtxSlot) (s : CtxSlot) : Bool :=
  (List.range 8).all fun q => !bitOf s.qmask.toNat q ||
    all.any fun t => t.hasQ && inRect t.qrect s.core && bitOf (fld (t.w 3) 18 8) q

/-- Whether a job tag's window meets R143: its bytes and queues are the context's. -/
def tagOk (all : List CtxSlot) (t : JobTag) : Bool :=
  let r := (t.x0, t.y0, t.x1, t.y1)
  (!bitOf t.access.toNat 0 || remoteOwned all r 0 t.offLo t.offHi) &&
  (!bitOf t.access.toNat 1 || remoteOwned all r 1 t.offLo t.offHi) &&
  (!bitOf t.access.toNat 2 || (rectCores r).all fun c => (List.range 8).all fun q => !bitOf t.qmask.toNat q ||
    all.any fun s => s.core == c && bitOf s.qmask.toNat q)

/-- Whether a group's rectangle lies inside a slot's queue-mask rectangle (R195). -/
def groupIn (g : Nat) (s : CtxSlot) : Bool :=
  s.hasQ && inRect s.qrect (coreAt (mcX0 g) (mcY0 g)) && inRect s.qrect (coreAt (mcX1 g) (mcY1 g))

end Sys2Proof.Machine
end

