-- ==== Sys2Proof/Machine/Admit.lean ====
section
/-! DEFINITION. Admission (R263 to R275): limits, reach, capacities, the latency model, bucket rates, and the installation of an
admitted configuration (R50, R51, R70, R140, R141, R156, R199, R208, R216, R360, R424). -/

namespace Sys2Proof.Machine

open Sys2Proof

/-! ## Footprint and reach (R264) -/

/-- The smallest rectangle that holds two. -/
def joinRect (a b : Nat × Nat × Nat × Nat) : Nat × Nat × Nat × Nat :=
  (min a.1 b.1, min a.2.1 b.2.1, max a.2.2.1 b.2.2.1, max a.2.2.2 b.2.2.2)

/-- The rectangle of one core. -/
def coreRect (c : Nat) : Nat × Nat × Nat × Nat := (coreX c, coreY c, coreX c, coreY c)

/-- The footprint of slot entries and groups; none without slots. -/
def footprint (slots : List CtxSlot) (groups : AMap (BitVec 60)) : Option (Nat × Nat × Nat × Nat) :=
  let rs := (slots.map fun s => [coreRect s.core] ++ (if s.hasRemote then [s.remote] else []) ++
    (if s.hasQ then [s.qrect] else [])).flatten ++
    groups.map fun g => (mcX0 g.2.toNat, mcY0 g.2.toNat, mcX1 g.2.toNat, mcY1 g.2.toNat)
  match rs with
  | r :: rest => some (rest.foldl joinRect r)
  | [] => none

/-- The fields of the engines that serve a port. -/
def portFields (p : Nat) : List Nat := (List.range 56).filter fun f => rolePort f == p

/-- The ports that a configuration uses: those its reservations name, and, where it has job tags, every port with an active engine, since a tag goes with a frame to
any coordinate (R264, R295; log 31). -/
def Mach.portsUsed (m : Mach) (resv : List Resv) (tagged : Bool) : List Nat :=
  (List.range 9).filter fun p => (resv.any fun v => v.resource == 5 && v.inst == p) || (tagged && !(m.activeSet p).isEmpty)

/-- The anchor cores of the ports that a configuration uses. -/
def Mach.anchorsUsed (m : Mach) (resv : List Resv) (tagged : Bool) : List Nat :=
  (((m.portsUsed resv tagged).map portFields).flatten.map anchorsOf).flatten

/-- Segments on the paths between places, and between them and anchors, both ways, where a path between two cores crosses the segments given. -/
def reachBy (segs : Nat → Nat → List Nat) (places anchors : List Nat) : List Nat :=
  ((places.map fun a => ((places.map fun b => segs a b) ++ anchors.map fun b => segs a b ++ segs b a).flatten).flatten).eraseDups

/-- The cores of a footprint, by index. -/
def footCores (slots : List CtxSlot) (groups : AMap (BitVec 60)) : List Nat :=
  match footprint slots groups with
  | some r => rectCores r
  | none => []

/-- The reach of a configuration under the floor plan in force, detours included (R264). -/
def Mach.reachOf (m : Mach) (slots : List CtxSlot) (groups : AMap (BitVec 60)) (resv : List Resv) (tagged : Bool) : List Nat :=
  reachBy m.routeSegs ((footCores slots groups).map m.runs) (m.anchorsUsed resv tagged)

def Mach.ctxReach (m : Mach) (x : Ctx) : List Nat := m.reachOf x.slots x.groups x.resv (!x.tags.isEmpty)

/-- The reach of a context with no substitution and no detour (R264). -/
def Mach.plainReach (m : Mach) (x : Ctx) : List Nat :=
  reachBy pathSegs (footCores x.slots x.groups) (m.anchorsUsed x.resv (!x.tags.isEmpty))

/-! ## Capacities and demands (R266, R270) -/

/-- Seam rate of reservations in a direction: the largest units of their seam entries (log 31). -/
def seamUnits (rs : List Resv) (dir : Nat) : Nat :=
  ((rs.filter fun r => r.resource == 3 && r.dir == dir).map fun r => r.units).foldl max 0

/-- Units of reservations for a resource at an instance and direction; a seam rate counts on every segment of the reach, and
on no other (R267; log 31). -/
def unitsAt (rs : List Resv) (reach : List Nat) (res dir inst : Nat) : Nat :=
  if res = 3 then (if reach.contains inst then seamUnits rs dir else 0)
  else ((rs.filter fun r => r.resource == res && r.dir == dir && r.inst == inst).map fun r => r.units).sum

/-- The links of a segment: the core that names each, and whether it is its S link. -/
def segLinks (seg : Nat) : List (Nat × Bool) :=
  if seg < 49 then (List.range 48).map fun i => (coreAt (48 * (seg / 7 + 1) - 1) (seg % 7 * 48 + i), false)
  else (List.range 48).map fun i => (coreAt ((seg - 49) % 8 * 48 + i) (48 * ((seg - 49) / 8 + 1) - 1), true)

/-- Lanes in use of the active engines of a port. -/
def Mach.portLanes (m : Mach) (p : Nat) : Nat :=
  ((m.activeSet p).map fun i => match m.engAt p i with
    | some e => ((List.range 16).filter fun b => bitOf (m.eng e).lanes.toNat b).length
    | none => 0).sum

/-- The capacity of an instance of a resource under the floor plan in force, in units; a port's in proportion to its lanes in use, 16 an
engine and six engines for 16,000 (R266, R305). -/
def Mach.capacity (m : Mach) (res inst : Nat) : Nat :=
  match res with
  | 1 => 16
  | 2 => if isAnchor (m.runs inst) then 20 else 64
  | 3 => ((segLinks inst).map fun l => match m.linkWidth l.1 l.2 with
      | 3 => 512
      | 2 => 256
      | _ => 0).sum
  | 4 => 60
  | _ => m.portLanes inst * 16000 / 96

/-- The issue share of a configuration on a core (R56): its WEIGHTs, or its reservation where that is larger. -/
def issueUnits (slots : List CtxSlot) (rs : List Resv) (core : Nat) : Nat :=
  max (((slots.filter fun s => s.core == core).map fun s => s.weight).sum) (unitsAt rs [] 1 0 core)

/-- The demand of a configuration at an instance. -/
def demandAt (slots : List CtxSlot) (rs : List Resv) (reach : List Nat) (res dir inst : Nat) : Nat :=
  if res = 1 then issueUnits slots rs inst else unitsAt rs reach res dir inst

/-- What no context can reserve at an instance: a port's transit share (R305). -/
def Mach.transitHeld (m : Mach) (res inst : Nat) : Nat := if res = 5 then (m.port inst).share else 0

/-- The demand of all other contexts at an instance, with what is held already. -/
def Mach.othersAt (m : Mach) (cid res dir inst : Nat) : Nat :=
  m.transitHeld res inst + ((m.ctxs.filter fun e => e.1 != cid).map fun e =>
    demandAt e.2.slots e.2.resv (if res = 3 then m.ctxReach e.2 else []) res dir inst).sum

/-- A refusal of admission: its status and detail (R271). -/
structure Refuse where
  status : Nat := 0
  res0 : Nat := 0
  resource : Nat := 0
  dir : Nat := 0
  inst : Nat := 0
  demand : Nat := 0
  capacity : Nat := 0
  deriving DecidableEq, Repr, Inhabited

/-- The detail of a 0x03xx refusal as RES1 holds it (R271, R333). -/
def Refuse.detail (r : Refuse) : Nat :=
  if r.status / 256 = 3 then
    r.resource % 256 + r.dir % 256 * 2 ^ 8 + r.inst % 2 ^ 32 * 2 ^ 16 + r.demand % 2 ^ 32 * 2 ^ 48 + r.capacity % 2 ^ 32 * 2 ^ 80
  else 0

/-- The instances at which a configuration asks for something: resource, direction, instance. -/
def instances (slots : List CtxSlot) (rs : List Resv) (reach : List Nat) : List (Nat × Nat × Nat) :=
  let a : List (Nat × Nat × Nat) := slots.map fun (s : CtxSlot) => (1, 0, s.core)
  let b : List (Nat × Nat × Nat) := (rs.filter fun (r : Resv) => r.resource != 3).map fun (r : Resv) => (r.resource, r.dir, r.inst)
  let c (d : Nat) : List (Nat × Nat × Nat) := if 0 < seamUnits rs d then reach.map fun (s : Nat) => (3, d, s) else []
  (a ++ b ++ c 0 ++ c 1).eraseDups

/-! ## Turns (R32, R266): bands are numbered as their ports are, X 0, Y 1, Z 2, W 3; a turn from band a to band b is 4·a + b (log 89) -/

/-- Whether a band lies in the western, in the northern half of the wafer (R27). -/
def bandWest (b : Nat) : Bool := b == 1 || b == 2
def bandNorth (b : Nat) : Bool := b == 2 || b == 3

/-- The seams that a turn crosses, each with its direction: the central vertical seam in the half of the band it leaves, then both horizontal seams in the half of the
band it enters. -/
def turnSeams (a b : Nat) : List Nat :=
  (if bandWest a != bandWest b then [b2n (bandNorth a) + 2 * b2n (bandWest b)] else []) ++
  (if bandNorth a != bandNorth b then [4 + b2n (bandWest b) + 2 * b2n (bandNorth b)] else [])

/-- The rate of a turn's seam in units of a port: 144 rows or 192 columns of 19.2 GB/s. -/
def turnCap (seam : Nat) : Nat := if seam < 4 then 18432 else 24576

/-- Units that reservations bring in by a band's ports, and take out by them. -/
def bandUnits (rs : List Resv) (dir band : Nat) : Nat :=
  ((rs.filter fun r => r.resource == 5 && r.dir == dir && r.inst / 2 == band && r.inst < 8).map fun r => r.units).sum

/-- Units of a context's reservations that turn from one band to another: no more than come in and no more than go out. -/
def turnUnits (rs : List Resv) (a b : Nat) : Nat := min (bandUnits rs 1 a) (bandUnits rs 0 b)

/-- The turns between two bands. -/
def turns : List (Nat × Nat) :=
  (((List.range 4).map fun a => (List.range 4).map fun b => (a, b)).flatten).filter fun t => t.1 != t.2

/-- Units of the reservations of a list that cross a turn's seam. -/
def seamTurn (rs : List Resv) (seam : Nat) : Nat := ((turns.filter fun t => (turnSeams t.1 t.2).contains seam).map fun t => turnUnits rs t.1 t.2).sum

/-- The first turn whose seam the reservations of all contexts exceed. -/
def Mach.turnTest (m : Mach) (cid : Nat) (rs : List Resv) : Option Refuse :=
  let held (seam : Nat) : Nat := seamTurn rs seam + ((m.ctxs.filter fun e => e.1 != cid).map fun e => seamTurn e.2.resv seam).sum
  (turns.filter fun t => 0 < turnUnits rs t.1 t.2).findSome? fun t => ((turnSeams t.1 t.2).find? fun s => turnCap s < held s).map fun s =>
    { status := 0x0301, resource := 6, inst := 4 * t.1 + t.2, demand := held s, capacity := turnCap s }

/-- Test 2 of R270. -/
def Mach.test2 (m : Mach) (cid : Nat) (slots : List CtxSlot) (rs : List Resv) (reach : List Nat) : Option Refuse :=
  ((instances slots rs reach).findSome? fun e =>
    let d := demandAt slots rs reach e.1 e.2.1 e.2.2 + m.othersAt cid e.1 e.2.1 e.2.2
    let c := m.capacity e.1 e.2.2
    if c < d then some { status := 0x0301, resource := e.1, dir := e.2.1, inst := e.2.2, demand := d, capacity := c } else none) <|>
  m.turnTest cid rs

/-! ## The latency model (R272, R273) -/

/-- A time as a fraction of picoseconds; a denominator of 0 is infinite. -/
abbrev Frac := Nat × Nat

def fracLe (a b : Frac) : Bool := if b.2 = 0 then true else if a.2 = 0 then false else a.1 * b.2 ≤ b.1 * a.2
def fracMax (a b : Frac) : Frac := if fracLe a b then b else a
def fracAdd (a b : Frac) : Frac := (a.1 * b.2 + b.1 * a.2, a.2 * b.2)

/-- A demand over a rate: a demand of 0 takes no time, whatever the rate. -/
def overRate (num den : Nat) : Frac := if num = 0 then (0, 1) else (num, den)

/-- The largest units of a resource that a configuration reserves. -/
def topUnits (rs : List Resv) (res : Nat) : Nat := ((rs.filter fun r => r.resource == res).map fun r => r.units).foldl max 0

/-- The largest sum of WEIGHTs on one core. -/
def topWeight (slots : List CtxSlot) : Nat :=
  (slots.map fun s => ((slots.filter fun t => t.core == s.core).map fun t => t.weight).sum).foldl max 0

/-- T_pct of R273 in picoseconds; the percentile codes give 1.00, 1.05, 1.15 and 1.30. -/
def modelTime (slots : List CtxSlot) (rs : List Resv) (d : Deadline) : Frac :=
  let issue := overRate (d.c * 160000) (topWeight slots * 12)
  let issue := match d.sentry with
    | 3 => (issue.1 * 33, issue.2 * 32)
    | 4 => (issue.1 * 17, issue.2 * 16)
    | 5 => (issue.1 * 9, issue.2 * 8)
    | _ => issue
  let ub := overRate (d.u * 10000) (topUnits rs 4 * 6)
  let seam := overRate (d.sbytes * 80000) (max (seamUnits rs 0) (seamUnits rs 1) * 3)
  let port := overRate (d.pb * 20000) (topUnits rs 5 * 3)
  let path : Frac := (d.lp * 10000, 12)
  let lend : Frac := (if d.dclass = 1 then 5000000 else 0, 1)
  let t := fracAdd (fracAdd (fracMax (fracMax issue ub) (fracMax seam port)) path) lend
  (t.1 * (match d.pct with
    | 0 => 20
    | 1 => 21
    | 2 => 23
    | _ => 26), t.2 * 20)

/-- A model time in whole microseconds; all ones when it is infinite. -/
def fracUs (t : Frac) : Nat := if t.2 = 0 then 0xFFFFFFFF else t.1 / (t.2 * 1000000)

/-- Whether a rectangle, a footprint, meets another. -/
def rectMeet (a b : Nat × Nat × Nat × Nat) : Bool := a.1 ≤ b.2.2.1 && b.1 ≤ a.2.2.1 && a.2.1 ≤ b.2.2.2 && b.2.1 ≤ a.2.2.2
def feetMeet (a b : Option (Nat × Nat × Nat × Nat)) : Bool :=
  match a, b with
  | some a, some b => rectMeet a b
  | _, _ => false

/-- Tests 3 and 4 of R270. -/
def Mach.test34 (m : Mach) (cid : Nat) (slots : List CtxSlot) (groups : AMap (BitVec 60)) (rs : List Resv) (d : Deadline) :
    Option Refuse :=
  if d.dclass = 0 then none
  else
    match m.ctxs.find? fun e => e.1 != cid && feetMeet (footprint slots groups) (footprint e.2.slots e.2.groups) && !e.2.dead.holdcap with
    | some e => some { status := 0x0302, resource := 7, inst := e.1 }
    | none =>
      let t := modelTime slots rs d
      if fracLe t (d.dl * 1000000, 1) then none
      else some { status := 0x0302, resource := 8, demand := fracUs t, capacity := d.dl }

/-- Test 5 of R270: an admitted context with a deadline class whose footprint this one overlaps without HOLDCAP; the detail gives that context's model time and deadline (R271). -/
def Mach.test5 (m : Mach) (cid : Nat) (slots : List CtxSlot) (groups : AMap (BitVec 60)) (d : Deadline) : Option Refuse :=
  if d.holdcap then none
  else
    (m.ctxs.find? fun e => e.1 != cid && e.2.dead.dclass != 0 && feetMeet (footprint slots groups) (footprint e.2.slots e.2.groups)).map fun e =>
      { status := 0x0302, resource := 9, inst := e.1, demand := fracUs (modelTime e.2.slots e.2.resv e.2.dead), capacity := e.2.dead.dl }

/-! ## Limits (R263) -/

/-- Whether the slots of a core that others hold leave a slot free. -/
def Mach.slotFree (m : Mach) (cid : Nat) (s : CtxSlot) : Bool :=
  let v := (m.core (m.runs s.core)).slot s.slot
  v.ctl.st == .empty || v.ctl.cid.toNat == cid

/-- Rows of 32 that slot entries use on a core. -/
def accUse (l : List CtxSlot) (core : Nat) : Nat := ((l.filter fun s => s.core == core).map fun s => s.accRows).sum

/-- Whether blocks a to a + n - 1 and b to b + k - 1 of the accumulators meet; no blocks meet none. -/
def blocksMeet (a n b k : Nat) : Bool := n != 0 && k != 0 && rowsMeet a n b k

/-- Bases for accumulator blocks, slot, count and the base the slot has, beside blocks that are in use: a slot stays where it is if it can. None if no bases fit. -/
def accFit : List (Nat × Nat × Nat) → List (Nat × Nat) → Option (List (Nat × Nat))
  | [], _ => some []
  | (s, n, at_) :: rest, used =>
    (at_ :: List.range 9).findSome? fun b =>
      if b + n ≤ 8 && !(used.any fun u => blocksMeet b n u.1 u.2) then (accFit rest ((b, n) :: used)).map ((s, b) :: ·) else none

/-- The accumulator bases that a configuration's slots get on a core: contiguous blocks beside those of other contexts (R263; log 90). -/
def accBases (k : Core) (cid : Nat) (slots : List CtxSlot) (core : Nat) : Option (List (Nat × Nat)) :=
  let others := (k.slots.toList.filter fun v => v.ctl.st != .empty && v.ctl.cid.toNat != cid).map fun v => (v.ctl.accBase.toNat, v.ctl.accRows.toNat)
  accFit ((slots.filter fun s => s.core == core).map fun s => (s.slot, s.accRows, (k.slot s.slot).ctl.accBase.toNat)) others

/-- Whether the queue masks, the huddle masks of two entries on one core meet. Huddles belong to a context (R216), so
its own entries may share one. -/
def maskMeet (a b : CtxSlot) : Bool := a.core == b.core && a.qmask &&& b.qmask != 0
def hudMeet (a b : CtxSlot) : Bool := a.core == b.core && a.hmask &&& b.hmask != 0

/-- Contexts with under-bank reservations at a core. -/
def Mach.ubHolders (m : Mach) (cid core : Nat) : Nat :=
  (m.ctxs.filter fun e => e.1 != cid && 0 < unitsAt e.2.resv [] 4 0 core).length

/-- Banks that lie wholly inside the scratchpad windows that slot entries have on a core. -/
def banksIn (slots : List CtxSlot) (core : Nat) : BitVec 6 :=
  BitVec.ofNat 6 (((List.range 6).filter fun b => slots.any fun s =>
    s.core == core && s.spad.1 ≤ b * 65536 && b * 65536 + 65536 ≤ s.spad.1 + s.spad.2).map fun b => 2 ^ b).sum

/-- The resident banks that slot entries of a configuration ask for on a core. -/
def resAsked (slots : List CtxSlot) (core : Nat) : BitVec 6 :=
  ((slots.filter fun s => s.core == core).map fun s => BitVec.ofNat 6 s.resMask.toNat).foldl (· ||| ·) 0

/-- MEM_RESIDENT of a core once a context's old entries are gone (R156, R269): the bits that its configuration set and those that its code set go, but the code's bits of
banks that stay wholly inside its windows are kept. -/
def residentLeft (res : BitVec 6) (old keep : List CtxSlot) (core : Nat) : BitVec 6 :=
  let asked := resAsked old core
  res &&& ~~~ (asked ||| (banksIn old core &&& ~~~ banksIn keep core))

/-- Whether a new partition would put a bank under cache that a window or a resident bank covers (R141), with the context's old configuration removed (R269). -/
def Mach.partitionBusy (m : Mach) (cid : Nat) (slots others : List CtxSlot) (core cb : Nat) : Bool :=
  let limit := (6 - cb) * 65536
  let all := slots ++ others
  ((all.filter fun s => s.core == core).any fun s => limit < s.spad.1 + s.spad.2 ||
    (List.range 6).any fun b => bitOf s.resMask.toNat b && 6 - cb ≤ b) ||
  (all.any fun s => s.hasRemote && bitOf (s.w 2) 60 && inRect s.remote core && limit ≤ s.offHi) ||
  ((residentLeft (m.core (m.runs core)).mem.resident (((m.ctx cid).map fun x => x.slots).getD []) slots core).toNat / 2 ^ (6 - cb) != 0)

/-- Test 1 of R270: every limit of R263, in its order. -/
def Mach.test1 (m : Mach) (cid : Nat) (dbg : Bool) (c : CfgBlock) : Option Refuse :=
  let others := m.otherSlots cid
  let slots := c.slots
  let first (p : CtxSlot → Bool) (st : Nat) : Option Refuse := if slots.any p then some { status := st } else none
  let alone (meet : CtxSlot → CtxSlot → Bool) (s : CtxSlot) : Bool :=
    (others.any (meet s)) || slots.any fun t => t != s && meet s t
  let held := (m.ctxs.filter fun e => e.1 != cid)
  let tagsHeld := (held.map fun e => e.2.tags.length).sum
  let winsOk := slots.all fun s => winOk slots others s && queuesCovered slots s
  let spread := (slots.map fun s => s.core).eraseDups.length
  if c.bad || !winsOk || !(c.tags.all (tagOk slots)) ||
     !(c.groups.all fun g => slots.all fun s => groupIn g.2.toNat s) ||
     (c.dead.sentry != 0 && spread < 2) ||
     (c.tags.any fun t => held.any fun e => e.2.tags.contains t.tag) ||
     (c.tags.map fun t => t.tag).eraseDups.length != c.tags.length then some { status := 0x0102 }
  else if c.dead.hang = 0 && !dbg then some { status := 0x0501 }
  else (first (fun s => !m.slotFree cid s) 0x0202) <|> (first (fun s => !m.coreEnabled s.core) 0x0203) <|>
    (first (alone maskMeet) 0x0204) <|> (first (fun s => others.any (hudMeet s)) 0x0205) <|>
    (first (fun s => 8 < accUse (slots ++ others) s.core || (accBases (m.core (m.runs s.core)) cid slots s.core).isNone) 0x0206) <|>
    (if 16 < c.tags.length || 1024 < tagsHeld + c.tags.length then some { status := 0x0207 } else none) <|>
    (first (fun s => others.any fun o => o.core == s.core && rangesMeet s.ub o.ub) 0x0208) <|>
    (match c.resv.find? fun r => r.resource == 4 && 0 < r.units && 8 ≤ m.ubHolders cid r.inst with
      | some r => some { status := 0x020A, res0 := r.inst }
      | none => none) <|>
    (first (fun s => (let cb := cbanksFor (slots ++ others) s.core
      cb != (m.core (m.runs s.core)).mem.cbanks && m.partitionBusy cid slots others s.core cb)) 0x0403) <|>
    (first (fun s => !qwinOk others s) 0x0102)

/-- Whether a configuration is best-effort: no deadline class, and nothing reserved, a WEIGHT included (R56, R270). -/
def CfgBlock.bestEffort (c : CfgBlock) : Bool :=
  c.dead.dclass == 0 && (c.resv.all fun r => r.units == 0) && c.slots.all fun s => s.weight == 0

/-- Admission (R270): the first test that fails; a best-effort configuration passes tests 2 to 5. -/
def Mach.admission (m : Mach) (cid : Nat) (dbg : Bool) (c : CfgBlock) : Option Refuse :=
  m.test1 cid dbg c <|>
    (if c.bestEffort then none
     else m.test2 cid c.slots c.resv (m.reachOf c.slots c.groups c.resv (!c.tags.isEmpty)) <|>
       m.test34 cid c.slots c.groups c.resv c.dead <|> m.test5 cid c.slots c.groups c.dead)

/-! ## Bucket rates (R265 to R267) -/

/-- Set a bucket's rate: a new one is full; an old one keeps its tokens up to the new depth. -/
def setRate (b : AMap Bucket) (key rate cc : Nat) : AMap Bucket :=
  match aget b key with
  | some x => aset b key { x with rate := rate, tokens := min x.tokens (2 * rate) }
  | none => aset b key { tokens := 2 * rate, rate := rate, at_ := cc }

/-- A context's reservation plus its equal share, among those that can use an instance, of what no context has reserved there (R267). -/
def Mach.shareAt (m : Mach) (users : List Nat) (cid res dir inst : Nat) : Nat :=
  let of (e : Nat) : Nat := match m.ctx e with
    | some x => demandAt x.slots x.resv (if res = 3 then m.ctxReach x else []) res dir inst
    | none => 0
  of cid + (m.capacity res inst - (of cid + m.othersAt cid res dir inst)) / max 1 users.length

/-- The seam rate of a context: its reservation and best-effort share at the tightest segment of its reach, both directions; on
segments that its reservations do not fit, what the others leave (R265, R267). -/
def Mach.seamRate (m : Mach) (cid : Nat) (x : Ctx) : Nat :=
  let reach := m.ctxReach x
  let users (seg : Nat) : List Nat := (m.ctxs.filter fun e => (m.ctxReach e.2).contains seg).map (·.1)
  let rates := (reach.map fun s => [m.shareAt (users s) cid 3 0 s, m.shareAt (users s) cid 3 1 s]).flatten
  let lims := (x.overSegs.map fun s => [m.capacity 3 s - m.othersAt cid 3 0 s, m.capacity 3 s - m.othersAt cid 3 1 s]).flatten
  match rates ++ lims with
  | r :: rest => rest.foldl min r
  | [] => 0

/-- The share of a core in its context's seam rate: by the proportions given, else equal. -/
def seamSplit (x : Ctx) (core rate : Nat) : Nat :=
  let cores := (x.slots.map fun s => s.core).eraseDups
  let prop (c : Nat) : Nat := ((x.resv.filter fun r => r.resource != 3 && r.resource != 5 && r.inst == c).map fun r => r.prop).foldl max 0
  let total := (cores.map prop).sum
  if total = 0 then rate / max 1 cores.length else rate * prop core / total

/-- Set the bucket rates of one context. -/
def Mach.setCtxRates (m : Mach) (cid : Nat) (x : Ctx) : Mach :=
  let cores := (x.slots.map fun s => s.core).eraseDups
  let at_ (p : Ctx → Bool) : List Nat := (m.ctxs.filter fun e => p e.2).map (·.1)
  let seam := m.seamRate cid x
  let reach := m.ctxReach x
  let b := cores.foldl (fun b c =>
    let key := m.runs c
    let here (y : Ctx) : Bool := y.slots.any fun s => s.core == c
    let owns (y : Ctx) : Bool := y.slots.any fun s => s.core == c && s.ub.2 != 0
    let b := setRate b (injKey key cid) (m.shareAt (at_ here) cid 2 0 c) m.cc
    let b := if owns x || 0 < unitsAt x.resv [] 4 0 c then setRate b (ubKey key cid) (m.shareAt (at_ owns) cid 4 0 c) m.cc else b
    if reach.isEmpty then b else setRate b (seamKey key cid) (seamSplit x c seam) m.cc) m.buckets
  let ports (y : Ctx) : Bool := !y.tags.isEmpty
  let b := (List.range 9).foldl (fun b p => x.tags.foldl (fun b t =>
    setRate b (egressKey p t.toNat) (m.shareAt (at_ ports) cid 5 0 p / max 1 x.tags.length) m.cc) b) b
  { m with buckets := b }

/-- Recompute every context's bucket rates (R267). -/
def Mach.setRates (m : Mach) : Mach := m.ctxs.foldl (fun m e => m.setCtxRates e.1 e.2) m

/-- Remove a context's buckets. -/
def Mach.dropBuckets (m : Mach) (cid : Nat) (tags : List (BitVec 16)) : Mach :=
  { m with buckets := m.buckets.filter fun e =>
      if e.1 % 4 = 3 then !(tags.contains (BitVec.ofNat 16 (e.1 / 4 % 65536))) else e.1 / 4 % 1024 != cid }

/-! ## Installing a configuration -/

/-- The pause of an action of firmware, counted in SUSPEND_US (R281; log 16). -/
def Mach.suspend (m : Mach) (cids : List Nat) (us : Nat) : Mach :=
  cids.eraseDups.foldl (fun m c => m.onCtx c fun x =>
    { x with prog := { x.prog with suspendUs := x.prog.suspendUs + BitVec.ofNat 32 us } }) m

/-- The contexts that hold slots on a physical core. -/
def Core.cids (k : Core) : List Nat :=
  ((k.slots.toList.filter fun v => v.ctl.st != SlotSt.empty).map fun v => v.ctl.cid.toNat).eraseDups

/-- Sentry packets held or being sent at a core that are discarded, and counted as lost at their slots (R423, R429). -/
def Mach.losePackets (m : Mach) (c : Nat) (lose : SenPkt → Bool) : Mach :=
  let gone := ((m.core c).packets ++ (m.core c).prep.map (·.1)).filter lose
  let m := m.onCore c fun k => { k with packets := k.packets.filter (fun p => !lose p), prep := k.prep.filter fun p => !lose p.1 }
  gone.foldl (fun m p => m.onSlot p.origin p.slot fun v =>
    if v.ctl.cid == p.cid then { v with ali := { v.ali with lost := inc64 v.ali.lost } } else v) m

/-- A partition change (R140): the slots quiesced, the cache written back and emptied, the new partition, the slots resumed. Banks
that become scratchpad read as zero; their poison is gone with their contents. -/
def Mach.setPartition (m : Mach) (c cb : Nat) : Mach :=
  let old := (m.core c).mem.cbanks
  if old = cb then m
  else
    let live := [0, 1, 2, 3].filter fun s => ((m.core c).slot s).ctl.st != .quiesced
    let m := ((m.wakeField (fieldOf c)).losePackets c fun _ => true).onCore c fun k => live.foldl (fun k s => k.onSlot s quiesceSlot) k
    let m := (m.core c).lines.foldl (fun m l => m.writeHome c l) m
    let lo := (6 - max old cb) * 65536
    let hi := (6 - min old cb) * 65536
    m.onCore c fun k =>
      let k := { k with lines := [], mem := { k.mem with cbanks := cb }, sram := memClear k.sram lo (hi - lo),
                        poisonS := k.poisonS.filter fun w => !(lo ≤ w * 8 && w * 8 < hi) }
      live.foldl (resumeSlot m.cc) k

/-- Whether a partition change must wait for loads under way: a line is being fetched into a cache whose partition would change (R65, R140). -/
def Mach.partitionWaits (m : Mach) (others new : List CtxSlot) (cores : List Nat) : Bool :=
  cores.any fun core => cbanksFor (new ++ others) core != (m.core (m.runs core)).mem.cbanks && !(m.core (m.runs core)).fills.isEmpty

/-- A core ON for a placement (R360). -/
def Mach.bringUp (m : Mach) (c : Nat) : Mach :=
  let m := m.wakeField (fieldOf c)
  if (m.core c).pwr.logic = .off then emptyCoreBringupAt c m
  else if (m.core c).clocksRun m.cc && (m.core c).pwr.banks.toList.all (fun b => b == .on) then m
  else m.onCore c fun k => k.powerUp m.cc

/-- A slot as it becomes EMPTY (R68). -/
def emptySlot : Slot := {}

/-- A slot placed for a context: LOADED, with its share, accumulator block and windows (R60, R68, R70); one that the context
holds already keeps its state. -/
def placeSlot (k : Core) (e : CtxSlot) (cid : Nat) (dbg : Bool) (sentry partner base : Nat) : Core :=
  let k := if (k.slot e.slot).ctl.st == SlotSt.empty then k.dropVotes e.slot else k
  k.onSlot e.slot fun v =>
    let v := if v.ctl.st == SlotSt.empty then { v with ctl := { v.ctl with st := .loaded } } else v
    { v with ctl := { v.ctl with cid := BitVec.ofNat 10 cid, weight := BitVec.ofNat 5 e.weight, accBase := BitVec.ofNat 3 base,
                                 accRows := BitVec.ofNat 4 e.accRows, dbg := dbg, win := e.win },
             ali := { v.ali with frac := BitVec.ofNat 3 sentry, partner := BitVec.ofNat 17 partner } }

/-- Queues, huddles and resident banks of a slot entry (R156, R208, R216). -/
def placeShared (k : Core) (e : CtxSlot) (cid : Nat) : Core :=
  let k := (List.range 8).foldl (fun k q => if bitOf e.qmask.toNat q then
    k.onQueue q fun x => { x with slot := BitVec.ofNat 2 e.slot, valid := true } else k) k
  let k := (List.range 32).foldl (fun k h => if bitOf e.hmask.toNat h then
    k.onHuddle h fun x => { x with owner := some (BitVec.ofNat 10 cid) } else k) k
  { k with mem := { k.mem with resident := k.mem.resident ||| BitVec.ofNat 6 e.resMask.toNat } }

/-- The partner of a core in its context's ring (R424). -/
def partnerOf (slots : List CtxSlot) (core : Nat) : Nat :=
  let ring := (slots.map fun s => s.core).eraseDups.mergeSort (· ≤ ·)
  match ring.find? (core < ·) with
  | some c => c
  | none => ring.headD core

/-- Take what a context holds on its cores away (R261): entries of the old configuration that the new one does not keep become
EMPTY; queues, huddles and resident banks are free. -/
def Mach.unplace (m : Mach) (cid : Nat) (old keep : List CtxSlot) : Mach :=
  old.foldl (fun m e => m.onCore (m.runs e.core) fun k =>
    let kept := keep.any fun n => n.core == e.core && n.slot == e.slot
    let k := if kept then k else (k.setSlot e.slot emptySlot).dropVotes e.slot
    let qs := (List.range 8).filter fun q => bitOf e.qmask.toNat q && !(keep.any fun n => n.core == e.core && n.slot == e.slot && bitOf n.qmask.toNat q)
    let k := qs.foldl (fun k q => k.onQueue q fun _ => {}) k
    let hs := (List.range 32).filter fun h => bitOf e.hmask.toNat h && !(keep.any fun n => n.core == e.core && bitOf n.hmask.toNat h) &&
      (k.huddle h).owner == some (BitVec.ofNat 10 cid)
    let k := hs.foldl (fun k h => k.onHuddle h fun _ => {}) k
    { k with mem := { k.mem with resident := residentLeft k.mem.resident old keep e.core } }) m

/-- LEND_DIS and NOFS of a core: set while it holds a slot of a context with DCLASS 2 (R272, R374). -/
def Mach.setLending (m : Mach) (c : Nat) : Mach :=
  let on := (m.core c).cids.any fun i => match m.ctx i with
    | some x => x.dead.dclass == 2
    | none => false
  m.onCore c fun k => { k with pwr := { k.pwr with lendDis := on, nofs := on, lending := k.pwr.lending && !on } }

/-- The partition in force on a logical core: the largest request of the contexts there (R140). -/
def Mach.partitionFor (m : Mach) (core : Nat) : Nat := cbanksFor ((m.ctxs.map fun e => e.2.slots).flatten) core

/-- Set the partition of cores, with its pause charged to the other contexts there (R140). -/
def Mach.setPartitions (m : Mach) (cid : Nat) (cores : List Nat) : Mach :=
  cores.eraseDups.foldl (fun m core =>
    let c := m.runs core
    let cb := m.partitionFor core
    if (m.core c).mem.cbanks = cb then m
    else (m.setPartition c cb).suspend ((m.core c).cids.filter (· != cid)) (Config.pauseUs 0 m.cc)) m

/-- The routers' group entries of a context (R195): at every core that holds a slot of it. -/
def Mach.setGroups (m : Mach) (cid : Nat) (cores : List Nat) (groups : AMap (BitVec 60)) : Mach :=
  m.onCores cores.eraseDups fun _ k =>
    let gs := k.router.groups.filter fun g => g.1 / 256 != cid
    { k with router := { k.router with groups := groups.foldl (fun l g => aset l (cid * 256 + g.1) g.2) gs } }

/-- A core in its safe state (R413): CORE_LOGIC and banks OFF with isolation held; BANKCTL stays ON where R25 needs it. -/
def Core.safe (k : Core) (keepUb : Bool) : Core :=
  let k := k.lost
  let off : Pwr := { k.pwr with edepth := 3, bankctl := .off, sr := .replicate 2 false, iso := 0xFF, stopped := false, fsleep := false,
                                fsWake := false, level := 0 }
  { k with lindex := none, ub := if keepUb then k.ub else [], poisonU := if keepUb then k.poisonU else [], soft := if keepUb then k.soft else [],
           pwr := if keepUb then { off with bankctl := k.pwr.bankctl, sr := k.pwr.sr, iso := 0x7F } else off }

/-- Whether a context's under-bank window lies on a core index. -/
def Mach.ubUsed (m : Mach) (idx : Nat) : Bool := m.ctxs.any fun e => e.2.slots.any fun s => s.core == idx && 0 < s.ub.2

/-- Fenced cores that hold no window any more: their BANKCTL goes OFF (R25, R413). -/
def Mach.releaseUb (m : Mach) (cores : List Nat) : Mach :=
  (cores.filter fun c => m.coreOut c && (m.substOf c).isNone && (m.core c).pwr.bankctl != .off && !m.ubUsed c).foldl
    (fun m c => m.onCore c fun k => k.safe false) m

/-- Job-table entries of a context (R295). -/
def Mach.setTags (m : Mach) (cid : Nat) (tags : List JobTag) : Mach :=
  let kept := m.fabric.jobs.filter fun j => j.cid.toNat != cid
  { m with fabric := { m.fabric with jobs := kept ++ tags.map fun t => { t with cid := BitVec.ofNat 10 cid } } }

/-- An admitted configuration put in place of the old one (R269). -/
def Mach.install (m : Mach) (cid : Nat) (x : Ctx) (c : CfgBlock) : Mach :=
  let cores := c.slots.map fun s => s.core
  let all := (cores ++ x.slots.map fun s => s.core).eraseDups
  let m := cores.eraseDups.foldl (fun m core => m.bringUp (m.runs core)) m
  let m := m.unplace cid x.slots c.slots
  let bases := cores.eraseDups.map fun core => (core, (accBases (m.core (m.runs core)) cid c.slots core).getD [])
  let baseOf (e : CtxSlot) : Nat := agetD (agetD bases e.core []) e.slot 0
  let m := c.slots.foldl (fun m e => m.onCore (m.runs e.core) fun k =>
    placeShared (placeSlot k e cid x.dbg c.dead.sentry (partnerOf c.slots e.core) (baseOf e)) e cid) m
  let m := m.setCtx cid { x with st := .admitted, slots := c.slots, resv := c.resv, dead := c.dead, groups := c.groups,
                                 tags := c.tags.map fun t => t.tag, clock := 0, overSegs := [], lowered := false, replaceAt := none }
  let m := m.setGroups cid (all.map m.runs) []
  let m := m.setGroups cid (cores.map m.runs) c.groups
  let m := (m.setTags cid c.tags).setPartitions cid all
  let m := (all.map m.runs).foldl (fun m k => m.setLending k) m
  (m.releaseUb all).setRates

end Sys2Proof.Machine
end

