-- ==== Sys2Proof/Machine/Engine.lean ====
section
/-! DEFINITION. Issue rounds and the completion of tile operations: BUNDLE_ISSUE, ISSUE_ROUND_START, NODE_FIRE,
TILE_LD_COMPLETE, TILE_MAC_COMPLETE, TILE_ST_COMPLETE, TILE_ZERO_COMPLETE (R52, R56, R126 to R133, R243). -/

namespace Sys2Proof.Machine

open Sys2Proof

/-- ISSUE_ROUND_START (R56): a round starts when the last one has no issue cycle left. -/
def roundStartAt (c : Nat) (m : Mach) : Mach :=
  m.when ((m.core c).pwr.logic == .on && (m.core c).seq.left == 0) fun m => m.onCore c Core.newRound

/-- The first tile operation of a kind that is complete in this cycle, with its place in the list. -/
def Mach.doneOp (m : Mach) (c : Nat) (kind : TileWork → Bool) : Option (Nat × TileOp) :=
  let ops := (m.core c).eng.ops
  match (List.range ops.length).find? fun i => kind (lget ops i).work with
  | some i => if (lget ops i).doneAt ≤ m.cc then some (i, lget ops i) else none
  | none => none

/-- The engine without operation i. -/
def Core.dropOp (k : Core) (i : Nat) : Core := { k with eng := { k.eng with ops := k.eng.ops.eraseIdx i } }

def isLd (w : TileWork) : Bool :=
  match w with
  | .ld .. => true
  | _ => false
def isMac (w : TileWork) : Bool :=
  match w with
  | .mac .. => true
  | _ => false
def isSt (w : TileWork) : Bool :=
  match w with
  | .st .. => true
  | _ => false
def isZero (w : TileWork) : Bool :=
  match w with
  | .zero .. => true
  | _ => false

/-- TILE_LD_COMPLETE (R126, R129): the buffer holds the tile, and a TILE.MAC of it swaps weights. -/
def ldComplete (c : Nat) (m : Mach) : Mach :=
  match m.doneOp c isLd with
  | some (i, o) =>
    (match o.work with
     | .ld w buf => m.onCore c fun k =>
        let k := (k.dropOp i).onSlot o.slot fun v => { v with arch := { v.arch with wbuf := vset v.arch.wbuf w buf } }
        if k.eng.last = some (o.slot, w) then { k with eng := { k.eng with last := none } } else k
     | _ => m)
  | none => m

/-- The bytes that sentry's CRC covers for a TILE.MAC (R423). -/
def macResult (k : Core) (acc rows : Nat) : Bytes :=
  ((List.range rows).map fun i =>
    toBytes 128 (k.accRow (acc + i)).main.toNat ++ toBytes 128 (k.accRow (acc + i)).low.toNat).flatten

/-- TILE_MAC_COMPLETE (R104 to R111, R131). -/
def macComplete (c : Nat) (m : Mach) : Mach :=
  match m.doneOp c isMac with
  | some (i, o) =>
    (match o.work with
     | .mac _ buf fa sf acc rows exact pair clr ovf subn stream scales =>
        let m := m.onCore c fun k =>
          (k.dropOp i).macRows fa.toNat buf sf.toNat exact pair clr ovf subn acc rows stream scales
        if o.sample then m.senSend c o.slot 0 (macResult (m.core c) acc rows) o.psize o.step o.occ else m
     | _ => m)
  | none => m

/-- TILE_ST_COMPLETE (R132): what is due by this cycle is written or sent, and the first TILE.ST that has written its last row or sent its last message ends; a sampled one then
sends its packet. -/
def stComplete (c : Nat) (m : Mach) : Mach :=
  let m := m.stAdvance c
  let ops := (m.core c).eng.ops
  match (List.range ops.length).find? fun i => (lget ops i).stored with
  | none => m
  | some i =>
    let o := lget ops i
    let m := m.onCore c fun k => k.dropOp i
    match o.work with
    | .st _ _ bytes _ _ _ _ => if o.sample then m.senSend c o.slot 0 bytes o.psize o.step o.occ else m
    | _ => m

/-- TILE_ZERO_COMPLETE (R130): the array is free of the operation. -/
def zeroComplete (c : Nat) (m : Mach) : Mach :=
  match m.doneOp c isZero with
  | some (i, _) => m.onCore c fun k => k.dropOp i
  | none => m

def execBundleIssue (c : CoreRead) (s : State) : Host.Outcome State Fault Refusal := upd (bundleIssueAt c.core c.cells) s
def execNodeFire (c : CoreRead) (s : State) : Host.Outcome State Fault Refusal := upd (nodeFireAt c.core c.cells) s
def execIssueRoundStart (c : CoreIx) (s : State) : Host.Outcome State Fault Refusal := upd (roundStartAt c) s
def execTileLdComplete (c : CoreIx) (s : State) : Host.Outcome State Fault Refusal := upd (ldComplete c) s
def execTileMacComplete (c : CoreIx) (s : State) : Host.Outcome State Fault Refusal := upd (macComplete c) s
def execTileStComplete (c : CoreIx) (s : State) : Host.Outcome State Fault Refusal := upd (stComplete c) s
def execTileZeroComplete (c : CoreIx) (s : State) : Host.Outcome State Fault Refusal := upd (zeroComplete c) s

end Sys2Proof.Machine
end

