-- ==== Sys2Proof/Machine/CtxCmd.lean ====
section
/-! DEFINITION. The life of a context: CTX_CREATE, CTX_CONFIGURE, CTX_RESET, CTX_DESTROY, bucket refills, recomputed reach and the
hang limit (R205, R230, R261 to R269, R278 to R280). -/

namespace Sys2Proof.Machine

open Sys2Proof

/-! ## Buckets, reach and the hang limit -/

/-- The key of a named bucket, and its refill period in cycles (R266). -/
def bucketKey (b : BucketName) : Nat × Nat :=
  match b with
  | .injection c cid => (injKey c cid.toNat, 64)
  | .seam c cid => (seamKey c cid.toNat, 1024)
  | .underBank c cid => (ubKey c cid.toNat, 64)
  | .egress p tag => (egressKey p tag.toNat, 1024)

/-- A bucket after a refill: its rate added, at most twice the rate held; what is owed is paid first. -/
def Bucket.refill (b : Bucket) (period : Nat) : Bucket :=
  { b with tokens := min (2 * b.rate) (b.tokens + (b.rate - b.owed)), owed := b.owed - b.rate, at_ := b.at_ + period }

/-- BUCKET_REFILL (R266): at the end of a refill period. -/
def bucketRefillAt (b : BucketName) (m : Mach) : Mach :=
  let k := bucketKey b
  match aget m.buckets k.1 with
  | some x => m.when (x.at_ + k.2 ≤ m.cc) fun m => { m with buckets := aset m.buckets k.1 (x.refill k.2) }
  | none => m

/-- Segments that substitutions and detours add to a context's reach and on which the reservations exceed the capacity (R265). -/
def Mach.overSegsOf (m : Mach) (cid : Nat) (x : Ctx) : List Nat :=
  let old := m.plainReach x
  let reach := m.ctxReach x
  (reach.filter fun s => !old.contains s).filter fun s => [0, 1].any fun d =>
    m.capacity 3 s < demandAt x.slots x.resv reach 3 d s + m.othersAt cid 3 d s

/-- The REPLACE_REQUIRED event of a segment (R265, R350). -/
def Mach.replaceEvent (m : Mach) (cid seg : Nat) : Mach :=
  match m.ctx cid with
  | some x => m.raiseAll (x.owner :: pfs) (m.event 8 cid 0 0 seg 0)
  | none => m

/-- REACH_RECOMPUTE (R265). -/
def reachRecomputeAt (cid : Nat) (m : Mach) : Mach :=
  match m.ctx cid with
  | none => m
  | some x => m.when (x.st == .admitted) fun m =>
      let ovr := m.overSegsOf cid x
      let y := { x with overSegs := ovr, lowered := !ovr.isEmpty, replaceAt := if ovr.isEmpty then none else some m.cc }
      let m := (m.setCtx cid y).setRates
      ovr.foldl (fun m s => m.replaceEvent cid s) m

/-- Ten seconds in cycles. -/
def tenSeconds : Nat := 12000000000

/-- REPLACE_REQUIRED_REPEAT (R265). -/
def replaceRepeatAt (cid : Nat) (m : Mach) : Mach :=
  match m.ctx cid with
  | none => m
  | some x =>
    match x.replaceAt with
    | none => m
    | some t => m.when (t + tenSeconds ≤ m.cc) fun m =>
        let ovr := x.overSegs.filter fun s => (m.ctxReach x).contains s
        let m := m.setCtx cid { x with overSegs := ovr, replaceAt := if ovr.isEmpty then none else some m.cc,
                                       lowered := !ovr.isEmpty }
        if ovr.isEmpty then m.setRates else ovr.foldl (fun m s => m.replaceEvent cid s) m

/-- Halt every slot and plane of a context, with the events of R64. -/
def Mach.haltCtx (m : Mach) (cid cause : Nat) : Mach :=
  (m.cores.map fun e => (e.2.slotsOf cid).map fun s => (e.1, s)).flatten.foldl (fun m x => m.forceHaltAt x.1 x.2 cause) m

/-- HANG_LIMIT (R280). -/
def hangLimitAt (cid : Nat) (m : Mach) : Mach :=
  match m.ctx cid with
  | none => m
  | some x => m.when (x.st == .admitted && x.dead.hang != 0 && x.dead.hang * 1200000 ≤ x.clock && m.ctxLive cid) fun m =>
      let m := m.haltCtx cid 7
      let m := m.onCtx cid fun x => { x with clock := 0, prog := { x.prog with hangs := x.prog.hangs + 1 } }
      (m.logRec 0x0F 0xFFFF cid).raiseOwner cid (m.event 2 cid 0 0 0 0)

/-! ## CTX_CREATE and CTX_CONFIGURE -/

/-- CTX_CREATE (R261, R263): the lowest free CID. -/
def ctxCreateAt (f tag : Nat) (m : Mach) : Mach :=
  m.runCmd f tag 0x0100 (fun _ => true) fun x m =>
    let dbg := bitOf (le x.arg 0 1) 0
    match (List.range 1024).find? fun c => (m.ctx c).isNone with
    | none => m.done x 0x0201
    | some cid =>
      if m.boot.life = .retired || (m.boot.life = .manufacture && !dbg) then m.done x 0x0503
      else
      (m.setCtx cid { owner := if f = mgmtFn then 0 else f, dbg := dbg }).done x 0 cid

/-- Whether every slot of a context is LOADED or HALTED (R269). -/
def Mach.ctxIdle (m : Mach) (cid : Nat) : Bool :=
  m.cores.all fun e => (e.2.slotsOf cid).all fun s => (e.2.slot s).ctl.st == .loaded || (e.2.slot s).ctl.st == .halted

/-- CTX_CONFIGURE (R269, R270). An admitted configuration that changes a cache's partition is installed once no line is on its way into that cache (R140). -/
def ctxConfigureAt (f tag : Nat) (data : Option Bytes) (m0 : Mach) : Mach :=
  m0.runCmd f tag 0x0101 (fun _ => true) fun x m =>
    match m.ctxStatus x (fun st => st == .created || st == .admitted), m.ctx x.cid with
    | some st, _ => m.done x st
    | none, none => m.done x 0x0103
    | none, some y =>
      if !m.ctxIdle x.cid then m.done x 0x0402
      else m.withData x data fun b m =>
        let c := (readBlock b).merge
        match m.admission x.cid y.dbg c with
        | some r => m.done x r.status r.res0 r.detail
        | none =>
          let cores := ((y.slots ++ c.slots).map fun s => s.core).eraseDups
          if m.partitionWaits (m.otherSlots x.cid) c.slots cores then m0 else (m.install x.cid y c).done x 0

/-! ## CTX_RESET and CTX_DESTROY -/

/-- What a purge of a CID discards of a router (R205): the context's flits in every input and output buffer, its partial messages at
the local output, its multicast acknowledgements; a copy in a replay buffer is discarded when it is replayed. -/
def purgeRouter (r : Router) (cid : BitVec 10) : Router :=
  let mine (f : Flit) : Bool := f.cid == cid && !f.fw
  let held := r.heldSince.filter fun e => match agetD r.lo (e.1 % 16) [] with
    | f :: _ => !mine f
    | [] => true
  let out (p : OutPort) : OutPort :=
    { p with replay := p.replay.map fun f => if mine f then { f with purged := true } else f,
             busyIn := p.busyIn.filter fun e => e.2 / 4096 != cid.toNat }
  { r with bufs := amap r.bufs fun _ l => l.filter fun f => !mine f, lo := amap r.lo fun _ l => l.filter fun f => !mine f,
           outs := amap r.outs fun _ p => out p, urgQ := r.urgQ.filter fun f => !mine f,
           aggs := r.aggs.filter fun a => a.cid != cid, heldSince := held }

/-- A slot as a CTX_RESET leaves it (R60, R64, R125, R230, R278): LOADED, its work gone, its weight buffers zero, its send ports
unbound, its history empty. -/
def resetSlot (v : Slot) (cc : Nat) : Slot :=
  { v with ctl := { v.ctl with st := .loaded, ready := false, block := 10, cause := 0, imprecise := false, more := false,
                               faultPc := 0, faultAddr := 0 },
           arch := { v.arch with wbuf := .replicate 2 {} },
           ali := { v.ali with hlimit := 0, hstat := 0, hsseq := 0, sp := .replicate 8 0, deferMat := false, deferVec := false },
           run := { due := v.run.due, expTick := v.run.expTick },
           plane := v.plane.map fun p => { p with rings := [], active := false, phase := .window, since := cc, probe := {},
                                                  order := none, steerAt := [], steerOut := [] } }

/-- The bytes of a window that a scrub of the given options clears in bank b (R278 phase 5). -/
def scrubBank (k : Core) (lo hi opts b : Nat) : Option (Nat × Nat) :=
  let a := max lo (b * 65536)
  let z := min hi (b * 65536 + 65536)
  if a < z && bitOf opts (b2n (bitOf k.mem.resident.toNat b)) then some (a, z - a) else none

/-- Clear a range of a space; its poison and, for the under-bank, the cached copies go with it. -/
def Core.wipe (k : Core) (space lo n : Nat) : Core :=
  if space = 0 then { k with sram := memClear k.sram lo n, poisonS := k.poisonS.filter fun w => !(lo ≤ w * 8 && w * 8 < lo + n) }
  else { k with ub := memClear k.ub lo n, poisonU := k.poisonU.filter (fun w => !(lo ≤ w * 32 && w * 32 < lo + n)),
                soft := k.soft.filter fun e => !(lo ≤ e.1 * 32 && e.1 * 32 < lo + n) }

/-- The scrub of a slot's windows. -/
def scrubSlot (k : Core) (s opts : Nat) : Core :=
  let t := (k.slot s).ctl
  let lo := winReg t 0 % 2 ^ 19
  let k := ((List.range 6).filterMap (scrubBank k lo (lo + winReg t 4 % 2 ^ 20) opts)).foldl (fun k r => k.wipe 0 r.1 r.2) k
  if bitOf opts 2 then k.wipe 1 (winReg t 1 % 2 ^ 25) (winReg t 5 % 2 ^ 26) else k

/-- A tile operation of a slot stopped at its pass boundary (R134): nothing more of it is written, and the array is free; what a TILE.ST has written by this cycle stands. -/
def stopTiles (k : Core) (ss : List Nat) (cc : Nat) : Core :=
  let runs (ld : Bool) : Bool := k.eng.ops.any fun o => ss.contains o.slot && isLd o.work == ld && cc ≤ o.busyTo
  { k with eng := { ops := k.eng.ops.filter fun o => !ss.contains o.slot,
                    busyTo := if runs false then some cc else k.eng.busyTo,
                    loadTo := if runs true then some cc else k.eng.loadTo,
                    last := none } }

/-- The accumulator block of a slot cleared (R134). -/
def clearBlock (k : Core) (s : Nat) : Core :=
  let t := (k.slot s).ctl
  let lo := t.accBase.toNat * 32
  { k with acc := k.acc.filter fun e => !(lo ≤ e.1 && e.1 < lo + t.accRows.toNat * 32) }

/-- Phases 1 to 5 of a reset at one core (R278). -/
def resetCore (k : Core) (cid opts cc : Nat) : Core :=
  let c10 := BitVec.ofNat 10 cid
  let mine (f : Flit) : Bool := f.cid == c10 && !f.fw
  let k := { k with router := purgeRouter k.router c10, gathers := k.gathers.filter (fun g => g.cid != c10),
                    attach := (k.attach.map fun (l : List Flit) => l.filter fun f => !mine f).filter (fun l => !l.isEmpty),
                    ubWait := k.ubWait.filter (fun x => !mine x.1) }
  let ss := k.slotsOf cid
  if ss.isEmpty then k
  else
    let k := stopTiles k ss cc
    let k := ss.foldl clearBlock k
    let k := { k with xfers := k.xfers.filter fun x => !ss.contains x.slot, ubq := k.ubq.filter fun a => !ss.contains a.slot,
                      sb := k.sb.filter fun e => !ss.contains e.slot,
                      holdDue := k.holdDue.filter (fun q => !((k.queue q).valid && ss.contains (k.queue q).slot.toNat)),
                      fills := k.fills.filter fun g => g.rid.isNone || !ss.contains g.slot,
                      queues := k.queues.map fun q => if q.valid && ss.contains q.slot.toNat then
                        { q with msgs := [], port := 0, thresh := 32, freed := 0 } else q,
                      huddles := k.huddles.map fun h => if h.owner == some c10 then { owner := some c10 } else h,
                      lines := if bitOf opts 2 then k.lines.filter fun l => l.cid != c10 else k.lines }
    ss.foldl (fun k s => ((scrubSlot k s opts).dropVotes s).onSlot s fun v => resetSlot v cc) k

/-- Phases 1 to 5 of a reset on every core, with the context's fabric work and job tags (R278, R279). -/
def Mach.resetWork (m : Mach) (cid opts : Nat) : Mach :=
  let held (c s : Nat) : Bool := (m.core c).slotsOf cid |>.contains s
  let reqs := m.fabric.reqs.filter fun r => !held r.core r.slot
  let jobs := m.fabric.jobs.map fun j => if j.cid.toNat = cid then { j with revoked := true } else j
  let m := { m with fabric := { m.fabric with reqs := reqs, jobs := jobs } }
  let m := (m.cores.filter fun e => (e.2.packets ++ e.2.prep.map (·.1)).any fun p => p.cid.toNat == cid).foldl
    (fun m e => m.losePackets e.1 fun p => p.cid.toNat == cid) m
  let m := (m.cores.filter fun e => !(e.2.slotsOf cid).isEmpty).foldl (fun m e => m.stAdvance e.1) m
  let m := m.mapCores fun _ k => resetCore k cid opts m.cc
  m.onCtx cid fun x => { x with clock := 0, requests := [], firstCause := 0 }

/-- The buckets of a context filled to their depth. -/
def Mach.fillBuckets (m : Mach) (cid : Nat) (tags : List (BitVec 16)) : Mach :=
  let mine (key : Nat) : Bool := if key % 4 = 3 then tags.contains (BitVec.ofNat 16 (key / 4 % 65536)) else key / 4 % 1024 == cid
  { m with buckets := amap m.buckets fun key b => if mine key then { b with tokens := 2 * b.rate, owed := 0 } else b }

/-- Commands of a context that its reset abandons (R279, R338). -/
def Mach.abandon (m : Mach) (cid : Nat) : Mach :=
  { m with host := { m.host with cmds := m.host.cmds.map fun y =>
      if y.cid == cid && y.started && y.result.isNone && !([0x0102, 0x0103].contains y.opcode) && namesCtx y then
        { y with result := some (cplOf y 0x0407 0) } else y } }

/-- Whether a command waits for a substitution under way on a core of its context (R418). -/
def Mach.moving (m : Mach) (f tag op : Nat) : Bool :=
  match (m.cmdFor f tag op).bind fun x => m.ctx x.cid with
  | some y => m.wafer.subst.toList.any fun e => e.holding && y.slots.any fun s => s.core == e.orig
  | none => false

/-- CTX_RESET (R278): its completion ends the RESETTING state. -/
def ctxResetAt (f tag : Nat) (m : Mach) : Mach :=
  m.runCmd f tag 0x0102 (fun _ => !m.moving f tag 0x0102) fun x m =>
    if 7 < le x.arg 0 1 then m.done x 0x0102
    else m.onAdmitted x fun y m =>
      let m := (((m.abandon x.cid).resetWork x.cid (le x.arg 0 1)).fillBuckets x.cid y.tags).onCtx x.cid fun y => { y with st := .resetting }
      m.done x 0

/-- Cores that a context leaves: those with no slot left go to the depth of EDEPTH (R360). -/
def Mach.leaveCores (m : Mach) (cs : List Nat) : Mach := m.onCores cs.eraseDups fun _ k => k.emptyDrop

/-- The work of a CTX_DESTROY: phases 1 to 5 with every scrub, then everything of R261 released. -/
def Mach.destroyCtx (m : Mach) (cid : Nat) : Mach :=
  match m.ctx cid with
  | none => m
  | some x =>
    let cores := (x.slots.map fun s => s.core).eraseDups
    let m := ((m.abandon cid).resetWork cid 7).unplace cid x.slots []
    let m := (m.setGroups cid (cores.map m.runs) []).setTags cid []
    let m := m.setCtx cid { x with st := .destroying, slots := [], resv := [], groups := [], tags := [], dead := {}, overSegs := [],
                                   lowered := false, replaceAt := none, heldDestroy := none, logOpen := false, logPolicy := 0,
                                   logNext := 0 }
    let m := (m.dropBuckets cid x.tags).setPartitions cid cores
    let m := (cores.map m.runs).foldl (fun m k => m.setLending k) m
    ((m.leaveCores (cores.map m.runs)).releaseUb cores).setRates

/-- CTX_DESTROY (R262, R279): during a reset it is held until the reset completes; one that changes a cache's partition waits until no line is on its way into that cache
(R140). -/
def ctxDestroyAt (f tag : Nat) (m : Mach) : Mach :=
  match m.cmdFor f tag 0x0103 with
  | none => m
  | some x =>
    match m.ctx x.cid with
    | none => m.done x 0x0103
    | some y =>
      let wait := m.partitionWaits (m.otherSlots x.cid) [] ((y.slots.map fun s => s.core).eraseDups)
      if x.started then
        (if wait then m else if y.st = .destroying && y.heldDestroy = some (f, tag) then (m.destroyCtx x.cid).done x 0 else m)
      else if !m.mayStart x || m.moving f tag 0x0103 then m
      else if y.st = .destroying || (y.st = .resetting && y.heldDestroy.isSome) then m.done x 0x0401
      else if y.st = .resetting then
        (m.onCtx x.cid fun y => { y with heldDestroy := some (f, tag) }).onCmd x.order fun z => { z with started := true }
      else if wait then m
      else (m.destroyCtx x.cid).done x 0

def execBucketRefill (b : BucketName) (s : State) : Host.Outcome State Fault Refusal := upd (bucketRefillAt b) s
def execReachRecompute (cid : BitVec 10) (s : State) : Host.Outcome State Fault Refusal := upd (reachRecomputeAt cid.toNat) s
def execReplaceRequiredRepeat (cid : BitVec 10) (s : State) : Host.Outcome State Fault Refusal :=
  upd (replaceRepeatAt cid.toNat) s
def execHangLimit (cid : BitVec 10) (s : State) : Host.Outcome State Fault Refusal := upd (hangLimitAt cid.toNat) s
def execCtxCreate (f : FnIx) (tag : BitVec 16) (s : State) : Host.Outcome State Fault Refusal := upd (ctxCreateAt f tag.toNat) s
def execCtxConfigure (f : FnIx) (tag : BitVec 16) (data : Option Bytes) (s : State) : Host.Outcome State Fault Refusal :=
  upd (ctxConfigureAt f tag.toNat data) s
def execCtxReset (f : FnIx) (tag : BitVec 16) (s : State) : Host.Outcome State Fault Refusal := upd (ctxResetAt f tag.toNat) s
def execCtxDestroy (f : FnIx) (tag : BitVec 16) (s : State) : Host.Outcome State Fault Refusal := upd (ctxDestroyAt f tag.toNat) s

end Sys2Proof.Machine
end

