-- ==== Sys2Proof/Machine/Load.lean ====
section
/-! DEFINITION. LOAD of memory and flow regions, LAUNCH and STEP_WAIT (R239 to R242, R341, R343, R344). -/

namespace Sys2Proof.Machine

open Sys2Proof

/-- The slot entry of a context at a logical core and slot. -/
def Ctx.entry (x : Ctx) (core s : Nat) : Option CtxSlot := x.slots.find? fun e => e.core == core && e.slot == s

/-- A core as firmware reaches one of its memories: scratchpad with its bank ON, a tier out of self-refresh. -/
def Mach.fwReach (m : Mach) (c space off : Nat) : Mach :=
  if space = 0 then m.bringUp c
  else m.onCore c fun k => { (k.touch space off m.cc) with pwr := { (k.touch space off m.cc).pwr with
    sr := vset k.pwr.sr (tierOf off) false, bankctl := if k.pwr.bankctl == .ret then .on else k.pwr.bankctl } }

/-- The range that a LOAD names in a slot's window (R145, R343): the space and physical offset. -/
def Mach.loadPlace (m : Mach) (core s space off n : Nat) (write : Bool) : Option Place :=
  if 2 ^ 25 ≤ off then none else resolve ((m.core (m.runs core)).slot s).ctl core (space * 2 ^ 62 + off) n write

/-- The cores that a FORM 0 LOAD writes: the one named, and those of its rectangle that hold the slot. -/
def loadCores (x : Ctx) (core s x1 y1 : Nat) : List Nat :=
  if x1 = 0 && y1 = 0 then [core]
  else (rectCores (coreX core, coreY core, x1, y1)).filter fun c => (x.entry c s).isSome

/-- LOAD FORM 0 (R343, R344). -/
def loadH2MAt (f tag : Nat) (data : Option Bytes) (m : Mach) : Mach :=
  m.runCmd f tag 0x0110 (fun x => le x.arg 0 1 == 0) fun x m => m.onAdmitted x fun y m =>
    let core := le x.arg 1 4
    let s := le x.arg 5 1
    let space := le x.arg 6 1
    let off := le x.arg 7 8
    let x1 := le x.arg 15 2
    let y1 := le x.arg 17 2
    let rect := x1 != 0 || y1 != 0
    if x.len = 0 then m.done x 0
    else if 1 < space || (y.entry core s).isNone || (rect && (x1 < coreX core || y1 < coreY core || 383 < x1 || 335 < y1)) then
      m.done x 0x0102
    else
      let places := (loadCores y core s x1 y1).map fun c => (c, m.loadPlace c s space off x.len true)
      if places.any fun p => p.2.isNone then m.done x 0x0104
      else m.withData x data fun b m =>
        (places.foldl (fun m p => match p.2 with
          | some q => (m.fwReach (m.runs p.1) space q.off).onCore (m.runs p.1) fun k => k.writeMem space q.off b
          | none => m) m).done x 0

/-- LOAD FORM 1 (R343, R344). -/
def loadM2HAt (f tag : Nat) (ok : Bool) (m : Mach) : Mach :=
  m.runCmd f tag 0x0110 (fun x => le x.arg 0 1 == 1) fun x m => m.onAdmitted x fun y m =>
    let core := le x.arg 1 4
    let s := le x.arg 5 1
    let space := le x.arg 6 1
    if x.len = 0 then m.done x 0
    else if 1 < space || (y.entry core s).isNone then m.done x 0x0102
    else match m.loadPlace core s space (le x.arg 7 8) x.len false with
      | none => m.done x 0x0104
      | some q =>
        let m := m.fwReach (m.runs core) space q.off
        m.doneWith x ok ((m.core (m.runs core)).readMem space q.off x.len) 0

/-! ## Flow regions (R238 to R242) -/

/-- Bytes of a plane descriptor by its node count. -/
def planeLen (b : Bytes) : Nat := 0x150 + 16 * le b 2 1

/-- Node template i of a descriptor. -/
def nodeAt (b : Bytes) (i : Nat) : Nat := le b (0x150 + 16 * i) 16

/-- A queue-configuration entry of a descriptor. -/
def qcfg (b : Bytes) (q : Nat) : Nat := le b (0x18 + 2 * q) 2

/-- A STEER entry as stored. -/
def steerOf (v : Nat) : Steer :=
  { kind := BitVec.ofNat 2 v, qc := BitVec.ofNat 3 (v / 4), qa := BitVec.ofNat 3 (v / 32), qb := BitVec.ofNat 3 (v / 256),
    ot := BitVec.ofNat 3 (v / 2048), off := BitVec.ofNat 3 (v / 16384) }

/-- A STEER value that R247 allows. -/
def steerOk (v : Nat) : Bool :=
  (fld v 0 2 != 0 || v == 0) && v / 2 ^ 17 == 0 && (fld v 0 2 == 2 || fld v 8 3 == 0) && (fld v 0 2 == 1 || fld v 14 3 == 0)

/-- The queues that a template's parts can pop, whatever its predicates. -/
def nodePopSets (b : Nat) : List Nat × List Nat × List Nat := popsOf {} (b / 2 ^ 121 * 2 ^ 121 + b % 2 ^ 118)

/-- Whether a template may stand in a plane (R241). -/
def nodeOk (b : Nat) (cfg : Nat → Nat) : Bool :=
  let p := nodePopSets b
  let port (q : Nat) : Nat := cfg q % 8
  !bStop b && !([0x0E, 0x0F, 0x10, 0x13, 0x1A, 0x15].contains (sOp (bS b))) && !(p.1 ++ p.2.1 ++ p.2.2).isEmpty &&
  (p.1.all fun q => port q == 1 || port q == 4) && (p.2.1.all fun q => port q == 2 || port q == 4) &&
  (p.2.2.all fun q => port q == 3 || port q == 4)

/-- The steering units of a slot's plane. -/
def planeUnits (v : Slot) : Nat :=
  match v.plane with
  | some p => (p.steer.filter fun e => e.kind != 0).length
  | none => 0

/-- Whether a descriptor may be installed in a slot of a core (R240, R241). -/
def descOk (k : Core) (s region : Nat) (b : Bytes) : Bool :=
  let t := (k.slot s).ctl
  let win := le b 4 4
  let per := le b 8 4
  let bs := le b 0xC 4
  let base := le b 0x10 8
  let n := le b 2 1
  let mine (q : Nat) : Bool := (k.queue q).valid && (k.queue q).slot.toNat == s
  let st (u : Nat) : Nat := le b (0x68 + 8 * u) 8
  let units := ([0, 1, 2, 3].filter fun u => fld (st u) 0 2 != 0).length
  let others := ([0, 1, 2, 3].map fun i => if i = s then 0 else planeUnits (k.slot i)).sum
  let qOk (q : Nat) : Bool :=
    let c := qcfg b q
    if mine q then c / 512 == 0 && c % 8 ≤ 5 && 1 ≤ c / 8 % 64 && c / 8 % 64 ≤ 32 else c == 0
  let takes (u q : Nat) : Bool := steerTakes (steerOf (st u)) q
  let five (q : Nat) : Bool :=
    if mine q && qcfg b q % 8 == 5 then ([0, 1, 2, 3].filter fun u => takes u q).length == 1 else [0, 1, 2, 3].all fun u => !takes u q
  le b 0 2 == 1 && 1 ≤ n && n ≤ 16 && le b 3 1 == region && (win == 0 || (256 ≤ win && win ≤ 1048576)) &&
  (per == 0 || (64 ≤ per && per ≤ 65536 && 2 ^ per.log2 == per)) && bs % 8192 == 0 && base % 4096 == 0 &&
  (bs == 0 || base + bs ≤ winReg t 5 % 2 ^ 26) && ((List.range 8).all qOk) && ((List.range 8).all five) &&
  ((List.range 8).all fun o => sendPortOk t (le b (0x28 + 8 * o) 8)) && ([0, 1, 2, 3].all fun u => steerOk (st u)) &&
  units + others ≤ 4 && ((List.range 8).all fun i => sdValueOk (le b (0x108 + 8 * i) 8)) &&
  ((List.range n).all fun i => nodeOk (nodeAt b i) (qcfg b)) && b.length == planeLen b

/-- The slot of a core that takes a region's plane: the one that holds it already, which must be LOADED or HALTED, since a core holds one plane of a region (R238); where
there is none, the first LOADED one of the context without a plane. -/
def Core.planeSlot (k : Core) (cid region : Nat) : Option Nat :=
  match (k.slotsOf cid).find? fun s => match (k.slot s).plane with
    | some p => p.region == region
    | none => false with
  | some s => if (k.slot s).ctl.st = .loaded || (k.slot s).ctl.st = .halted then some s else none
  | none => (k.slotsOf cid).find? fun s => (k.slot s).plane.isNone && (k.slot s).ctl.st == .loaded

/-- A plane as it is loaded (R242). -/
def installPlane (k : Core) (s lindex cc : Nat) (rect : Nat × Nat × Nat × Nat) (b : Bytes) : Core :=
  let win := le b 4 4
  let n := le b 2 1
  let p : Plane := { region := le b 3 1, rect := rect, nodes := (List.range n).map fun i => BitVec.ofNat 128 (nodeAt b i),
                     ptr := n - 1, window := if win = 0 then 4096 else win, speriod := le b 8 4, bsSize := le b 0xC 4,
                     bsBase := le b 0x10 8, steer := (List.range 4).map fun u => steerOf (le b (0x68 + 8 * u) 8),
                     since := cc, lastSample := cc }
  let arch (a : SlotArch) : SlotArch :=
    { a with s := Vector.ofFn fun i => if i.val < 16 then BitVec.ofNat 64 (le b (0x88 + 8 * i.val) 8) else 0,
             p := 1, v := .replicate 32 0, gen := seedAll (le b 0x148 8) lindex s,
             sd := Vector.ofFn fun i => BitVec.ofNat 64 (le b (0x108 + 8 * i.val) 8) }
  let k := k.onSlot s fun v =>
    { v with arch := arch v.arch, plane := some p,
             ali := { v.ali with sp := Vector.ofFn fun i => BitVec.ofNat 64 (le b (0x28 + 8 * i.val) 8) } }
  { k with queues := Vector.ofFn fun q =>
      let x := k.queue q.val
      if x.valid && x.slot.toNat = s then
        { x with port := BitVec.ofNat 3 (qcfg b q.val), thresh := BitVec.ofNat 6 (qcfg b q.val / 8) } else x }

/-- The descriptors of a region, one per core in row order. -/
def cutPlanes : List Nat → Bytes → List (Nat × Bytes)
  | [], _ => []
  | c :: r, b => (c, b.take (planeLen b)) :: cutPlanes r (b.drop (planeLen b))

/-- LOAD FORM 2 (R37, R238, R241, R242). -/
def loadRegionAt (f tag : Nat) (data : Option Bytes) (m : Mach) : Mach :=
  m.runCmd f tag 0x0110 (fun x => le x.arg 0 1 == 2) fun x m => m.onAdmitted x fun _ m =>
    let g := le x.arg 1 1
    let v := le x.arg 2 8
    let rect := (fld v 0 9, fld v 9 9, fld v 18 9, fld v 27 9)
    let cores := rectCores rect
    let core (c : Nat) : Core := m.core (m.runs c)
    if 15 < g || !rectOk rect || v / 2 ^ 36 ≠ 0 then m.done x 0x0102
    else if cores.any fun c => !m.coreEnabled c then m.done x 0x0203
    else if cores.any fun c => ((core c).planeSlot x.cid g).isNone then m.done x 0x0202
    else m.withData x data fun b m =>
      let ds := cutPlanes cores b
      let ok := (m.regionPlanes x.cid g).all (fun p => cores.any fun c => m.runs c == p.1) && ds.all fun d =>
        match (core d.1).planeSlot x.cid g with
        | some s => descOk (core d.1) s g d.2
        | none => false
      if !ok then m.done x 0x0102
      else
        (ds.foldl (fun m d => match (core d.1).planeSlot x.cid g with
          | some s => (m.bringUp (m.runs d.1)).onCore (m.runs d.1) fun k => installPlane k s d.1 m.cc rect d.2
          | none => m) m).done x 0

/-! ## LAUNCH (R58, R60, R64, R239, R243, R347) -/

/-- A slot or plane launched: at a PC, or at its saved one; the fault record is cleared and the fetch buffer empty, a plane starts a new activity record (R251) and its bins and
counters are cleared (R259). -/
def launchSlot (v : Slot) (pc : Option Nat) (cc : Nat) : Slot :=
  { v with ctl := { v.ctl with st := .running, block := 6, cause := 0, imprecise := false, more := false, faultPc := 0, faultAddr := 0,
                               pc := match pc with
                                 | some a => BitVec.ofNat 19 (a / 16 * 16)
                                 | none => v.ctl.pc },
           run := { v.run with fbuf := [], fetchAt := cc + 4, wakeAt := none, hwSince := none, tmo := false },
           plane := v.plane.map fun p => { p with ptr := if pc.isSome then p.nodes.length - 1 else p.ptr, active := false,
                                                  phase := .window, since := cc, probe := {}, samples := 0, spills := 0, fires := 0,
                                                  steerFires := 0, hist := [], lastSample := cc } }

/-- Launch a slot of a physical core. -/
def Mach.launchAt (m : Mach) (c s : Nat) (pc : Option Nat) : Mach := (m.bringUp c).onSlot c s fun v => launchSlot v pc m.cc

/-- Whether a slot can be launched. -/
def canLaunch (v : Slot) : Bool := v.ctl.st == .loaded || v.ctl.st == .halted

/-- The PC of a LAUNCH argument: none for the saved one. -/
def pcArg (v : Nat) : Option Nat := if v = 0xFFFFFFFF then none else some v

/-- A launch starts a new record of the context's first CAUSE. -/
def Mach.newLaunch (m : Mach) (cid : Nat) : Mach := m.onCtx cid fun x => { x with firstCause := 0 }

/-- LAUNCH FORM 0 (R341). -/
def launchAllAt (f tag : Nat) (m : Mach) : Mach :=
  m.runCmd f tag 0x0111 (fun x => le x.arg 0 1 == 0) fun x m => m.onAdmitted x fun y m =>
    let pc := le x.arg 2 4
    if 2 ^ 19 ≤ pc && pc ≠ 0xFFFFFFFF then m.done x 0x0102
    else
      let go := y.slots.filter fun e => canLaunch ((m.core (m.runs e.core)).slot e.slot)
      (go.foldl (fun m e => m.launchAt (m.runs e.core) e.slot (pcArg pc)) (m.newLaunch x.cid)).done x 0

/-- The entries of a LAUNCH list: core, slot, PC; none for a wrong entry. -/
def launchEntries (x : Ctx) : Nat → Bytes → Option (List (Nat × Nat × Nat))
  | 0, _ => some []
  | n + 1, b =>
    let v := le b 0 8
    let e := (fld v 0 17, fld v 17 2, fld v 32 32)
    if fld v 19 13 ≠ 0 || (x.entry e.1 e.2.1).isNone || (2 ^ 19 ≤ e.2.2 && e.2.2 ≠ 0xFFFFFFFF) then none
    else (launchEntries x n (b.drop 8)).map fun r => e :: r

/-- LAUNCH FORM 1 (R341). -/
def launchListAt (f tag : Nat) (data : Option Bytes) (m : Mach) : Mach :=
  m.runCmd f tag 0x0111 (fun x => le x.arg 0 1 == 1) fun x m => m.onAdmitted x fun y m => m.withData x data fun b m =>
    match if x.len % 8 = 0 then launchEntries y (x.len / 8) b else none with
    | none => m.done x 0x0102
    | some es =>
      if es.any fun e => !canLaunch ((m.core (m.runs e.1)).slot e.2.1) then m.done x 0x0402
      else (es.foldl (fun m e => m.launchAt (m.runs e.1) e.2.1 (pcArg e.2.2)) (m.newLaunch x.cid)).done x 0

/-- LAUNCH FORM 2 (R239): every plane of a region. -/
def launchRegionAt (f tag : Nat) (m : Mach) : Mach :=
  m.runCmd f tag 0x0111 (fun x => le x.arg 0 1 == 2) fun x m => m.onAdmitted x fun _ m =>
    let ps := m.regionPlanes x.cid (le x.arg 1 1)
    if ps.isEmpty then m.done x 0x0102
    else if ps.any fun p => !canLaunch ((m.core p.1).slot p.2) then m.done x 0x0402
    else (ps.foldl (fun m p => m.launchAt p.1 p.2 (some 0)) (m.newLaunch x.cid)).done x 0

/-! ## STEP_WAIT (R341) -/

/-- Whether every slot and plane of a context has halted. -/
def Mach.allHalted (m : Mach) (x : Ctx) : Bool :=
  !x.slots.isEmpty && x.slots.all fun e => ((m.core (m.runs e.core)).slot e.slot).ctl.st == .halted

/-- What a STEP_WAIT answers now: its status and RES0; none while it waits. -/
def Mach.stepAnswer (m : Mach) (x : Cmd) (y : Ctx) : Option (Nat × Nat) :=
  let d := y.prog.steps - BitVec.ofNat 32 (le x.arg 0 4)
  let limit := le x.arg 4 4
  if d.toNat < 2 ^ 31 then some (0, y.prog.steps.toNat)
  else if m.allHalted y then some (0x0406, y.firstCause.toNat)
  else if limit ≠ 0 && x.since + usCc limit ≤ m.cc then some (0x0405, y.prog.steps.toNat)
  else none

/-- STEP_WAIT (R341): answered at once where it can be, else it waits. -/
def stepWaitAt (f tag : Nat) (m : Mach) : Mach :=
  m.runCmd f tag 0x0112 (fun _ => true) fun x m => m.onAdmitted x fun y m =>
    match m.stepAnswer { x with since := m.cc } y with
    | some r => m.done x r.1 r.2
    | none => m

/-- STEP_WAIT_DONE (R341). -/
def stepWaitDoneAt (f tag : Nat) (m : Mach) : Mach :=
  match m.cmdFor f tag 0x0112 with
  | none => m
  | some x =>
    match m.ctx x.cid with
    | none => m
    | some y =>
      match m.stepAnswer x y with
      | some r => m.when x.started fun m => m.done x r.1 r.2
      | none => m

def execLoadHostToMemory (f : FnIx) (tag : BitVec 16) (data : Option Bytes) (s : State) : Host.Outcome State Fault Refusal :=
  upd (loadH2MAt f tag.toNat data) s
def execLoadMemoryToHost (f : FnIx) (tag : BitVec 16) (ok : Bool) (s : State) : Host.Outcome State Fault Refusal :=
  upd (loadM2HAt f tag.toNat ok) s
def execLoadFlowRegion (f : FnIx) (tag : BitVec 16) (data : Option Bytes) (s : State) : Host.Outcome State Fault Refusal :=
  upd (loadRegionAt f tag.toNat data) s
def execLaunchAll (f : FnIx) (tag : BitVec 16) (s : State) : Host.Outcome State Fault Refusal := upd (launchAllAt f tag.toNat) s
def execLaunchList (f : FnIx) (tag : BitVec 16) (data : Option Bytes) (s : State) : Host.Outcome State Fault Refusal :=
  upd (launchListAt f tag.toNat data) s
def execLaunchRegion (f : FnIx) (tag : BitVec 16) (s : State) : Host.Outcome State Fault Refusal :=
  upd (launchRegionAt f tag.toNat) s
def execStepWait (f : FnIx) (tag : BitVec 16) (s : State) : Host.Outcome State Fault Refusal := upd (stepWaitAt f tag.toNat) s
def execStepWaitDone (f : FnIx) (tag : BitVec 16) (s : State) : Host.Outcome State Fault Refusal :=
  upd (stepWaitDoneAt f tag.toNat) s

end Sys2Proof.Machine
end

