-- ==== Sys2Proof/Machine/LogCmd.lean ====
section
/-! DEFINITION. LOAD of a message, and the commands of the input log (R319 to R323, R343, R344). -/

namespace Sys2Proof.Machine

open Sys2Proof

/-- The flits of a LOAD of a message: from the target core itself, for its own local output. -/
def loadFlits (phys q cid id cc : Nat) (marked : Bool) (data : Bytes) : List Flit :=
  let t := waOf 2 phys q
  mkMsg { src := phys, cid := BitVec.ofNat 10 cid, chan := 2, op := 2, target := BitVec.ofNat 60 t, wa := BitVec.ofNat 48 t,
          why := .inbound id, front := cc + 1, marked := marked } (toChunks data)

/-- Whether a LOAD of a message can go on now: the router has room, and its log, if any, can take it (R211, R322). -/
def Mach.loadMsgRoom (m : Mach) (x : Cmd) : Bool :=
  ((m.core (m.runs (le x.arg 1 4))).hasRoom 4 2 (max 1 ((x.len + 31) / 32)) || 256 < x.len) &&
  !(bitOf x.flags.toNat 1 && m.logChoice x.cid x.len == 0)

/-- LOAD FORM 3 (R319, R343): done when the message has landed and, if it is logged, the twin has acknowledged its record. -/
def loadMessageAt (f tag : Nat) (data : Option Bytes) (m : Mach) : Mach :=
  let go : Bool := match m.cmdFor f tag 0x0110 with
    | some x => m.loadMsgRoom x
    | none => false
  m.when go fun m => m.runCmd f tag 0x0110 (fun x => le x.arg 0 1 == 3) fun x m => m.onAdmitted x fun y m =>
    let core := le x.arg 1 4
    let q := le x.arg 5 1
    if 256 < x.len || 8 ≤ q then m.done x 0x0102
    else if !(y.slots.any fun e => e.core == core && bitOf e.qmask.toNat q) then m.done x 0x0104
    else m.withData x data fun b m =>
      let logged := bitOf x.flags.toNat 1
      let r := if logged then m.logPart x.cid (logQueue core q b.isEmpty) m.fabric.coord.toNat 0 b else (none, m)
      let m := r.2
      let id := m.fabric.inNext
      let w : InReq := { id := id, need := 1, logDone := r.1.isNone, lseq := r.1, host := some x.order }
      let m := { m with fabric := { m.fabric with ins := m.fabric.ins ++ [w], inNext := id + 1 } }
      m.onCore (m.runs core) fun k => k.enqueue 4 2 (loadFlits (m.runs core) q x.cid id m.cc logged b)

/-- LOG_OPEN (R319): the twin's answer decides. -/
def logOpenAt (f tag : Nat) (twin : TwinReply) (m : Mach) : Mach :=
  m.runCmd f tag 0x0130 (fun _ => true) fun x m => m.onAdmitted x fun y m =>
    let size := le x.arg 0 8
    if y.logOpen then m.done x 0x0409
    else if size < 2 ^ 24 || 2 ^ 32 < size || 2 ^ size.log2 ≠ size || 1 < le x.arg 12 1 then m.done x 0x0102
    else if !m.portUp 8 then m.done x 0x0601
    else match twin with
      | .noMemory => m.done x 0x0208
      | .noUnits => m.done x 0x0301 0 4
      | .opened => (m.onCtx x.cid fun y => { y with logOpen := true, logPolicy := le x.arg 12 1, logNext := 0, logSize := size,
                                                    logKept := [], unloggedAt := none }).done x 0

/-- LOG_TRIM (R322): the space of the records up to an LSEQ is free. -/
def logTrimAt (f tag : Nat) (m : Mach) : Mach :=
  m.runCmd f tag 0x0131 (fun _ => true) fun x m => m.onAdmitted x fun y m =>
    if !y.logOpen then m.done x 0x0409
    else (m.onCtx x.cid fun y => { y with logKept := y.logKept.filter fun e => le x.arg 0 8 < e.1 }).done x 0

/-- A kept record as bytes. -/
def LogRec.bytes (r : LogRec) : Bytes :=
  logRecord r.lseq.toNat r.time.toNat r.cid.toNat r.mlen r.queue.toNat r.srcc.toNat r.jobtag.toNat r.data

/-- Whole records that fit in n bytes, and the LSEQ after the last of them. -/
def fitRecs : List LogRec → Nat → Nat → Bytes × Nat
  | [], _, next => ([], next)
  | r :: rest, n, next =>
    if r.bytes.length ≤ n then
      let y := fitRecs rest (n - r.bytes.length) (r.lseq.toNat + 1)
      (r.bytes ++ y.1, y.2)
    else ([], next)

/-- LOG_READ (R323, R344): records that this device keeps as the twin, from an LSEQ on. -/
def logReadAt (f tag : Nat) (ok : Bool) (m : Mach) : Mach :=
  m.runCmd f tag 0x0132 (fun _ => true) fun x m =>
    match aget m.fabric.twin x.cid with
    | none => m.onAdmitted x fun _ m => m.done x 0x0409
    | some t =>
      let first := le x.arg 0 8
      let y := fitRecs (t.recs.filter fun r => first ≤ r.lseq.toNat) x.len first
      if x.len = 0 then m.done x 0 y.2 else m.doneWith x ok y.1 y.2

/-- LOG_CLOSE (R323): the log is discarded. -/
def logCloseAt (f tag : Nat) (m : Mach) : Mach :=
  m.runCmd f tag 0x0133 (fun _ => true) fun x m => m.onAdmitted x fun y m =>
    if !y.logOpen then m.done x 0x0409
    else (m.onCtx x.cid fun y => { y with logOpen := false, logPolicy := 0, logNext := 0, logSize := 0, logKept := [] }).done x 0

def execLoadMessage (f : FnIx) (tag : BitVec 16) (data : Option Bytes) (s : State) : Host.Outcome State Fault Refusal :=
  upd (loadMessageAt f tag.toNat data) s
def execLogOpen (f : FnIx) (tag : BitVec 16) (twin : TwinReply) (s : State) : Host.Outcome State Fault Refusal :=
  upd (logOpenAt f tag.toNat twin) s
def execLogTrim (f : FnIx) (tag : BitVec 16) (s : State) : Host.Outcome State Fault Refusal := upd (logTrimAt f tag.toNat) s
def execLogRead (f : FnIx) (tag : BitVec 16) (ok : Bool) (s : State) : Host.Outcome State Fault Refusal :=
  upd (logReadAt f tag.toNat ok) s
def execLogClose (f : FnIx) (tag : BitVec 16) (s : State) : Host.Outcome State Fault Refusal := upd (logCloseAt f tag.toNat) s

end Sys2Proof.Machine
end

