-- ==== Sys2Proof/Machine/Ckpt.lean ====
section
/-! DEFINITION. Checkpoints: CKPT_SAVE, the image and its sections, CKPT_RESTORE (R346 to R348). -/

namespace Sys2Proof.Machine

open Sys2Proof

/-! ## Sections (R348) -/

/-- A section: its 16 B header and its body. -/
def sectBytes (type lindex slot : Nat) (body : Bytes) : Bytes :=
  toBytes 2 type ++ toBytes 2 0 ++ toBytes 4 lindex ++ toBytes 1 slot ++ toBytes 3 0 ++ toBytes 4 body.length ++ body

/-- The registers of a slot: 1,024 B. -/
def Mach.regsBody (m : Mach) (c s : Nat) : Bytes :=
  let v := (m.core c).slot s
  let a := v.arch
  let st := (v.run.held.getD v.ctl.st)
  let ptr := match v.plane with
    | some p => p.ptr
    | none => 0
  let flags := a.p.toNat / 2 * 2 + stCode st * 256 + ptr * 65536
  padTo ((a.s.toList.map fun x => toBytes 8 x.toNat).flatten ++ (a.sd.toList.map fun x => toBytes 8 x.toNat).flatten ++
    (a.gen.toList.map fun x => toBytes 8 x.toNat).flatten ++ toBytes 8 flags ++ (a.seen.toList.map fun x => toBytes 1 x.toNat).flatten ++
    m.pageBytes c s (0x100 + 0x100 * s) 0x80 ++ m.pageBytes c s 0x540 0x80 ++ toBytes 4 v.ali.depth.toNat ++
    toBytes 4 (v.ali.wakeSel.toNat * 2) ++ m.pageBytes c s 0xA00 0x30) 1024

/-- A weight buffer: 2,304 B. -/
def wbufBody (b : WBuf) : Bytes :=
  toBytes 8 (b.fmtb.toNat + b2n b.filled * 256) ++ padTo b.tile 2048 ++ padTo b.scales 128 ++ padTo [] 120

/-- The accumulator block of a slot. -/
def accBody (k : Core) (s : Nat) : Bytes :=
  let t := (k.slot s).ctl
  let lo := t.accBase.toNat * 32
  let rows := (List.range (t.accRows.toNat * 32)).map fun i => agetD k.acc (lo + i) {}
  toBytes 32 ((rows.zipIdx.map fun r => b2n r.1.isInt * 2 ^ r.2).sum) ++
    (rows.map fun r => toBytes 128 r.main.toNat ++ toBytes 128 r.low.toNat).flatten

/-- The signal history of a slot: 16 entries, oldest first. -/
def histBody (v : Slot) : Bytes :=
  padTo ((v.run.hist.map fun h => toBytes 8 h.target.toNat ++ toBytes 2 h.amount.toNat ++ toBytes 2 h.sseq.toNat ++
    toBytes 1 (1 + 2 * b2n h.mover) ++ toBytes 3 0 ++ toBytes 8 h.issue.toNat ++ toBytes 8 0).flatten) 512

/-- The suspended mover descriptors of a slot. -/
def descsBody (v : Slot) : Bytes :=
  (v.run.descs.map fun d => padTo d.raw 64 ++ toBytes 4 d.plane ++ toBytes 4 d.run ++ toBytes 4 d.done ++ padTo [] 52).flatten

/-- A message as a record in the format of R255. -/
def imgRec (chunks : List (BitVec 256)) (token held : Bool) (rseq src time : Nat) : Bytes :=
  toBytes 1 chunks.length ++ toBytes 1 (b2n token + 2 * b2n held) ++ toBytes 2 rseq ++ toBytes 4 src ++ toBytes 8 time ++ padTo [] 16 ++
    (chunks.map fun x => toBytes 32 x.toNat).flatten

/-- Messages that wait whole at a core's local output for one of its queues, with their tokens, senders and chunks (R211). -/
def Core.heldMsgs (k : Core) (q : Nat) : List (List (BitVec 256) × Bool × Nat) :=
  [2, 3].filterMap fun ch => if (aget k.router.heldSince ch).isNone then none else
    match k.loMsg ch with
    | some (f, fs) =>
      if (if f.mc then fld f.target.toNat 40 14 else waOff f.target.toNat) % 8 = q then
        some (if f.token then [] else fs.map fun x => x.pay, f.token, f.src) else none
    | none => none

/-- The backstop ring of a queue, if its plane has one in use. -/
def Core.ringOf (k : Core) (q : Nat) : Option BackRing :=
  match (k.slot (k.queue q).slot.toNat).plane with
  | some p => (aget p.rings q).bind fun r => if r.active then some r else none
  | none => none

/-- The queues of a context on a core. -/
def Ctx.queuesAt (x : Ctx) (core : Nat) : List Nat :=
  (List.range 8).filter fun q => x.slots.any fun e => e.core == core && bitOf e.qmask.toNat q

/-- The queue section of a core. -/
def queuesBody (k : Core) (qs : List Nat) : Bytes :=
  (qs.map fun q =>
    let b := k.queue q
    toBytes 1 q ++ toBytes 4 ((queueReg k 0 (0x500 + 8 * q)).getD 0) ++ toBytes 1 (b2n (k.ringOf q).isSome) ++ toBytes 2 0 ++
      (b.msgs.map fun x => imgRec x.chunks x.token false 0 x.src x.time.toNat).flatten ++
      ((k.heldMsgs q).map fun x => imgRec x.1 x.2.1 true 0 x.2.2 0).flatten).flatten ++
  (qs.map fun q => match k.ringOf q with
    | some r => toBytes 8 q ++ (r.recs.map fun x => imgRec x.chunks x.token false x.rseq.toNat x.src x.time.toNat).flatten
    | none => []).flatten

/-- The huddles of a context on a core. -/
def Ctx.huddlesAt (x : Ctx) (core : Nat) : List Nat :=
  (List.range 32).filter fun h => x.slots.any fun e => e.core == core && bitOf e.hmask.toNat h

/-- A huddle's entry: its header and its ledger. -/
def huddleBody (k : Core) (h : Nat) : Bytes :=
  let x := k.huddle h
  toBytes 8 h ++ toBytes 8 (hudReg x) ++ toBytes 8 x.floor.toNat ++
    ((List.range 64).map fun i => match x.ledger[i]? with
      | some e => toBytes 8 (e.sseq.toNat + e.origin.toNat * 2 ^ 16 + e.slot.toNat * 2 ^ 33) ++ toBytes 8 e.time.toNat
      | none => toBytes 16 (2 ^ 128 - 1)).flatten

/-- A core with what the caches of the module hold dirty of its memories put into them. -/
def Mach.flushed (m : Mach) (core : Nat) : Core :=
  let ls := (m.cores.map fun e => e.2.lines.filter fun l => l.dirty && waCore (l.tag * 128) == core).flatten
  ls.foldl (fun k l => k.writeMem (waSpace (l.tag * 128)) (waOff (l.tag * 128)) (lineBytes l)) (m.core (m.runs core))

/-- A window's bytes, with the start offset 0. -/
def winBody (k : Core) (s space : Nat) : Bytes :=
  let t := (k.slot s).ctl
  toBytes 8 0 ++ (if space = 0 then k.readMem 0 (winReg t 0 % 2 ^ 19) (winReg t 4 % 2 ^ 20)
    else k.readMem 1 (winReg t 1 % 2 ^ 25) (winReg t 5 % 2 ^ 26))

/-- The sections of one slot. -/
def Mach.slotSections (m : Mach) (e : CtxSlot) : List Bytes :=
  let c := m.runs e.core
  let k := m.core c
  let v := k.slot e.slot
  let f := m.flushed e.core
  let vec := (v.arch.v.toList.map fun x => toBytes 128 x.toNat).flatten
  [sectBytes 1 e.core e.slot (m.regsBody c e.slot), sectBytes 2 e.core e.slot vec,
   sectBytes 3 e.core e.slot (wbufBody (vget v.arch.wbuf 0) ++ wbufBody (vget v.arch.wbuf 1)),
   sectBytes 4 e.core e.slot (accBody k e.slot), sectBytes 5 e.core e.slot (histBody v), sectBytes 6 e.core e.slot (descsBody v),
   sectBytes 9 e.core e.slot (winBody f e.slot 0), sectBytes 10 e.core e.slot (winBody f e.slot 1)]

/-- The slot entries of a context in the order of the image. -/
def Ctx.imageSlots (x : Ctx) : List CtxSlot :=
  x.slots.mergeSort fun a b => a.core * 4 + a.slot ≤ b.core * 4 + b.slot

/-- The sections of an image in their order. -/
def Mach.imageSections (m : Mach) (x : Ctx) : List Bytes :=
  let es := x.imageSlots
  let cores := (es.map fun e => e.core).eraseDups
  (cores.map fun core =>
    let k := m.core (m.runs core)
    ((es.filter fun e => e.core == core).map fun e => m.slotSections e).flatten ++
    [sectBytes 7 core 0xFF (queuesBody k (x.queuesAt core)),
     sectBytes 8 core 0xFF (((x.huddlesAt core).map fun h => huddleBody k h).flatten)]).flatten

/-- The image of a context (R347). -/
def Mach.image (m : Mach) (cid : Nat) (x : Ctx) : Bytes :=
  let ss := m.imageSections x
  let body := ss.flatten
  toBytes 2 1 ++ toBytes 2 siliconStep ++ toBytes 2 cid ++ toBytes 2 ss.length ++ toBytes 8 (64 + body.length) ++
    toBytes 4 x.prog.steps.toNat ++ toBytes 4 0 ++ toBytes 8 m.now.toNat ++ toBytes 4 (x.slots.map fun e => e.core).eraseDups.length ++
    toBytes 4 m.runningImage.version.toNat ++ padTo [] 20 ++ toBytes 4 (crc32 body) ++ body

/-! ## CKPT_SAVE (R346) -/

/-- Every slot of a context quiesced, or resumed. -/
def Mach.quiesceCtx (m : Mach) (cid : Nat) : Mach :=
  let fs := ((m.cores.filter fun e => !(e.2.slotsOf cid).isEmpty).map fun e => fieldOf e.1).eraseDups
  (fs.foldl Mach.wakeField m).mapCores fun _ k => (k.slotsOf cid).foldl (fun k s => k.onSlot s quiesceSlot) k
def Mach.resumeCtx (m : Mach) (cid : Nat) : Mach :=
  m.mapCores fun _ k => (k.slotsOf cid).foldl (resumeSlot m.cc) k

/-- Flits in a router that have not landed. -/
def Router.flits (r : Router) : List Flit :=
  (r.bufs.map (·.2)).flatten ++ (r.lo.map (·.2)).flatten ++ (r.outs.map fun o => o.2.owed).flatten ++ r.urgQ

/-- Whether every flit of a context has landed; while a message is held for it, its queue messages need not. -/
def Mach.drained (m : Mach) (cid : Nat) : Bool :=
  let held := m.heldFor cid
  m.cores.all fun e => (e.2.router.flits ++ e.2.attach.flatten ++ e.2.ubWait.map (·.1)).all fun f =>
    f.cid.toNat != cid || f.fw || (held && (f.chan == 2 || f.chan == 3))

/-- The save of a context: quiesced when it starts; when its flits have landed the image is taken and its slots go on. -/
def Mach.saveWith (m : Mach) (f tag form : Nat) (out : Cmd → Ctx → Bytes → Mach → Mach) : Mach :=
  match m.cmdFor f tag 0x0120 with
  | none => m
  | some x =>
    if le x.arg 0 1 ≠ form || (!x.started && !m.mayStart x) || m.moving f tag 0x0120 then m
    else m.onAdmitted x fun y m =>
      let m := if x.started then m
        else (m.onCmd x.order fun z => { z with started := true, since := m.cc }).quiesceCtx x.cid
      if m.drained x.cid then
        let b := m.image x.cid y
        out x y b (m.resumeCtx x.cid)
      else m

/-- CKPT_SAVE to the host buffer (R346). -/
def ckptSaveHostAt (f tag : Nat) (ok : Bool) (m : Mach) : Mach :=
  m.saveWith f tag 0 fun x _ b m => m.doneIfFits x ok b

/-- BULK WRITEs of an image under a job tag, at most 1,024 B each, on the engine of the first anchor that can send. -/
def Mach.writePeer (m : Mach) (tag dst lin : Nat) : Nat → Nat → Bytes → Mach
  | 0, _, _ => m
  | n + 1, off, b =>
    if b.isEmpty then m
    else
      let d := b.take 1024
      let th := mkTh dst m.fabric.coord.toNat (lin + off) 0 d.length
      let m := match m.route dst with
        | .out p vc => (match m.engFor p dst with
          | some e => m.sendFrames e tag (mkFrames 3 vc tag 0 false th d)
          | none => m)
        | _ => m
      m.writePeer tag dst lin n (off + 1024) (b.drop 1024)

/-- CKPT_SAVE to a fabric peer (R346). -/
def ckptSaveFabricAt (f tag : Nat) (m : Mach) : Mach :=
  m.saveWith f tag 1 fun x y b m =>
    let dst := le x.arg 2 4
    match y.tags[le x.arg 1 1]? with
    | none => m.done x 0x0102
    | some t =>
      if !m.coordOk dst || 2 ^ 25 ≤ dst || dst = m.fabric.coord.toNat then m.done x 0x0102
      else if m.route dst = .unreachable then m.done x 0x0601
      else (m.writePeer t.toNat dst (le x.arg 6 4) (b.length + 1) 0 b).done x 0 b.length

/-! ## CKPT_RESTORE (R347, R348) -/

/-- A section as read: type, logical core, slot, body. -/
structure Sect where
  type : Nat := 0
  core : Nat := 0
  slot : Nat := 0
  body : Bytes := []
  deriving DecidableEq, Repr, Inhabited

/-- The sections of an image's body; none where lengths do not agree. -/
def readSects : Nat → Bytes → Option (List Sect)
  | 0, b => if b.isEmpty then some [] else none
  | n + 1, b =>
    let len := le b 12 4
    if b.length < 16 + len then none
    else (readSects n (b.drop (16 + len))).map fun r =>
      { type := le b 0 2, core := le b 4 4, slot := le b 8 1, body := (b.drop 16).take len } :: r

/-- A record of the queue section: its bytes' count and the message. -/
structure QRec where
  n : Nat := 0
  held : Bool := false
  msg : QMsg := {}
  rseq : BitVec 16 := 0
  deriving DecidableEq, Repr, Inhabited

def readRec (b : Bytes) : Option QRec :=
  let c := le b 0 1
  let n := 32 + 32 * c
  if b.length < n || 8 < c || 3 < le b 1 1 then none
  else some { n := n, held := bitOf (le b 1 1) 1, rseq := BitVec.ofNat 16 (le b 2 2),
              msg := { chunks := toChunks ((b.drop 32).take (32 * c)), token := bitOf (le b 1 1) 0, src := le b 4 4,
                       time := BitVec.ofNat 64 (le b 8 8) } }

/-- What the queue section says of one queue: its Q_BIND image, whether it was in backstop state, messages, held ones, ring. -/
structure QSect where
  q : Nat := 0
  bind : Nat := 0
  back : Bool := false
  msgs : List QMsg := []
  held : List QMsg := []
  ring : List QRec := []
  deriving DecidableEq, Repr, Inhabited

/-- The rings at the end of the section, for the queues that were in backstop state. A ring's header has seven zero bytes. -/
def readRings : Nat → List Nat → Option Nat → Bytes → Option (List (Nat × QRec))
  | 0, _, _, _ => none
  | n + 1, qs, cur, b =>
    if b.isEmpty then (if qs.isEmpty then some [] else none)
    else
      let asRec := match cur with
        | some q => (readRec b).bind fun r => (readRings n qs cur (b.drop r.n)).map fun l => (q, r) :: l
        | none => none
      let asHdr := match qs with
        | q :: rest => if 8 ≤ b.length && le b 0 8 = q then readRings n rest (some q) (b.drop 8) else none
        | [] => none
      asRec <|> asHdr

/-- The queue section read: a queue's header is told from a record by the VALID bit of its Q_BIND image. -/
def readQueues : Nat → List QSect → Bytes → Option (List QSect)
  | 0, _, _ => none
  | n + 1, acc, b =>
    let backs := (acc.reverse.filter fun x => x.back).map fun x => x.q
    if b.length ≥ 8 && bitOf (le b 1 1) 2 then
      readQueues n ({ q := le b 0 1, bind := le b 1 4, back := bitOf (le b 5 1) 0 } :: acc) (b.drop 8)
    else match acc with
      | [] => if b.isEmpty then some [] else none
      | x :: rest =>
        let withRings := (readRings (b.length + 9) backs none b).map fun l =>
          acc.reverse.map fun y => { y with ring := (l.filter fun r => r.1 == y.q).map (·.2) }
        let asRec := (readRec b).bind fun r =>
          let x := if r.held then { x with held := x.held ++ [r.msg] } else { x with msgs := x.msgs ++ [r.msg] }
          readQueues n (x :: rest) (b.drop r.n)
        if b.isEmpty then withRings else asRec <|> withRings

/-- Whether a section fits the placement (R348). -/
def sectOk (y : Ctx) (z : Sect) : Bool :=
  let n := z.body.length
  if z.type = 7 then z.slot == 0xFF && (y.slots.any fun e => e.core == z.core) &&
    (match readQueues (n + 9) [] z.body with
     | some l => l.map (fun x => x.q) == y.queuesAt z.core
     | none => false)
  else if z.type = 8 then z.slot == 0xFF && (y.slots.any fun e => e.core == z.core) &&
    n == 1048 * (y.huddlesAt z.core).length &&
    (List.range (y.huddlesAt z.core).length).map (fun i => le z.body (1048 * i) 1) == y.huddlesAt z.core
  else match y.entry z.core z.slot with
    | none => false
    | some e => match z.type with
      | 1 => n == 1024
      | 2 => n == 4096
      | 3 => n == 4608
      | 4 => n == 32 + e.accRows * 32 * 256
      | 5 => n == 512
      | 6 => n % 128 == 0
      | 9 => n == 8 + e.spad.2 && le z.body 0 8 == 0
      | 10 => n == 8 + e.ub.2 && le z.body 0 8 == 0
      | _ => false

/-- The registers of a slot from its section: everything but its placement, which the context keeps; the slot is LOADED. -/
def Mach.restoreRegs (m : Mach) (c s : Nat) (b : Bytes) : Mach :=
  let w (o : Nat) : Nat := le b o 8
  let fl := w 0x240
  let arch (a : SlotArch) : SlotArch :=
    { a with s := Vector.ofFn fun i => BitVec.ofNat 64 (if i.val = 0 then 0 else w (8 * i.val)),
             sd := Vector.ofFn fun i => BitVec.ofNat 64 (w (0x100 + 8 * i.val)),
             gen := Vector.ofFn fun i => BitVec.ofNat 64 (w (0x140 + 8 * i.val)), p := BitVec.ofNat 8 (fl % 256 / 2 * 2 + 1),
             seen := Vector.ofFn fun i => BitVec.ofNat 8 (le b (0x248 + i.val) 1) }
  let q (o : Nat) : Nat := le b (0x2E8 + o) 4
  let ali (a : SlotAlias) : SlotAlias :=
    { a with hlimit := BitVec.ofNat 32 (q 0), hstat := BitVec.ofNat 6 (q 4), hsseq := BitVec.ofNat 16 (q 8),
             sp := Vector.ofFn fun i => BitVec.ofNat 64 (w (0x328 + 8 * i.val)), depth := BitVec.ofNat 2 (le b 0x368 4),
             wakeSel := BitVec.ofNat 3 (le b 0x36C 4 / 2), sampled := BitVec.ofNat 64 (w 0x378), mismatch := BitVec.ofNat 64 (w 0x380),
             deferred := BitVec.ofNat 64 (w 0x388), lost := BitVec.ofNat 64 (w 0x390), reexec := BitVec.ofNat 64 (w 0x398) }
  let plane (p : Plane) : Plane := { p with ptr := fld fl 16 4, rings := [] }
  let m := m.onSlot c s fun v =>
    { v with arch := arch v.arch, ali := ali v.ali, run := { serial := v.run.serial }, plane := v.plane.map plane }
  let offs := [0x10, 0x14, 0x18, 0x1C, 0x20, 0x30, 0x34]
  let wide := [0x28, 0x38, 0x40, 0x48, 0x50, 0x58, 0x60, 0x68, 0x70]
  let m := offs.foldl (fun m o => m.onSlot c s fun v => fwSlot v o (le b (0x268 + o) 4) m.now.toNat m.cc) m
  let m := wide.foldl (fun m o => m.onSlot c s fun v => fwSlot v o (w (0x268 + o)) m.now.toNat m.cc) m
  m.onSlot c s fun v =>
    { v with ctl := { v.ctl with st := .loaded, block := 10, ready := false, subn := bitOf (le b 0x270 4) 0,
                                 wakeEn := BitVec.ofNat 3 (le b 0x274 4), pendHuddle := bitOf (le b 0x28C 4) 1,
                                 pendTimer := bitOf (le b 0x28C 4) 2, pendDebug := bitOf (le b 0x28C 4) 3 } }

/-- A weight buffer from its 2,304 B. -/
def wbufOf (b : Bytes) (old : WBuf) : WBuf :=
  { old with fmtb := BitVec.ofNat 4 (le b 0 1), filled := bitOf (le b 0 8) 8, tile := (b.drop 8).take 2048,
             scales := (b.drop 2056).take 128 }

/-- The accumulator block of a slot from its section. -/
def restoreAcc (k : Core) (s : Nat) (b : Bytes) : Core :=
  let t := (k.slot s).ctl
  let lo := t.accBase.toNat * 32
  let types := le b 0 32
  (List.range (t.accRows.toNat * 32)).foldl (fun k i =>
    let r : AccRow := { isInt := bitOf types i, main := BitVec.ofNat 1024 (le b (32 + 256 * i) 128),
                        low := BitVec.ofNat 1024 (le b (160 + 256 * i) 128) }
    { k with acc := aset k.acc (lo + i) r }) k

/-- A signal history from its section. -/
def histOf (b : Bytes) : List HistRec :=
  (List.range 16).filterMap fun i =>
    let o := 32 * i
    if bitOf (le b (o + 12) 1) 0 then
      some { target := BitVec.ofNat 48 (le b o 8), amount := BitVec.ofNat 16 (le b (o + 8) 2), sseq := BitVec.ofNat 16 (le b (o + 10) 2),
             mover := bitOf (le b (o + 12) 1) 1, issue := BitVec.ofNat 64 (le b (o + 16) 8) }
    else none

/-- Suspended descriptors issued again, each at its plane, run and byte. The image does not say which mover instruction issued one:
it goes on as MV.GO. -/
def Mach.restoreDescs (m : Mach) (c s : Nat) (b : Bytes) : Mach :=
  (List.range (b.length / 128)).foldl (fun m i =>
    let d := (b.drop (128 * i)).take 128
    let m := m.mvIssue c s .go (d.take 64)
    m.onSlot c s fun v =>
      let n := v.run.descs.length
      let at_ (x : MvDesc) : MvDesc := { x with plane := le d 64 4, run := le d 68 4, done := le d 72 4 }
      { v with run := { v.run with descs := v.run.descs.take (n - 1) ++ (v.run.descs.drop (n - 1)).map at_ } }) m

/-- Held messages of a restored queue at the core's local output. -/
def heldFlits (c q : Nat) (cid : BitVec 10) (x : QMsg) : List Flit :=
  let t := waOf 2 c q
  mkMsg { src := x.src, cid := cid, chan := 2, op := 2, target := BitVec.ofNat 60 t, wa := BitVec.ofNat 48 t } x.chunks

/-- The ring of a queue restored from its records. -/
def ringFrom (l : List QRec) : BackRing :=
  let occ := (l.map fun r => r.n).sum
  { active := true, recs := l.map fun r => { chunks := r.msg.chunks, token := r.msg.token, rseq := r.rseq, src := r.msg.src, time := r.msg.time },
    tail := occ, occ := occ, rseq := (l.getLast?.map fun r => r.rseq + 1).getD 0, maxOcc := occ }

/-- The queues of a core from their section. -/
def restoreQueues (k : Core) (c : Nat) (cid : BitVec 10) (l : List QSect) : Core :=
  l.foldl (fun k x =>
    let k := k.onQueue x.q fun q => { q with msgs := x.msgs, port := BitVec.ofNat 3 (x.bind / 8), thresh := BitVec.ofNat 6 (x.bind / 64),
                                             freed := 0 }
    let fs := (x.held.map fun y => heldFlits c x.q cid y).flatten
    let lo := aset k.router.lo 2 (agetD k.router.lo 2 [] ++ fs)
    let k := if fs.isEmpty then k else { k with router := { k.router with lo := lo } }
    let ring (p : Plane) : Plane := { p with rings := aset p.rings x.q (ringFrom x.ring) }
    if x.back then k.onSlot (k.queue x.q).slot.toNat fun v => { v with plane := v.plane.map ring } else k) k

/-- A huddle from its entry; its owner stays. -/
def huddleOf (old : Huddle) (b : Bytes) (cc : Nat) : Huddle :=
  let v := le b 8 8
  let es := (List.range 64).filterMap fun i =>
    let a := le b (24 + 16 * i) 8
    if a = 2 ^ 64 - 1 then none
    else some ({ sseq := BitVec.ofNat 16 a, origin := BitVec.ofNat 17 (a / 2 ^ 16), slot := BitVec.ofNat 2 (a / 2 ^ 33),
                 time := BitVec.ofNat 64 (le b (32 + 16 * i) 8) } : LedgerRec)
  { fwHuddle old v cc with sat := bitOf v 60, unsure := bitOf v 61, ledger := es, floor := BitVec.ofNat 64 (le b 16 8) }

/-- One section put in place. -/
def Mach.restoreSect (m : Mach) (cid : Nat) (z : Sect) : Mach :=
  let c := m.runs z.core
  match z.type with
  | 1 => m.restoreRegs c z.slot z.body
  | 2 => m.onSlot c z.slot fun v =>
      let vs : Vector (BitVec 1024) 32 := Vector.ofFn fun i => BitVec.ofNat 1024 (le z.body (128 * i.val) 128)
      { v with arch := { v.arch with v := vs } }
  | 3 => m.onSlot c z.slot fun v =>
      let wb : Vector WBuf 2 := Vector.ofFn fun i => wbufOf (z.body.drop (2304 * i.val)) (vget v.arch.wbuf i.val)
      { v with arch := { v.arch with wbuf := wb } }
  | 4 => m.onCore c fun k => restoreAcc k z.slot z.body
  | 5 => m.onSlot c z.slot fun v => { v with run := { v.run with hist := histOf z.body } }
  | 7 => (match readQueues (z.body.length + 9) [] z.body with
    | some l => m.onCore c fun k => restoreQueues k c (BitVec.ofNat 10 cid) l
    | none => m)
  | 8 => m.onCore c fun k => (List.range (z.body.length / 1048)).foldl (fun k i =>
      k.onHuddle (le z.body (1048 * i) 1) fun h => huddleOf h (z.body.drop (1048 * i)) m.cc) k
  | 9 => (m.bringUp c).onCore c fun k => k.writeMem 0 (winReg (k.slot z.slot).ctl 0 % 2 ^ 19) (z.body.drop 8)
  | 10 => m.onCore c fun k => k.writeMem 1 (winReg (k.slot z.slot).ctl 1 % 2 ^ 25) (z.body.drop 8)
  | _ => m

/-- Cached lines of a context, which the image's memory replaces. -/
def Mach.dropLines (m : Mach) (cid : Nat) (y : Ctx) : Mach :=
  let inWin (l : Line) : Bool := y.slots.any fun e => e.core == waCore (l.tag * 128) &&
    (if waSpace (l.tag * 128) = 0 then rangesMeet e.spad (waOff (l.tag * 128), 128) else rangesMeet e.ub (waOff (l.tag * 128), 128))
  m.mapCores fun _ k => { k with lines := k.lines.filter fun l => l.cid.toNat != cid && !inWin l }

/-- CKPT_RESTORE (R347, R348): descriptors go on once everything else is in place. -/
def ckptRestoreAt (f tag : Nat) (data : Option Bytes) (m : Mach) : Mach :=
  m.runCmd f tag 0x0121 (fun _ => true) fun x m => m.onAdmitted x fun y m =>
    if !m.ctxIdle x.cid then m.done x 0x0402
    else m.withData x data fun b m =>
      let n := le b 8 8
      let body := (b.take n).drop 64
      if b.length < 64 || b.length < n || n < 64 || le b 0 2 ≠ 1 || le b 2 2 ≠ siliconStep || le b 0x3C 4 ≠ crc32 body then m.done x 0x0102
      else match readSects (le b 6 2) body with
        | none => m.done x 0x0102
        | some l =>
          if !(l.all fun z => sectOk y z) then m.done x 0x0102
          else
            let m := m.dropLines x.cid y
            let m := l.foldl (fun m z => m.restoreSect x.cid z) m
            let m := (l.filter fun z => z.type == 6).foldl (fun m z => m.restoreDescs (m.runs z.core) z.slot z.body) m
            m.done x 0

def execCkptSaveHost (f : FnIx) (tag : BitVec 16) (ok : Bool) (s : State) : Host.Outcome State Fault Refusal :=
  upd (ckptSaveHostAt f tag.toNat ok) s
def execCkptSaveFabric (f : FnIx) (tag : BitVec 16) (s : State) : Host.Outcome State Fault Refusal :=
  upd (ckptSaveFabricAt f tag.toNat) s
def execCkptRestore (f : FnIx) (tag : BitVec 16) (data : Option Bytes) (s : State) : Host.Outcome State Fault Refusal :=
  upd (ckptRestoreAt f tag.toNat data) s

end Sys2Proof.Machine
end

