-- ==== Sys2Proof/Machine/Telem.lean ====
section
/-! DEFINITION. The floor-plan record, TELEM_READ of routers, progress, flow planes and ports, and the power commands (R38 to R47, R207,
R260, R281, R317, R375, R380). -/

namespace Sys2Proof.Machine

open Sys2Proof

/-! ## The floor plan (R38 to R47) -/

/-- A core entry (R39). -/
def Mach.fpEntry (m : Mach) (c : Nat) : Nat :=
  let e := m.fpCore c
  e.state + e.mem * 4 + b2n e.routerOk * 16 + b2n (isAnchor c) * 32 + e.alt * 256 + e.reason.toNat * 2 ^ 25

/-- A link entry (R42). -/
def Mach.linkEntry (m : Mach) (c : Nat) : Nat :=
  let e := coreX c != 383
  let s := coreY c != 335
  (if e then m.linkWidth c false + 4 * b2n (linkSeam c false) else 0) +
    16 * (if s then m.linkWidth c true + 4 * b2n (linkSeam c true) else 0)

/-- Whether an engine has trained, qualified and joined its port. -/
def Mach.engJoined (m : Mach) (e : Nat) : Bool :=
  let p := m.engPort e
  p < 9 && !(m.eng e).fenced && (m.activeSet p).contains (m.engIndex e) && m.engAt p (m.engIndex e) == some e &&
    (m.field e).light == .on

/-- Lanes in use of an engine's set of lanes. -/
def laneCount (l : BitVec 16) : Nat := ((List.range 16).filter fun i => bitOf l.toNat i).length

/-- ENGINE of a field entry (R43, R47). -/
def Mach.engineCode (m : Mach) (e : Nat) : Nat :=
  let g := m.eng e
  if g.fenced then 3
  else if m.boot.minimal then 4
  else if m.engJoined e then (if g.standsFor.isSome then 5 else if laneCount g.lanes = 16 then 0 else 1)
  else if roleOf e = 5 && g.standsFor.isNone then 2 else 4

/-- FC of a field entry. -/
def Mach.fcCode (m : Mach) (f : Nat) : Nat :=
  if m.boot.minimal then b2n (f != 0)
  else if (m.field f).fcFenced then 2 else b2n ((m.field f).ring != .on)

/-- What FLAGS[0] and the field entries take from elsewhere than the core, link and substitution tables: minimal mode, and of each field
its engine, lanes, port, index and controller (R38, R43). -/
def Mach.planView (m : Mach) : List Nat :=
  b2n m.boot.minimal ::
    ((List.range 56).map fun f => [m.engineCode f, laneCount (m.eng f).lanes, m.engPort f, m.engIndex f, m.fcCode f]).flatten

/-- Whether an entry of the record differs from the last generation (R45). -/
def Mach.planStale (m : Mach) : Bool :=
  m.wafer.changed || (match m.wafer.shown with
    | some l => l != m.planView
    | none => false)

/-- A new generation of the floor plan, and its event (R45). -/
def Mach.publishPlan (m : Mach) : Mach :=
  let m := { m with wafer := { m.wafer with gen := m.wafer.gen + 1, genTime := m.now, changed := false, shown := some m.planView } }
  m.raiseEvery (m.event 6 0 0 0 m.wafer.gen.toNat 0)

/-- FLOORPLAN_CHANGE (R45): the changes of one firmware action share one increment. -/
def floorplanChangeAt (m : Mach) : Mach := m.when m.planStale Mach.publishPlan

/-- A field entry (R43). -/
def Mach.fieldEntry (m : Mach) (f : Nat) : Bytes :=
  let code := m.engineCode f
  let p := if m.boot.minimal then rolePort f else m.engPort f
  let cs := fieldCores f
  padTo (toBytes 1 f ++ toBytes 1 (roleOf f) ++ toBytes 1 p ++ toBytes 1 (if p = 15 then 255 else if m.boot.minimal then roleIndex f
    else m.engIndex f) ++ toBytes 1 code ++ toBytes 1 (if code = 0 || code = 1 || code = 5 then laneCount (m.eng f).lanes else 0) ++
    toBytes 1 (transitPartner f) ++ toBytes 1 (m.fcCode f) ++ toBytes 2 (m.countState cs 0) ++ toBytes 2 (m.countState cs 1) ++
    toBytes 2 (m.countState cs 2) ++ toBytes 2 (m.countState cs 3) ++ toBytes 1 (bandOf f)) 32

/-- An entry of the substitution table (R44). -/
def substEntry (e : Subst) : Bytes := if e.valid then toBytes 4 (e.orig + 2 ^ 31) ++ toBytes 4 e.stand else toBytes 8 0

/-- The floor-plan record (R38). -/
def Mach.planRecord (m : Mach) : Bytes :=
  let cs := allCores
  let full := m.wafer.subst.toList.all fun e => e.valid
  let hdr := toBytes 2 1 ++ toBytes 2 64 ++ toBytes 4 647488 ++ toBytes 8 m.wafer.gen.toNat ++ toBytes 8 m.wafer.genTime.toNat ++
    toBytes 4 (m.countState cs 0) ++ toBytes 4 (m.countState cs 1) ++ toBytes 4 (m.countState cs 2) ++ toBytes 4 (m.countState cs 3) ++
    toBytes 2 siliconStep ++ [Config.moduleRev] ++ toBytes 1 (b2n m.boot.minimal + 2 * b2n full) ++ toBytes 4 0x40 ++
    toBytes 4 0x7E040 ++ toBytes 4 0x9D840 ++ toBytes 4 0x9DF40 ++ toBytes 4 0
  hdr ++ (cs.map fun c => toBytes 4 (m.fpEntry c)).flatten ++ (cs.map fun c => toBytes 1 (m.linkEntry c)).flatten ++
    ((List.range 56).map m.fieldEntry).flatten ++ (m.wafer.subst.toList.map substEntry).flatten

/-- FLOORPLAN_GET (R38, R46): a change that is not yet published is published first. -/
def floorplanGetAt (f tag : Nat) (ok : Bool) (m : Mach) : Mach :=
  m.runCmd f tag 0x0140 (fun _ => true) fun x m =>
    let m := floorplanChangeAt m
    if x.len < 647488 then m.done x 0x0105 647488 else m.doneWith x ok m.planRecord 647488

/-! ## TELEM_READ -/

/-- The outputs' block of a router entry (R207). -/
def Router.outBlock (r : Router) (o : Nat) : Bytes :=
  let c (k : Nat) : Bytes := toBytes 8 (agetD r.cnt k 0).toNat
  ([0, 1, 2, 3, 4, 5].map fun ch => c (cntFlits o ch)).flatten ++ c (cntStall o) ++ c (cntLets o)

/-- The inputs' block of a router entry. -/
def Router.inBlock (r : Router) (i : Nat) : Bytes :=
  ([cntDepthSum i, cntDepthMax i, cntCrc i, cntUrgDrop i].map fun k => toBytes 8 (agetD r.cnt k 0).toNat).flatten

/-- An entry of TELEM_READ kind 1. -/
def Mach.routerEntry (m : Mach) (c : Nat) : Bytes :=
  let k := m.core c
  let r := k.router
  let n (key : Nat) : Bytes := toBytes 8 (agetD r.cnt key 0).toNat
  if !m.routerOk c then padTo (toBytes 4 c ++ toBytes 4 1) 528
  else
    toBytes 4 c ++ toBytes 4 0 ++ n cntSamples ++ n cntAged ++ n cntDetours ++ n cntProto ++ ([0, 1, 2, 3, 4].map r.outBlock).flatten ++
      ([0, 1, 2, 3, 4].map r.inBlock).flatten ++ toBytes 4 k.hudDup.toNat ++ toBytes 4 k.hudUnsure.toNat

/-- DEPTH_MAX of every input port of a router cleared. -/
def clearDepthMax (r : Router) : Router := { r with cnt := [0, 1, 2, 3, 4].foldl (fun t i => adel t (cntDepthMax i)) r.cnt }

/-- TELEM_READ kind 1 (R207). -/
def telemRoutersAt (f tag : Nat) (ok : Bool) (m : Mach) : Mach :=
  m.runCmd f tag 0x0150 (fun x => le x.arg 0 1 == 1) fun x m =>
    let v := le x.arg 1 8
    let r := (fld v 0 9, fld v 9 9, fld v 18 9, fld v 27 9)
    if v / 2 ^ 36 ≠ 0 || !rectOk r then m.done x 0x0102
    else
      let cs := rectCores r
      let n := 32 + 528 * cs.length
      if x.len < n then m.done x 0x0105 n
      else
        let hdr := toBytes 2 1 ++ toBytes 2 528 ++ toBytes 4 cs.length ++ toBytes 8 m.now.toNat ++ toBytes 8 v ++ toBytes 8 0
        let b := hdr ++ (cs.map m.routerEntry).flatten
        let m := cs.foldl (fun m c => if m.routerOk c then m.onCore c fun k => { k with router := clearDepthMax k.router } else m) m
        m.doneWith x ok b n

/-- The state code of a context in its progress record. -/
def ctxCode (st : CtxSt) : Nat :=
  match st with
  | .created => 0
  | .admitted => 1
  | .resetting => 2
  | .destroying => 3

/-- The progress record of a context (R281). -/
def progressBytes (cid : Nat) (x : Ctx) : Bytes :=
  let p := x.prog
  toBytes 2 cid ++ toBytes 1 (ctxCode x.st) ++
    toBytes 1 (x.dead.progress % 2 + 2 * b2n x.dead.holdcap + 4 * (x.dead.dclass % 4) + 16 * b2n x.dbg) ++ toBytes 4 p.steps.toNat ++
    toBytes 8 p.last.toNat ++ toBytes 8 p.issued.toNat ++ toBytes 8 p.heldTime.toNat ++ toBytes 8 p.tokenWait.toNat ++
    toBytes 4 p.hangs.toNat ++ toBytes 4 p.holdHalts.toNat ++ toBytes 4 p.suspendUs.toNat ++ toBytes 4 p.resets.toNat ++
    toBytes 4 p.dlMisses.toNat ++ toBytes 4 0

/-- TELEM_READ kind 2 (R281). -/
def telemProgressAt (f tag : Nat) (ok : Bool) (m : Mach) : Mach :=
  m.runCmd f tag 0x0150 (fun x => le x.arg 0 1 == 2) fun x m => m.onAdmitted x fun y m => m.doneIfFits x ok (progressBytes x.cid y)

/-- The record of a plane (R260). -/
def planeBytes (lindex : Nat) (p : Plane) : Bytes :=
  let ring (q : Nat) : Nat := match aget p.rings q with
    | some r => r.maxOcc
    | none => 0
  toBytes 4 lindex ++ toBytes 1 p.region ++ toBytes 3 0 ++ toBytes 4 p.samples ++ toBytes 4 p.spills ++ toBytes 8 p.fires.toNat ++
    toBytes 8 p.steerFires.toNat ++ ((List.range 8).map fun q => toBytes 4 (ring q)).flatten ++
    ((List.range 128).map fun i => toBytes 4 (agetD p.hist i 0)).flatten

/-- TELEM_READ kind 3 (R260): one record per plane of the context, in the order of its slot entries. -/
def telemFlowAt (f tag : Nat) (ok : Bool) (m : Mach) : Mach :=
  m.runCmd f tag 0x0150 (fun x => le x.arg 0 1 == 3) fun x m => m.onAdmitted x fun y m =>
    let one (e : CtxSlot) : Bytes := match ((m.core (m.runs e.core)).slot e.slot).plane with
      | some p => planeBytes e.core p
      | none => []
    m.doneIfFits x ok ((y.imageSlots.map one).flatten)

/-- STATE of a port entry (R317). -/
def Mach.portState (m : Mach) (p : Nat) : Nat :=
  let q := m.port p
  if q.quarantined then 2
  else if !m.fabric.assigned || (List.range 56).any fun e => m.engPort e == p && (m.eng e).mismatch then 3
  else if (m.activeSet p).length < portMin p then 1 else 0

/-- An entry of TELEM_READ kind 5 (R317). -/
def Mach.portEntry (m : Mach) (p : Nat) : Bytes :=
  let q := m.port p
  let n (off : Nat) : Nat := (agetD q.cnt off 0).toNat
  let w (a : Nat) (k : Nat) : Bytes := ((List.range k).map fun i => toBytes 8 (n (a + 8 * i))).flatten
  let l15 := ((m.activeSet p).filter fun i => match m.engAt p i with
    | some e => laneCount (m.eng e).lanes == 15
    | none => false)
  padTo (toBytes 1 p ++ toBytes 1 (m.portState p) ++ toBytes 1 q.active.toNat ++ toBytes 1 ((l15.map fun i => 2 ^ i).sum) ++ toBytes 4 0 ++
    w 0x08 20 ++ ((List.range 9).map fun i => toBytes 4 (n (0xA8 + 4 * i))).flatten ++ toBytes 4 (n 0xCC) ++ w 0xD0 2) 256

/-- TELEM_READ kind 5 (R317). -/
def telemPortsAt (f tag : Nat) (ok : Bool) (m : Mach) : Mach :=
  m.runCmd f tag 0x0150 (fun x => le x.arg 0 1 == 5) fun x m =>
    let v := le x.arg 1 8
    if 8 < v && v ≠ 15 then m.done x 0x0102
    else
      let ps := if v = 15 then List.range 9 else [v]
      let b := toBytes 2 1 ++ toBytes 2 256 ++ toBytes 4 ps.length ++ toBytes 8 m.now.toNat ++ toBytes 16 0 ++ (ps.map m.portEntry).flatten
      m.doneIfFits x ok b

/-! ## Power (R3, R375, R380) -/

/-- The lowest cap that firmware would accept (R375). -/
def Power.lowest (p : Power) : Nat := max 18000 ((p.fixed + p.prot + 99) / 100 * 100)

/-- PWR_CAP_SET (R3, R375). -/
def pwrCapSetAt (f tag : Nat) (m : Mach) : Mach :=
  m.runCmd f tag 0x0160 (fun _ => true) fun x m =>
    let w := le x.arg 0 4
    if w < 18000 || 36000 < w || w % 100 ≠ 0 || (m.boot.ac && 24000 < w) then m.done x 0x0102
    else if w < m.power.fixed + m.power.prot then m.done x 0x0102 m.power.lowest
    else { m with power := { m.power with cap := w } }.done x 0

/-- Whether any core of a field is throttled. -/
def Mach.meanLevel (m : Mach) (f : Nat) : Nat :=
  let cs := (fieldCores f).filter m.coreEnabled
  (cs.map fun c => (m.core c).pwr.level).sum / max 1 cs.length

/-- The state of a field in the record of PWR_GET. -/
def FieldCtl.powerCode (x : FieldCtl) : Nat := if x.sleep = .committed then 1 else if x.ring = .on then 0 else 2

/-- The cap in effect: the lowest of the cap and the limits in force (R379, R451). -/
def Power.effective (p : Power) : Nat :=
  let lims := [p.inletLim, p.hotLim, p.flowLim, if p.hotInlet then some 18000 else none, if p.inputLow then some 18000 else none]
  lims.foldl (fun c l => match l with
    | some x => min c x
    | none => c) p.cap

/-- The record of PWR_GET (R380). -/
def Mach.powerRecord (m : Mach) : Bytes :=
  let p := m.power
  let flags := b2n p.capReached + 2 * b2n (m.fields.toList.any fun x => x.throttling) + 4 * b2n p.protThrottled + 8 * b2n p.inputLow +
    16 * b2n p.inputHigh + 32 * b2n m.clk.holdover.isSome
  let one (f : Nat) : Bytes :=
    let x := m.field f
    toBytes 1 f ++ toBytes 1 x.powerCode ++ toBytes 1 (m.meanLevel f) ++ toBytes 1 0 ++ toBytes 4 x.budget ++ toBytes 4 x.draw ++ toBytes 4 x.lent
  toBytes 2 1 ++ toBytes 2 960 ++ toBytes 4 p.effective ++ toBytes 4 p.draw ++ toBytes 4 p.fixed ++ toBytes 4 p.prot ++ toBytes 4 p.vin ++
    toBytes 4 flags ++ toBytes 4 0 ++ toBytes 8 m.now.toNat ++ padTo [] 24 ++ ((List.range 56).map one).flatten

/-- PWR_GET (R380). -/
def pwrGetAt (f tag : Nat) (ok : Bool) (m : Mach) : Mach :=
  m.runCmd f tag 0x0161 (fun _ => true) fun x m => m.doneIfFits x ok m.powerRecord

def execFloorplanGet (f : FnIx) (tag : BitVec 16) (ok : Bool) (s : State) : Host.Outcome State Fault Refusal :=
  upd (floorplanGetAt f tag.toNat ok) s
def execFloorplanChange (s : State) : Host.Outcome State Fault Refusal := upd floorplanChangeAt s
def execTelemReadRouters (f : FnIx) (tag : BitVec 16) (ok : Bool) (s : State) : Host.Outcome State Fault Refusal :=
  upd (telemRoutersAt f tag.toNat ok) s
def execTelemReadProgress (f : FnIx) (tag : BitVec 16) (ok : Bool) (s : State) : Host.Outcome State Fault Refusal :=
  upd (telemProgressAt f tag.toNat ok) s
def execTelemReadFlow (f : FnIx) (tag : BitVec 16) (ok : Bool) (s : State) : Host.Outcome State Fault Refusal :=
  upd (telemFlowAt f tag.toNat ok) s
def execTelemReadPorts (f : FnIx) (tag : BitVec 16) (ok : Bool) (s : State) : Host.Outcome State Fault Refusal :=
  upd (telemPortsAt f tag.toNat ok) s
def execPwrCapSet (f : FnIx) (tag : BitVec 16) (s : State) : Host.Outcome State Fault Refusal := upd (pwrCapSetAt f tag.toNat) s
def execPwrGet (f : FnIx) (tag : BitVec 16) (ok : Bool) (s : State) : Host.Outcome State Fault Refusal :=
  upd (pwrGetAt f tag.toNat ok) s

end Sys2Proof.Machine
end

