-- ==== Sys2Proof/Machine/LinkCtl.lean ====
section
/-! DEFINITION. The control of the optical links: IDENT and the checks of cabling and coordinates, retrains, engine-set changes, the
FABRIC_ host commands, and time synchronisation (R295, R300, R303, R305 to R313, R316, R324, R325, R398). -/

namespace Sys2Proof.Machine

open Sys2Proof

/-! ## IDENT (R306, R307) -/

/-- The IDENT payload of an engine. -/
def Mach.identPay (m : Mach) (e : Nat) : Bytes :=
  let a := m.fabric.assigned
  toBytes 8 Config.moduleSerial.toNat ++ toBytes 1 (m.engPort e) ++ toBytes 1 (m.engIndex e) ++
    toBytes 1 (b2n (m.eng e).ident.isSome + 2 * b2n a) ++ toBytes 1 (siliconStep / 256) ++ toBytes 1 siliconStep ++ toBytes 3 0 ++
    toBytes 4 (if a then m.fabric.coord.toNat else 0) ++ toBytes 4 m.fabric.sizes.toNat ++ toBytes 4 m.runningImage.version.toNat

/-- Send an IDENT frame on MGMT. -/
def Mach.sendIdent (m : Mach) (e : Nat) : Mach :=
  (m.onEng e fun g => { g with identAt := m.cc }).sendFrames e 0 [mkFrame 5 0 0 0 7 true true false none (m.identPay e)]

/-- IDENT_SEND (R306): every 1 ms until the partner's IDENT with SEEN = 1 has come. -/
def identSendAt (e : Nat) (m : Mach) : Mach :=
  let g := m.eng e
  m.when (g.st == .active && m.engPort e < 9 && !g.peerSeen && (g.identAt == 0 || g.identAt + usCc 1000 ≤ m.cc)) fun m => m.sendIdent e

/-- The port that must face a port (R307): the opposite one of its dimension, or 8. -/
def facingPort (p : Nat) : Nat := if p = 8 then 8 else oppPort p

/-- Whether an IDENT shows a wrong partner for an engine. -/
def Mach.miscabledBy (m : Mach) (e : Nat) (b : Bytes) : Bool :=
  le b 8 1 != facingPort (m.engPort e) || le b 9 1 != m.engIndex e

/-- The coordinate that must stand at the far end of a port. -/
def Mach.facingCoord (m : Mach) (p : Nat) : Nat :=
  if p = 8 then m.twinCoord
  else
    let own := m.fabric.coord.toNat
    let d := p / 2
    let n := m.dimSize d
    coordSet own d (if p % 2 = 1 then (coordOf own d + 1) % n else (coordOf own d + n - 1) % n)

/-- Whether an IDENT shows a coordinate mismatch: both ends assigned, and sizes or coordinates that do not fit. -/
def Mach.mismatchBy (m : Mach) (e : Nat) (b : Bytes) : Bool :=
  m.fabric.assigned && bitOf (le b 10 1) 1 && (le b 0x14 4 != m.fabric.sizes.toNat || le b 0x10 4 != m.facingCoord (m.engPort e))

/-- The checks of R307 for an engine that holds its partner's IDENT; a miscabled engine carries no traffic. -/
def Mach.checkIdent (m : Mach) (e : Nat) : Mach :=
  match (m.eng e).ident with
  | none => m
  | some b =>
    let bad := m.miscabledBy e b
    let m := m.onEng e fun g => { g with miscabled := bad, mismatch := !bad && m.mismatchBy e b }
    if bad && m.engPort e < 9 && bitOf (m.port (m.engPort e)).active.toNat (m.engIndex e) then
      (m.onPort (m.engPort e) fun p => { p with active := p.active &&& ~~~ BitVec.ofNat 8 (2 ^ m.engIndex e) }).planChanged
    else m

/-- IDENT (R307): the 28 B payload of the partner. -/
def identAt (e : Nat) (b : Bytes) (m : Mach) : Mach :=
  m.when ((m.eng e).st == .active && m.engPort e < 9 && b.length == 28) fun m =>
    (m.onEng e fun g => { g with ident := some b, peerSeen := g.peerSeen || bitOf (le b 10 1) 0 }).checkIdent e

/-! ## Engine sets (R282, R313) -/

/-- An engine-set change of a port is asked for: it applies when the port has drained. -/
def Mach.setChange (m : Mach) (p idx : Nat) (join : Bool) : Mach :=
  m.onPort p fun q =>
    let old := q.pendingSet.getD q.active
    let bit := BitVec.ofNat 8 (2 ^ idx)
    { q with pendingSet := some (if join then old ||| bit else old &&& ~~~ bit) }

/-- Engines that serve a port and can carry its frames. -/
def Mach.portEngs (m : Mach) (p : Nat) : List Nat :=
  (List.range 56).filter fun e => m.engPort e == p && (m.eng e).carries

/-- The engine of its port on which a message that waits leaves under the set in force: that of its hash, or, in transit, engine k (R298). -/
def Mach.engAgain (m : Mach) (p : Nat) (x : TxFrame) : Option Nat :=
  if transitSrc ≤ x.src then m.engOnward p (m.engIndex (x.src - transitSrc))
  else m.engFor p (fld (thOrig (frPay x.f)) 0 17 + thDst (frPay x.f))

/-- The frames that wait on a port's engines given to the engines of the set in force, each message where its HEAD frame goes; dest holds the engine of each stream's message
on a channel and VC. -/
def Mach.requeue (m : Mach) (p : Nat) : List TxFrame → List ((Nat × Nat) × Nat) → Mach
  | [], _ => m
  | x :: r, dest =>
    let key := (x.src, frKey x.f)
    let onto := if frHead x.f then m.engAgain p x else (dest.find? fun d => d.1 == key).map (·.2)
    let m := match onto with
      | some e => m.onEng e fun g => { g with queue := g.queue ++ [x] }
      | none => m
    m.requeue p r (match onto with
      | some e => (key, e) :: dest
      | none => dest)

/-- A new engine set in force: what waited on the port's engines waits on those of the new set (R313). -/
def Mach.newSet (m : Mach) (p : Nat) (set_ : BitVec 8) : Mach :=
  let m := m.onPort p fun q => { q with active := set_, pendingSet := none }
  let es := (List.range 56).filter fun e => m.engPort e == p
  let wait := (es.map fun e => (m.eng e).queue.filter fun x => ordinary (frChan x.f)).flatten
  let m := es.foldl (fun m e => m.onEng e fun g => { g with queue := g.queue.filter fun x => !ordinary (frChan x.f) }) m
  es.foldl (fun m e => m.pump e) (m.requeue p wait [])

/-- ENGINE_SET_DRAIN_DONE (R313): every message in progress has completed and every replay buffer is empty. -/
def drainDoneAt (p : Nat) (m : Mach) : Mach :=
  match (m.port p).pendingSet with
  | none => m
  | some set_ => m.when ((m.portEngs p).all fun e => (m.eng e).replay.isEmpty && (m.eng e).opened.isEmpty) fun m =>
      let m := m.newSet p set_
      let back := (m.portEngs p).filter fun e => (m.eng e).st == .drain
      let m := back.foldl (fun m e =>
        let lead := (m.eng e).leader
        let m := m.onEng e fun g => { g with st := .active, leader := false }
        if lead then m.sendRetrain e 4 else m) m
      m.planChanged

/-! ## Retrains (R310 to R312, R398) -/

/-- The frames that wait on an engine without the rest of the messages under way. -/
def LightEng.notBegun (g : LightEng) : List TxFrame :=
  let cut (l : List TxFrame) (o : Nat × Nat) : List TxFrame :=
    let mine (x : TxFrame) : Bool := x.src == o.2 && frKey x.f == o.1
    let n := ((l.filter mine).takeWhile fun x => !frHead x.f).length
    (l.foldl (fun (a : Nat × List TxFrame) x => if mine x && 0 < a.1 then (a.1 - 1, a.2) else (a.1, a.2 ++ [x])) (n, [])).2
  g.opened.foldl cut g.queue

/-- The engine goes down: it is fenced, and its port degrades; messages that it has not begun wait for the port's new set (R311, R313, R413). -/
def Mach.engDown (m : Mach) (e : Nat) : Mach :=
  let p := m.engPort e
  let i := m.engIndex e
  let m := m.onEng e fun g => { g with st := .down, fenced := true, lanes := 0, replay := [], again := [], opened := [], rx := [], leader := false, unmet := 0,
                                       queue := if p < 9 then g.notBegun.filter (fun x => ordinary (frChan x.f)) else [] }
  let m := m.onField e fun x => { x with light := .off }
  let m := if p < 9 && bitOf (m.port p).active.toNat i then m.setChange p i false else m
  (m.logRec 0x03 e 0xFFFF (toBytes 1 2 ++ toBytes 1 e)).planChanged

/-- Both ends are ready: the lanes train, or the port drains. -/
def Mach.begin (m : Mach) (e : Nat) : Mach :=
  let g := m.eng e
  if g.what ≤ 2 then m.onEng e fun g => { g with st := .train, reqAt := m.cc }
  else (m.onEng e fun g => { g with st := .drain }).setChange (m.engPort e) (m.engIndex e) (g.what == 4)

/-- Whether this end leads when both ask at once (R312): the lower coordinate, or, unassigned, the lower serial. -/
def Mach.leads (m : Mach) (e : Nat) : Bool :=
  match (m.eng e).ident with
  | some b =>
    if m.fabric.assigned && bitOf (le b 10 1) 1 then m.fabric.coord.toNat < le b 0x10 4
    else Config.moduleSerial.toNat < le b 0 8
  | none => true

/-- A follower: its partner's request is taken up, and acknowledged; a request of its own that it does not satisfy stays unmet. -/
def Mach.follow (m : Mach) (e v : Nat) : Mach :=
  let g := m.eng e
  let what := fld v 4 4
  let rest := if g.st = .asking && g.what ≠ what && !(g.what = 1 && what = 2) then g.what else 0
  let m := m.onEng e fun g => { g with st := .following, what := what, rnum := BitVec.ofNat 8 (fld v 8 8), leader := false, unmet := rest,
                                       peerLanes := BitVec.ofNat 16 (fld v 16 16) }
  let m := if what ≤ 2 then m.portCount e 0xD8 else m
  (m.sendRetrain e 2).sendRetrain e 3

/-- A leader: its request is acknowledged. -/
def Mach.lead (m : Mach) (e v : Nat) : Mach :=
  (m.onEng e fun g => { g with st := .leading, leader := true, peerLanes := BitVec.ofNat 16 (fld v 16 16) }).sendRetrain e 3

/-- Cycles in which 10^13 bits pass on a number of lanes (R397). -/
def probationCc (lanes : Nat) : Nat := usCc (if lanes = 16 then 3100000 else 3300000)

/-- The engine is ACTIVE again: the replay resumes from the oldest frame not acknowledged; a request still unmet is sent again; an
engine that is not in its port's set joins it. -/
def Mach.backActive (m : Mach) (e : Nat) (lanes : BitVec 16) : Mach :=
  let again := (m.eng e).unmet
  let m := m.onEng e fun g =>
    { g with st := .active, lanes := lanes, leader := false, unmet := 0, letRun := 0, discard := false, again := g.replay,
             probation := some (m.cc + probationCc (laneCount lanes)) }
  let p := m.engPort e
  let m := if p < 9 && !bitOf (m.port p).active.toNat (m.engIndex e) then m.setChange p (m.engIndex e) true else m
  let m := m.pump e
  (if again = 0 then m else m.ask e again).planChanged

/-- RETRAIN (R311, R312): a RETRAIN frame arrives. -/
def retrainAt (e v : Nat) (m : Mach) : Mach :=
  let g := m.eng e
  let what := fld v 4 4
  let same := fld v 8 8 == g.rnum.toNat
  m.when (1 ≤ what && what ≤ 4) fun m =>
    match fld v 0 4, g.st with
    | 1, .active => m.follow e v
    | 1, .asking => if m.leads e then m.lead e v else m.follow e v
    | 2, .asking => if same then m.lead e v else m
    | 3, .leading => if same then m.begin e else m
    | 3, .following => if same then m.begin e else m
    | 4, .qualify => if same && !g.leader then m.backActive e (g.lanes &&& BitVec.ofNat 16 (fld v 16 16)) else m
    | _, _ => m

/-- RETRAIN_LOCAL_CAUSE (R310, R311). -/
def localCauseAt (e : Nat) (cause : RetrainCause) (m : Mach) : Mach :=
  let g := m.eng e
  m.when (g.st == .active && (match cause with
      | .lets => 8 ≤ g.letRun
      | _ => true)) fun m => m.ask e g.retrainWhat

/-- RETRAIN_REQ_RESEND (R311): REQ again every 10 µs; DOWN after 8 unanswered. -/
def reqResendAt (e : Nat) (m : Mach) : Mach :=
  let g := m.eng e
  m.when (g.st == .asking && g.reqAt + usCc 10 ≤ m.cc) fun m =>
    if 8 ≤ g.reqs then m.engDown e
    else (m.onEng e fun g => { g with reqs := g.reqs + 1, reqAt := m.cc }).sendRetrain e 1

/-- The time that training takes (R311). -/
def trainUs (what : Nat) : Nat := if what = 1 then 2000 else 60000

/-- ENGINE_TRAIN_DONE (R311): the lanes good at both ends; fewer than 15 carry no traffic. -/
def trainDoneAt (e : Nat) (lanes : BitVec 16) (m : Mach) : Mach :=
  let g := m.eng e
  m.when (g.st == .train && g.reqAt + usCc (trainUs g.what) ≤ m.cc) fun m =>
    if laneCount lanes < 15 then m.engDown e
    else m.onEng e fun g => { g with st := .qualify, lanes := lanes, saved := true, reqAt := m.cc }

/-- The lanes on which a qualification ends: all, or one fewer than 16; none where it fails (R397). -/
def qualified (lanes : BitVec 16) (uncorrectable : Bool) (ovr : BitVec 16) : Option (BitVec 16) :=
  let bad := lanes &&& ovr
  if uncorrectable then none
  else if laneCount bad = 0 then some lanes
  else if laneCount bad = 1 && laneCount lanes = 16 then some (lanes &&& ~~~ bad)
  else none

/-- ENGINE_QUALIFY_DONE (R311, R398): the leader returns to ACTIVE and sends DONE; the follower waits for it. -/
def qualifyDoneAt (e : Nat) (uncorrectable : Bool) (ovr : BitVec 16) (m : Mach) : Mach :=
  let g := m.eng e
  m.when (g.st == .qualify) fun m =>
    match qualified g.lanes uncorrectable ovr with
    | none => m.engDown e
    | some l =>
      if g.leader then ((m.onEng e fun g => { g with lanes := l }).sendRetrain e 4).backActive e l
      else m.onEng e fun g => { g with lanes := l }

/-! ## FABRIC_ commands (R341) -/

/-- FABRIC_NEIGHBOURS (R308): the partner's IDENT of every engine in field-number order, zeros where there is none. -/
def neighboursAt (f tag : Nat) (ok : Bool) (m : Mach) : Mach :=
  m.runCmd f tag 0x0170 (fun _ => true) fun x m =>
    m.doneIfFits x ok ((List.range 56).map fun e => padTo ((m.eng e).ident.getD []) 28).flatten

/-- Whether an assignment meets R292. -/
def assignOk (coord sizes : Nat) : Bool :=
  let n (d : Nat) : Nat := fld sizes (6 * d) 6 + 1
  coord < 2 ^ 25 && sizes < 2 ^ 24 && ([0, 1, 2, 3].all fun d => 2 ≤ n d && coordOf coord d < n d) && n 0 * n 1 * n 2 * n 3 ≤ 262144

/-- A coordinate and sizes in force: the checks of R307 again, and IDENT with ASSIGNED = 1 on every engine. -/
def Mach.assign (m : Mach) (coord : BitVec 25) (sizes : BitVec 24) : Mach :=
  let m := { m with fabric := { m.fabric with coord := coord, sizes := sizes, assigned := true },
                    clk := { m.clk with synced := false, syncLost := false, lastGood := m.clk.cc, slew := 0 } }
  (List.range 56).foldl (fun m e =>
    let m := m.checkIdent e
    if (m.eng e).st = .active && m.engPort e < 9 then m.sendIdent e else m) m

/-- FABRIC_ASSIGN (R308, R396): kept in the life log. -/
def fabricAssignAt (f tag : Nat) (m : Mach) : Mach :=
  m.runCmd f tag 0x0171 (fun _ => true) fun x m =>
    let co := le x.arg 0 4
    let sz := le x.arg 4 4
    if !assignOk co sz then m.done x 0x0102
    else if !m.fabric.jobs.isEmpty then m.done x 0x0408
    else
      let m := m.assign (BitVec.ofNat 25 co) (BitVec.ofNat 24 sz)
      { m with log := { m.log with place := some (BitVec.ofNat 25 co, BitVec.ofNat 24 sz) } }.done x 0

/-- A FABRIC_SET item with its value. -/
def Mach.fabricSet (m : Mach) (f tag item : Nat) (body : Cmd → Nat → Mach → Mach) : Mach :=
  m.runCmd f tag 0x0172 (fun x => le x.arg 0 1 == item) fun x m => body x (le x.arg 1 8) m

/-- FABRIC_SET item 1 (R300): 1 to 1,000 ms. -/
def setFtimeoutAt (f tag : Nat) (m : Mach) : Mach :=
  m.fabricSet f tag 1 fun x v m =>
    if v < 1 || 1000 < v then m.done x 0x0102 else { m with fabric := { m.fabric with ftimeout := v } }.done x 0

/-- FABRIC_SET item 2 (R316): 1 to 65,535. -/
def setFoulMaxAt (f tag : Nat) (m : Mach) : Mach :=
  m.fabricSet f tag 2 fun x v m =>
    if v < 1 || 65535 < v then m.done x 0x0102 else { m with fabric := { m.fabric with foulMax := v } }.done x 0

/-- FABRIC_SET item 3 (R305): the transit share of every port, up to a full port's capacity. -/
def setShareAt (f tag : Nat) (m : Mach) : Mach :=
  m.fabricSet f tag 3 fun x v m =>
    if 16000 < v then m.done x 0x0102
    else { m with fabric := { m.fabric with ports := m.fabric.ports.map fun (p : FPort) => { p with share := v } } }.setRates.done x 0

/-- FABRIC_SET item 4 (R324). -/
def setMasterAt (f tag : Nat) (m : Mach) : Mach :=
  m.fabricSet f tag 4 fun x v m =>
    if 2 ^ 25 ≤ v || !m.coordOk v then m.done x 0x0102 else { m with clk := { m.clk with master := BitVec.ofNat 25 v } }.done x 0

/-- Whether a detour entry may be installed (R303). -/
def Mach.detourOk (m : Mach) (b : Bytes) : Bool :=
  let co := le b 0 4
  let p := le b 4 1
  let own := m.fabric.coord.toNat
  co < 2 ^ 25 && m.coordOk co && p < 8 && le b 5 1 < 16 && le b 6 1 ≤ 2 && le b 7 1 == 0 && coordSet co (p / 2) 0 == coordSet own (p / 2) 0

/-- FABRIC_SET item 5 (R303): all entries together. -/
def setDetoursAt (f tag : Nat) (data : Option Bytes) (m : Mach) : Mach :=
  m.fabricSet f tag 5 fun x v m =>
    if v < 1 || 128 < v || x.len < 8 * v then m.done x 0x0102
    else m.withData x data fun b m =>
      let es := (List.range v).map fun i => (b.drop (8 * i)).take 8
      if !(es.all m.detourOk) then m.done x 0x0102
      else (es.foldl (fun m e => m.onPort (le e 4 1) fun p =>
        { p with detours := if le e 6 1 = 0 then adel p.detours (le e 5 1) else aset p.detours (le e 5 1) (le e 0 4, le e 6 1) }) m).done x 0

/-- A FABRIC_LINK action on an engine of a port: BAD_ARG where there is none, HW_FAULT where it is not in ACTIVE. -/
def Mach.fabricLink (m : Mach) (f tag act : Nat) (body : Cmd → Nat → Mach → Mach) : Mach :=
  m.runCmd f tag 0x0173 (fun x => le x.arg 2 1 == act) fun x m =>
    if 8 < le x.arg 0 1 then m.done x 0x0102
    else match m.engAt (le x.arg 0 1) (le x.arg 1 1) with
      | none => m.done x 0x0102
      | some e => if (m.eng e).st = .active then body x e m else m.done x 0x0601

/-- FABRIC_LINK action 1 (R309): a HOLD frame with a mask and a time. -/
def linkHoldAt (f tag : Nat) (m : Mach) : Mach :=
  m.fabricLink f tag 1 fun x e m =>
    let v := le x.arg 3 4
    if fld v 6 10 ≠ 0 || bitOf v 4 then m.done x 0x0102 else (m.sendLink e 10 (toBytes 4 v)).done x 0

/-- FABRIC_LINK action 2 (R310). -/
def linkRetrainAt (f tag : Nat) (m : Mach) : Mach :=
  m.fabricLink f tag 2 fun x e m => (m.ask e (m.eng e).retrainWhat).done x 0

/-- FABRIC_LINK action 3 (R313): the engine leaves its port's set. -/
def linkLeaveAt (f tag : Nat) (m : Mach) : Mach :=
  m.fabricLink f tag 3 fun x e m =>
    if !bitOf (m.port (le x.arg 0 1)).active.toNat (le x.arg 1 1) then m.done x 0x0102 else (m.ask e 3).done x 0

/-- FABRIC_LINK action 4 (R313): the engine joins its port's set. -/
def linkJoinAt (f tag : Nat) (m : Mach) : Mach :=
  m.fabricLink f tag 4 fun x e m =>
    if bitOf (m.port (le x.arg 0 1)).active.toNat (le x.arg 1 1) || (m.eng e).miscabled then m.done x 0x0102 else (m.ask e 4).done x 0

/-- FABRIC_LINK action 5 (R316): the port leaves quarantine. -/
def unquarantineAt (f tag : Nat) (m : Mach) : Mach :=
  m.runCmd f tag 0x0173 (fun x => le x.arg 2 1 == 5) fun x m =>
    let p := le x.arg 0 1
    if 8 < p then m.done x 0x0102 else (m.onPort p fun q => { q with quarantined := false, fouls := [] }).done x 0

/-- FABRIC_JOBTAG (R263, R295): an entry of the context's job-tag list, replaced or put at its end. -/
def jobtagAt (f tag : Nat) (data : Option Bytes) (m : Mach) : Mach :=
  m.runCmd f tag 0x0174 (fun _ => true) fun x m => m.onAdmitted x fun y m => m.withData { x with len := max x.len 32 } data fun b m =>
    let i := le x.arg 0 1
    let e := tagEntry (b.take 32)
    let used := m.fabric.jobs.any fun j => j.tag == e.1.tag && some j.tag != y.tags[i]?
    if y.tags.length < i && i < 16 then m.done x 0x0102
    else if 16 ≤ i || (i = y.tags.length && 1024 ≤ m.fabric.jobs.length) then m.done x 0x0207
    else if e.2 || used || !tagOk y.slots e.1 then m.done x 0x0102
    else
      let old := y.tags[i]?
      let tags := if i < y.tags.length then y.tags.set i e.1.tag else y.tags ++ [e.1.tag]
      let kept := m.fabric.jobs.filter fun j => some j.tag != old
      let m := { m with fabric := { m.fabric with jobs := kept ++ [{ e.1 with cid := BitVec.ofNat 10 x.cid }] },
                        buckets := m.buckets.filter fun z => z.1 % 4 != 3 || some (BitVec.ofNat 16 (z.1 / 4 % 65536)) != old ||
                          tags.contains (BitVec.ofNat 16 (z.1 / 4 % 65536)) }
      ((m.onCtx x.cid fun y => { y with tags := tags }).setRates).done x 0

/-! ## Time synchronisation (R324, R325) -/

/-- Whether this device is the time master. -/
def Mach.isMaster (m : Mach) : Bool := m.fabric.coord == m.clk.master

/-- The port that leads to the parent of this device (R324): the pair port in plane 1, else one hop toward the master in the first of W, Z, Y and X in which it differs from
the master and whose port is up. -/
def Mach.parentPort (m : Mach) : Option Nat :=
  let own := m.fabric.coord.toNat
  let top := m.clk.master.toNat
  if own / 2 ^ 24 % 2 = 1 then (if m.portUp 8 then some 8 else none)
  else ([3, 2, 1, 0].filter fun d => coordOf own d != coordOf top d).findSome? fun d =>
    let p := wayPort d (m.shortPlus d top)
    if m.portUp p then some p else none

/-- Whole ticks in an offset of 1/64 ns, to the nearest; a tick is 10 ns. -/
def offsetTicks (off : Int) : Int := (off + 320) / 640

/-- TIME_SYNC (R324, R325): the counter steps once, at the first synchronisation after a coordinate is in force, and slews from then on; neither a restart nor another
assignment lets it step again (R16; log 92). -/
def timeSyncAt (t1 t2 t3 t4 : Int) (m : Mach) : Mach :=
  m.when (m.fabric.assigned && m.clk.locked && !m.isMaster && m.parentPort.isSome) fun m =>
    let d := offsetTicks (((t2 - t1) - (t4 - t3)) / 2)
    let clk := { m.clk with synced := true, syncLost := false, lastGood := m.clk.cc }
    if m.clk.stepped then { m with clk := { clk with slew := d } }
    else { m with clk := { clk with stepped := true, slew := 0, tclk := BitVec.ofInt 64 ((m.clk.tclk.toNat : Int) + d) } }

/-- SYNC_LOST (R324): 100 ms without a good exchange. -/
def syncLostAt (m : Mach) : Mach :=
  m.when (m.fabric.assigned && !m.isMaster && !m.clk.syncLost && m.clk.lastGood + usCc 100000 ≤ m.cc) fun m =>
    ({ m with clk := { m.clk with synced := false, syncLost := true } }).raiseAll pfs (m.event 0xB 0 0 0 0 0)

def execRetrain (e : FieldIx) (value : BitVec 32) (s : State) : Host.Outcome State Fault Refusal := upd (retrainAt e value.toNat) s
def execRetrainLocalCause (e : FieldIx) (cause : RetrainCause) (s : State) : Host.Outcome State Fault Refusal :=
  upd (localCauseAt e cause) s
def execRetrainReqResend (e : FieldIx) (s : State) : Host.Outcome State Fault Refusal := upd (reqResendAt e) s
def execEngineTrainDone (e : FieldIx) (lanes : BitVec 16) (s : State) : Host.Outcome State Fault Refusal := upd (trainDoneAt e lanes) s
def execEngineQualifyDone (e : FieldIx) (uncorrectable : Bool) (overLimit : BitVec 16) (s : State) : Host.Outcome State Fault Refusal :=
  upd (qualifyDoneAt e uncorrectable overLimit) s
def execEngineSetDrainDone (p : PortIx) (s : State) : Host.Outcome State Fault Refusal := upd (drainDoneAt p) s
def execIdent (e : FieldIx) (payload : Bytes) (s : State) : Host.Outcome State Fault Refusal := upd (identAt e payload) s
def execIdentSend (e : FieldIx) (s : State) : Host.Outcome State Fault Refusal := upd (identSendAt e) s
def execTimeSync (t1 t2 t3 t4 : Int) (s : State) : Host.Outcome State Fault Refusal := upd (timeSyncAt t1 t2 t3 t4) s
def execSyncLost (s : State) : Host.Outcome State Fault Refusal := upd syncLostAt s
def execFabricNeighbours (f : FnIx) (tag : BitVec 16) (ok : Bool) (s : State) : Host.Outcome State Fault Refusal :=
  upd (neighboursAt f tag.toNat ok) s
def execFabricAssign (f : FnIx) (tag : BitVec 16) (s : State) : Host.Outcome State Fault Refusal := upd (fabricAssignAt f tag.toNat) s
def execFabricSetFtimeout (f : FnIx) (tag : BitVec 16) (s : State) : Host.Outcome State Fault Refusal := upd (setFtimeoutAt f tag.toNat) s
def execFabricSetFoulMax (f : FnIx) (tag : BitVec 16) (s : State) : Host.Outcome State Fault Refusal := upd (setFoulMaxAt f tag.toNat) s
def execFabricSetTransitShare (f : FnIx) (tag : BitVec 16) (s : State) : Host.Outcome State Fault Refusal := upd (setShareAt f tag.toNat) s
def execFabricSetTimeMaster (f : FnIx) (tag : BitVec 16) (s : State) : Host.Outcome State Fault Refusal := upd (setMasterAt f tag.toNat) s
def execFabricSetDetours (f : FnIx) (tag : BitVec 16) (data : Option Bytes) (s : State) : Host.Outcome State Fault Refusal :=
  upd (setDetoursAt f tag.toNat data) s
def execFabricLinkHold (f : FnIx) (tag : BitVec 16) (s : State) : Host.Outcome State Fault Refusal := upd (linkHoldAt f tag.toNat) s
def execFabricLinkRetrain (f : FnIx) (tag : BitVec 16) (s : State) : Host.Outcome State Fault Refusal := upd (linkRetrainAt f tag.toNat) s
def execFabricLinkLeave (f : FnIx) (tag : BitVec 16) (s : State) : Host.Outcome State Fault Refusal := upd (linkLeaveAt f tag.toNat) s
def execFabricLinkJoin (f : FnIx) (tag : BitVec 16) (s : State) : Host.Outcome State Fault Refusal := upd (linkJoinAt f tag.toNat) s
def execFabricLinkUnquarantine (f : FnIx) (tag : BitVec 16) (s : State) : Host.Outcome State Fault Refusal :=
  upd (unquarantineAt f tag.toNat) s
def execFabricJobtag (f : FnIx) (tag : BitVec 16) (data : Option Bytes) (s : State) : Host.Outcome State Fault Refusal :=
  upd (jobtagAt f tag.toNat data) s

end Sys2Proof.Machine
end

