-- ==== Sys2Proof/Machine/Debug.lean ====
section
/-! DEFINITION. The debugger's commands and the trace units (R237, R341, R437 to R442, R456). -/

namespace Sys2Proof.Machine

open Sys2Proof

/-! ## DEBUG_HALT, DEBUG_HUD_SET, DEBUG_READ -/

/-- A command on a debug-enabled context (R237). -/
def Mach.onDebug (m : Mach) (x : Cmd) (body : Ctx → Mach → Mach) : Mach :=
  m.onAdmitted x fun y m => if y.dbg then body y m else m.done x 0x0501

/-- DEBUG_HALT (R341): CAUSE 0x08. -/
def debugHaltAt (f tag : Nat) (m : Mach) : Mach :=
  m.runCmd f tag 0x0180 (fun _ => true) fun x m => m.onDebug x fun y m =>
    let core := le x.arg 0 4
    let s := le x.arg 4 1
    if (y.entry core s).isNone then m.done x 0x0102 else (m.forceHaltAt (m.runs core) s 8).done x 0

/-- DEBUG_HUD_SET (R237): COUNT is written, and a release evaluated as usual. -/
def debugHudSetAt (f tag : Nat) (m : Mach) : Mach :=
  m.runCmd f tag 0x0181 (fun _ => true) fun x m => m.onAdmitted x fun y m =>
    let core := le x.arg 0 4
    let h := le x.arg 4 1
    let n := le x.arg 5 4
    let c := m.runs core
    if 0xFFFFFF < n || 31 < h || nCores ≤ core then m.done x 0x0102
    else if !y.dbg || ((m.core c).huddle h).owner != some (BitVec.ofNat 10 x.cid) then m.done x 0x0501
    else
      let old := ((m.core c).huddle h).count.toNat
      let m := m.onCore c fun k => k.hudInput h m.cc fun y => { y with write := some (BitVec.ofNat 24 n) }
      let m := (m.logRec 0x0A (fieldOf c) x.cid (toBytes 4 old ++ toBytes 4 n ++ toBytes 2 x.fn ++ toBytes 4 core ++ toBytes 1 h)).logCount 0x74
      (m.raiseAll (y.owner :: pfs) (m.event 0xD x.cid core 0 h 0)).done x 0

/-- n bytes of a SLOT block from an offset of the CSR page on; none outside the block. -/
def Mach.slotBytes (m : Mach) (c s off n : Nat) : Option Bytes :=
  let lo := 0x100 + 0x100 * s
  if off < lo || lo + 0x100 < off + n then none
  else some (((m.pageBytes c s lo 0x100).drop (off - lo)).take n)

/-- Firmware has read n bytes of a SLOT block: SLOT_WAKE_CAUSE clears where they hold it (R10). -/
def Mach.slotBytesRead (m : Mach) (c s off n : Nat) : Mach :=
  let o := 0x114 + 0x100 * s
  if off < o + 4 && o < off + n then m.onCore c fun k => csrReadEffect k s o m.cc else m

/-- DEBUG_READ (R341, R344). -/
def debugReadAt (f tag : Nat) (ok : Bool) (m : Mach) : Mach :=
  m.runCmd f tag 0x0182 (fun _ => true) fun x m => m.onDebug x fun y m =>
    let core := le x.arg 0 4
    let s := le x.arg 4 1
    let space := le x.arg 5 1
    let off := le x.arg 6 8
    let c := m.runs core
    if x.len = 0 then m.done x 0
    else if (y.entry core s).isNone || (1 < space && space ≠ 0xF) then m.done x 0x0102
    else if space = 0xF then (match m.slotBytes c s off x.len with
      | some b => (m.slotBytesRead c s off x.len).doneWith x ok b 0
      | none => m.done x 0x0104)
    else match m.loadPlace core s space off x.len false with
      | none => m.done x 0x0104
      | some q =>
        let m := m.fwReach c space q.off
        m.doneWith x ok ((m.core c).readMem space q.off x.len) 0

/-! ## DEBUG_TRACE (R456) -/

/-- A condition of a configuration. -/
def condOf (b : Bytes) : TrigCond :=
  { src := le b 0 1, count := le b 2 2, value := BitVec.ofNat 64 (le b 4 8), mask := BitVec.ofNat 64 (le b 12 8) }

/-- Source words that may be programmed (R456). -/
def srcOk (w : Nat → Nat) : Bool :=
  (fld (w 0) 1 6 ≤ 47 && fld (w 0) 7 6 ≤ 47 && fld (w 0) 13 3 ≤ 4 && w 0 / 2 ^ 22 == 0) &&
  (fld (w 1) 1 6 ≤ 47 && fld (w 1) 7 6 ≤ 47 && w 1 / 2 ^ 16 == 0) && w 2 / 2 ^ 6 == 0 && w 3 / 2 ^ 6 == 0

/-- Whether the 180 bytes of a configuration are allowed. -/
def traceCfgOk (b : Bytes) : Bool :=
  let w (i : Nat) : Nat := le b (4 * i) 4
  let conds := (List.range 8).map fun i => (b.drop (20 + 20 * i)).take 20
  srcOk w && le b 16 2 ≤ 8191 && le b 18 1 ≤ 1 && le b 19 1 == 0 &&
  conds.all fun c => le c 1 1 == 0 && (le c 2 2 == 0 || (le c 0 1 < 4 && bitOf (w (le c 0 1)) 0))

/-- A trace command of the management port on a field's unit. -/
def Mach.onTrace (m : Mach) (f tag act : Nat) (body : Cmd → Nat → Mach → Mach) : Mach :=
  m.runCmd f tag 0x0183 (fun x => le x.arg 1 1 == act) fun x m =>
    if 55 < le x.arg 0 1 then m.done x 0x0102 else body x (le x.arg 0 1) m

def Mach.setTrace (m : Mach) (f : Nat) (g : Trace → Trace) : Mach := m.onField f fun x => { x with trace := g x.trace }

/-- DEBUG_TRACE action 1: the unit is programmed anew, and idle. -/
def traceConfigureAt (f tag : Nat) (data : Option Bytes) (m : Mach) : Mach :=
  m.onTrace f tag 1 fun x fd m => m.withData x data fun b m =>
    if x.len < 180 || !traceCfgOk b then m.done x 0x0102
    else
      (m.setTrace fd fun t => { caps := t.caps, lastCc := t.lastCc, src := (List.range 4).map fun i => BitVec.ofNat 32 (le b (4 * i) 4),
                                pre := le b 16 2, auto := le b 18 1 == 1,
                                conds := (List.range 8).map fun i => condOf (b.drop (20 + 20 * i)) }).done x 0

/-- A unit that starts to fill: at once ARMED with a depth of 0 (R440). -/
def Trace.fill (t : Trace) : Trace :=
  { t with st := if t.pre = 0 then .armed else .filling, samples := [], waiting := [], postLeft := 0, preGot := 0, mask := 0 }

/-- DEBUG_TRACE action 2 (R440). -/
def traceArmAt (f tag : Nat) (m : Mach) : Mach :=
  m.onTrace f tag 2 fun x fd m => (m.setTrace fd fun t => if t.st = .idle then t.fill else t).done x 0

/-- DEBUG_TRACE action 3 (R440). -/
def traceDisarmAt (f tag : Nat) (m : Mach) : Mach :=
  m.onTrace f tag 3 fun x fd m => (m.setTrace fd fun t => { t with st := .idle, samples := [], waiting := [], postLeft := 0 }).done x 0

/-- A sample as it is read (R438). -/
def sampleBytes (s : TSample) : Bytes :=
  toBytes 8 s.time.toNat ++ toBytes 1 s.cc ++ toBytes 1 s.src ++ toBytes 1 s.trig.toNat ++ toBytes 1 s.flags.toNat ++ padTo s.data 20

/-- A capture as it is read (R442). -/
def captureBytes (c : Capture) : Bytes :=
  padTo (toBytes 1 c.number ++ toBytes 1 c.mask.toNat ++ toBytes 2 c.preReq ++ toBytes 2 c.preGot ++ toBytes 2 c.samples.length ++
    toBytes 8 c.time.toNat ++ padTo (c.missed.map fun n => toBytes 4 n.toNat).flatten 32 ++ toBytes 4 c.dropped.toNat) 64 ++
    (c.samples.map sampleBytes).flatten

/-- DEBUG_TRACE action 4 (R442): capture 0 is the newest. -/
def traceReadAt (f tag : Nat) (m : Mach) : Mach :=
  m.onTrace f tag 4 fun x fd m =>
    match if 3 < le x.arg 2 1 then none else (m.field fd).trace.caps[le x.arg 2 1]? with
    | none => m.done x 0x0102
    | some c => m.doneWith x true (captureBytes c) (captureBytes c).length

/-! ## TRACE_SAMPLE and TRACE_REARM (R437 to R442) -/

/-- The lowest condition of a mask. -/
def lowBit (n : Nat) : Nat := ((List.range 8).find? fun i => bitOf n i).getD 0

/-- A trigger: the capture starts with the samples held and the trigger sample, which counts among the 8,192 − PRE (log 66). -/
def Trace.trigger (t : Trace) (mask cc : Nat) (held : List TSample) (s : TSample) : Trace :=
  { t with st := if t.pre < 8191 then .post else .rearm, samples := held ++ [s], postLeft := 8192 - t.pre - 1, number := lowBit mask,
           mask := BitVec.ofNat 8 mask, preGot := held.length, time := s.time, since := cc }

/-- A unit with a sample stored, by its state (R440, R441). -/
def Trace.store (t : Trace) (mask cc : Nat) (s : TSample) : Trace :=
  match t.st with
  | .filling =>
    if mask ≠ 0 then t.trigger mask cc t.samples s
    else
      let l := t.samples ++ [s]
      { t with samples := l, st := if t.pre ≤ l.length then .armed else .filling }
  | .armed =>
    if mask ≠ 0 then t.trigger mask cc t.samples s
    else
      let l := t.samples ++ [s]
      { t with samples := l.drop (l.length - t.pre) }
  | .post =>
    if t.postLeft ≤ 1 then { t with samples := t.samples ++ [s], postLeft := 0, st := .rearm, since := cc }
    else { t with samples := t.samples ++ [s], postLeft := t.postLeft - 1 }
  | _ => t

/-- The sample of an event (R438). -/
def TEvent.sample (e : TEvent) (mask : Nat) : TSample :=
  { time := e.time, cc := e.cc % 12, src := e.src, trig := BitVec.ofNat 8 mask, flags := BitVec.ofNat 8 (b2n e.mark + 2 * b2n e.after), data := e.data }

/-- The conditions that waiting events meet once nothing more is stored: missed (R441). -/
def Trace.missWaiting (t : Trace) : Trace :=
  t.waiting.foldl (fun (t : Trace) e => t.put e) { t with waiting := [] }

/-- The oldest waiting event is stored, and checked against the conditions; at the end of a capture the others are missed. -/
def Trace.take (t : Trace) (e : TEvent) (rest : List TEvent) (cc : Nat) : Trace :=
  let y := t.see e.src (le e.data 0 8)
  let t := { t with conds := y.1, waiting := rest, lastCc := cc + 1 }.store y.2 cc (e.sample y.2)
  if t.st = .rearm then t.missWaiting else t

/-- TRACE_SAMPLE (R437): the oldest event that waits at a field's unit, which the command names, is stored, at most one in a cycle. -/
def traceSampleAt (f src : Nat) (mark : Bool) (data : Bytes) (m : Mach) : Mach :=
  let t := (m.field f).trace
  match t.waiting with
  | [] => m
  | e :: rest => m.when (t.lastCc ≤ m.cc && e.src == src && e.mark == mark && e.data == data) fun m => m.setTrace f fun t => t.take e rest m.cc

/-- TRACE_REARM (R440, R442): the capture has been copied, in 1 ms; the last four are kept. -/
def traceRearmAt (f : Nat) (m : Mach) : Mach :=
  let t := (m.field f).trace
  m.when (t.st == .rearm && t.since + usCc 1000 ≤ m.cc) fun m =>
    let c : Capture := { number := t.number, mask := t.mask, preReq := t.pre, preGot := t.preGot, time := t.time,
                         missed := t.conds.map fun c => c.missed, dropped := t.dropped, samples := t.samples }
    m.setTrace f fun t =>
      let t := { t with caps := (c :: t.caps).take 4, samples := [] }
      if t.auto then t.fill else { t with st := .idle }

def execDebugHalt (f : FnIx) (tag : BitVec 16) (s : State) : Host.Outcome State Fault Refusal := upd (debugHaltAt f tag.toNat) s
def execDebugHudSet (f : FnIx) (tag : BitVec 16) (s : State) : Host.Outcome State Fault Refusal := upd (debugHudSetAt f tag.toNat) s
def execDebugRead (f : FnIx) (tag : BitVec 16) (ok : Bool) (s : State) : Host.Outcome State Fault Refusal :=
  upd (debugReadAt f tag.toNat ok) s
def execDebugTraceConfigure (f : FnIx) (tag : BitVec 16) (data : Option Bytes) (s : State) : Host.Outcome State Fault Refusal :=
  upd (traceConfigureAt f tag.toNat data) s
def execDebugTraceArm (f : FnIx) (tag : BitVec 16) (s : State) : Host.Outcome State Fault Refusal := upd (traceArmAt f tag.toNat) s
def execDebugTraceDisarm (f : FnIx) (tag : BitVec 16) (s : State) : Host.Outcome State Fault Refusal := upd (traceDisarmAt f tag.toNat) s
def execDebugTraceRead (f : FnIx) (tag : BitVec 16) (s : State) : Host.Outcome State Fault Refusal := upd (traceReadAt f tag.toNat) s
def execTraceSample (f : FieldIx) (src : Fin 4) (mark : Bool) (data : Bytes) (s : State) : Host.Outcome State Fault Refusal :=
  upd (traceSampleAt f src mark data) s
def execTraceRearm (f : FieldIx) (s : State) : Host.Outcome State Fault Refusal := upd (traceRearmAt f) s

end Sys2Proof.Machine
end

