-- ==== Sys2Proof/Machine/Afresh.lean ====
section
/-! DEFINITION. The status pins (R453), and what a start afresh leaves of the module (R381, R400, R402, R403). -/

namespace Sys2Proof.Machine

open Sys2Proof

/-- A change of boot state; a change of a status pin asserts ALERT_N (R453, R455). -/
def Mach.pins (m : Mach) (f : Boot → Boot) : Mach :=
  let b := f m.boot
  let moved := b.ready != m.boot.ready || b.fault != m.boot.fault || b.therm != m.boot.therm
  { m with boot := { b with alert := b.alert || moved } }

/-- A field-less device event for both PFs (R350). -/
def Mach.powerEvent (m : Mach) (code : Nat) (field : Nat := 0xFF) : Mach := m.raiseAll pfs (m.event 0xE 0 0 0 (code + 256 * field) 0)

/-- A power record in the life log (R379, R435). -/
def Mach.powerRec (m : Mach) (code : Nat) (field : Nat := 0xFFFF) : Mach := m.logRec 0x0E field 0xFFFF (toBytes 1 code)

/-- What of a core survives a start: what the life log holds of it (R171, R172, R412), and the readings of its sensors. -/
def Core.reborn (k : Core) : Core :=
  { care := { cells := k.care.cells, cols := k.care.cols, rows := k.care.rows, subPass := k.care.subPass, declared := k.care.declared, temp := k.care.temp,
              hot := k.care.hot, saved := k.care.saved },
    lastPass := k.lastPass }

/-- What of a field survives a start (R412, R434). -/
def FieldCtl.reborn (x : FieldCtl) : FieldCtl :=
  { slicesRun := x.slicesRun, slicesFailed := x.slicesFailed, colRepairs := x.colRepairs, rowRepairs := x.rowRepairs, cut := x.cut,
    sensorBad := x.sensorBad, margins := { x.margins with readings := [], droopNeg := 0 } }

/-- What of an engine survives a start: its fence, and its saved lane settings (R395, R396). -/
def LightEng.reborn (g : LightEng) : LightEng := { fenced := g.fenced, saved := g.saved }

/-- What of a function survives a start while its port keeps its power: configuration and BAR0 contents, without rings, commands and
events (R400). -/
def Fn.reborn (x : Fn) : Fn :=
  { msix := x.msix, pba := x.pba, done := x.done, mbCmd := x.mbCmd, mbCpl := x.mbCpl, intr := x.intr, viols := x.viols, readValue := x.readValue }

/-- The wafer-wide tables at a start: no substitution is left, since no context is (R400, R417). The core and link entries stand as the
last generation has them until stage 8 (R47, R393). -/
def Wafer.reborn (w : Wafer) : Wafer := { w with subst := .replicate 64 {}, weights := [3, 4, 4, 2, 3], newDetours := [] }

/-- The module as a start finds it at a stage: contexts, rings and job tags are gone and every domain of the wafer is OFF; the clocks,
the life log, images and settings stay. ports says whether the host and management ports keep their power (log 32). -/
def Mach.afresh (m : Mach) (stage : Nat) (ports : Bool) : Mach :=
  let host := { m.host with fns := if ports then amap m.host.fns fun _ x => x.reborn else [], cmds := [], mgmtSeen := false,
                            portUp := if ports then m.host.portUp else .replicate 2 false, mgmtUp := ports && m.host.mgmtUp,
                            host0 := if ports then m.host.host0 else .off, host1 := if ports then m.host.host1 else .off,
                            mgmt := if ports then m.host.mgmt else .off }
  let clk := { m.clk with synced := false, slew := 0, holdoverOut := false, syncLost := false, lastGood := 0, master := 0 }
  let power := { m.power with capReached := false, protThrottled := false, prot := 0, budgetAt := 0 }
  let old := m.boot
  let m : Mach :=
    { clk := clk, cores := amap m.cores fun _ k => k.reborn, wafer := m.wafer.reborn, host := host,
      fabric := { engs := m.fabric.engs.map LightEng.reborn }, power := power, fields := m.fields.map FieldCtl.reborn, boot := old,
      log := m.log, free := m.free }
  m.pins fun b => { b with stage := stage, since := m.cc, wave := 0, failed := none, failedAt := none, ready := false, minimal := false,
                           relabel := [], wear := [], recovering := false, heartbeat := 0, beatAt := m.cc, durs := [], failField := 0xFFFF }

/-- READY deasserted and FAULT_N asserted. -/
def Mach.faultPins (m : Mach) : Mach := m.pins fun b => { b with ready := false, fault := true }

/-- The cause of a whole-device recovery: READY is deasserted and commands are limited by R345 until it is done (R404, R405). -/
def Mach.needRecovery (m : Mach) : Mach := m.pins fun b => { b with recovering := true, ready := false }

/-- The device down, with only the WC powered, until its input or its temperature lets it start again (R379, R452). -/
def Mach.powerDown (m : Mach) (off : Bool) : Mach :=
  ((m.afresh 0 false).faultPins).pins fun b => { b with off := off }

end Sys2Proof.Machine
end

