-- ==== Sys2Proof/Machine/Field.lean ====
section
/-! DEFINITION. Field sleep: FIELD_SLEEP_START, PREPARE, FIELD_SLEEP_COMMIT, FIELD_SLEEP_ABORT, FIELD_WAKE (R369 to R373); the power
budget: BUDGET_COMPUTE, THROTTLE_ADJUST (R375 to R378); the input monitors, the reference and the thermal limits (R354, R379, R449 to
R452). -/

namespace Sys2Proof.Machine

open Sys2Proof

/-! ## Field sleep (R369 to R373) -/

/-- A HOLD of the four ordinary channels of a field's engine, where the engine is active (R370). -/
def Mach.fieldHold (m : Mach) (f units : Nat) : Mach :=
  if (m.eng f).st = .active then m.sendLink f 10 (toBytes 4 (0xF + 65536 * units)) else m

/-- Whether a reservation, the transit share included, is held on the port that a field's engine serves (R369). -/
def Mach.portReserved (m : Mach) (f : Nat) : Bool :=
  let p := m.engPort f
  p < 9 && !(m.eng f).fenced && (0 < (m.port p).share || m.ctxs.any fun e => e.2.resv.any fun r => r.resource == 5 && r.inst == p && 0 < r.units)

/-- FIELD_SLEEP_START (R369, R370). -/
def fieldSleepStartAt (f : Nat) (m : Mach) : Mach :=
  let x := m.field f
  let rest := match x.abortAt with
    | some t => t + usCc 10000 ≤ m.cc
    | none => true
  m.when (x.sleep == .awake && x.ring == .on && m.boot.stage == 9 && !m.boot.recovering && !x.fcHung && !x.fcFenced && rest &&
      !m.portReserved f && (m.coresOf f).all fun e => e.2.quiet m.cc && e.2.pwr.busyAt + usCc 1000 ≤ m.cc) fun m =>
    ((m.fieldHold f 500).onField f fun x => { x with sleep := .preparing, prepared := m.cc, answers := [] }).fcEvent f 2

/-- The code with which a core refuses, 0 when it agrees (R371). -/
def Core.refusal (k : Core) : Nat :=
  let slots := List.range 4
  if slots.any fun s => (k.slot s).ctl.st == .running || (k.slot s).run.wakeAt.isSome || k.wakeNow s != 0 then 1
  else if !k.enginesIdle || !k.xfers.isEmpty || !k.prep.isEmpty then 2
  else if k.pwr.nofs then 3
  else if k.pwr.voteBk != 0 || k.pwr.fwVoteBk then 4
  else if (k.router.lo.any fun e => !e.2.isEmpty) || !k.ubWait.isEmpty || slots.any fun s => !(k.slot s).run.rids.isEmpty then 5
  else if (slots.any fun s => (k.slot s).ctl.st == .quiesced) || k.care.overdue.toList.any id then 6
  else 0

/-- PREPARE (R370, R371): a core answers, once a commit window it stands in has closed; one that agrees stops. With no answer in 5 µs the
field controller counts code 15. Bench and fenced cores count as agreeing. -/
def prepareAt (c : Nat) (answered : Bool) (m : Mach) : Mach :=
  let f := fieldOf c
  let x := m.field f
  let k := m.core c
  m.when (x.sleep == .preparing && (aget x.answers c).isNone && (if answered then !k.inWindow m.cc else x.prepared + usCc 5 ≤ m.cc)) fun m =>
    let code := if !m.coreEnabled c then 0 else if answered then k.refusal else 15
    let m := m.onField f fun x => { x with answers := aset x.answers c code }
    if code = 0 && answered && m.coreEnabled c then m.onCore c fun k => { k with pwr := { k.pwr with stopped := true, park := none } } else m

/-- Cores of a field that have refused, late refusals of stopped cores with a wake event included (R372). -/
def Mach.refusers (m : Mach) (f : Nat) : List (Nat × Nat) :=
  (m.field f).answers.filterMap fun e =>
    if e.2 != 0 then some e
    else if (m.core e.1).pwr.stopped && (m.core e.1).wakeEvent e.1 then some (e.1, 1) else none

/-- FIELD_SLEEP_COMMIT (R370): every core has agreed. -/
def fieldSleepCommitAt (f : Nat) (m : Mach) : Mach :=
  let x := m.field f
  m.when (x.sleep == .preparing && (m.refusers f).isEmpty &&
      (fieldCores f).all fun c => !m.coreEnabled c || aget x.answers c == some 0) fun m =>
    let m := m.mapCores fun c k =>
      if fieldOf c = f then
        let on := k.pwr.bankctl == .on
        { k with pwr := { k.pwr with sr := if on then .replicate 2 true else k.pwr.sr, bankctl := if on then .ret else k.pwr.bankctl,
                                     fsleep := true } }
      else k
    let m := m.onField f fun x => { x with sleep := .committed, tiers := x.tiers.map fun t => if t = .on then .ret else t, answers := [] }
    (m.fieldHold f 0).fcEvent f 2

/-- A stopped core at the abort: its PARKED slots wake, at once where the clocks run (R372). -/
def Core.abortSleep (k : Core) (cc : Nat) : Core :=
  let run := k.clocksRun cc
  let one (k : Core) (s : Nat) : Core :=
    let v := k.slot s
    if v.ctl.st != .parked then k
    else if run then k.setSlot s (wakeSlot v (k.wakeNow s) true cc)
    else k.setSlot s { v with run := { v.run with wakeAt := some (cc + k.wakeTime - 1), wakeSrc := k.wakeNow s, aborted := true } }
  let k := { k with pwr := { k.pwr with stopped := false } }
  [0, 1, 2, 3].foldl one k

/-- FIELD_SLEEP_ABORT (R372): on any refusal. -/
def fieldSleepAbortAt (f : Nat) (m : Mach) : Mach :=
  let bad := m.refusers f
  m.when ((m.field f).sleep == .preparing && !bad.isEmpty) fun m =>
    let m := m.fieldHold f 0
    let m := m.mapCores fun c k => if fieldOf c = f && k.pwr.stopped then k.abortSleep m.cc else k
    let m := (m.onField f fun x => { x with sleep := .awake, answers := [], abortAt := some m.cc }).fcEvent f 2
    bad.foldl (fun m e => (m.onCore e.1 fun k => { k with pwr := { k.pwr with cntRefuse := inc64 k.pwr.cntRefuse } }).logRec 0x0E f 0xFFFF
      (toBytes 1 0x10 ++ toBytes 1 e.2 ++ toBytes 4 e.1)) m

/-- FIELD_WAKE (R373): a wake event at a core of the field, or a request to one of its under-banks. -/
def fieldWakeAt (f : Nat) (m : Mach) : Mach :=
  m.when ((m.field f).sleep == .committed && (m.coresOf f).any fun e => e.2.wakeEvent e.1 || e.2.ubWaits e.1) fun m => m.wakeField f

/-! ## The budget (R375 to R378) -/

/-- The throttle levels of a field's cores, added up. -/
def Mach.levels (m : Mach) (f : Nat) : Nat := ((m.coresOf f).map fun e => e.2.pwr.level).sum

/-- The base budget of a field, 5 % less while a thermal sensor of it is invalid (R376, R410). -/
def Mach.baseBudget (m : Mach) (f fixed : Nat) : Nat :=
  let b := (m.power.effective - fixed) * m.countState (fieldCores f) 0 / 122880
  if (m.field f).cut then b * 95 / 100 else b

/-- What a field lends: the difference, while it draws less than 90 % of its budget; from then on its loan, until it draws 95 % of
its base budget. -/
def lends (base draw before : Nat) : Nat :=
  if draw * 100 < base * 90 then base - draw else if 0 < before && draw * 100 < base * 95 then min before base else 0

/-- BUDGET_COMPUTE (R376): every 1 ms. -/
def budgetComputeAt (fixed draw prot : Nat) (fieldDraw : List Nat) (m : Mach) : Mach :=
  m.when (3 ≤ m.boot.stage && (m.power.budgetAt == 0 || m.power.budgetAt + usCc 1000 ≤ m.cc)) fun m =>
    let fs := List.range 56
    let total := (fs.map m.levels).sum
    let base := fs.map fun f => m.baseBudget f fixed
    let lent := fs.map fun f => if total = 0 then 0 else lends (lget base f) (lget fieldDraw f) (m.field f).lent
    let pool := lent.sum
    let set (f : Nat) (x : FieldCtl) : FieldCtl :=
      let loan := if total = 0 then 0 else pool * m.levels f / total
      { x with draw := lget fieldDraw f, lent := lget lent f, loan := loan, budget := lget base f - lget lent f + loan }
    let fields : Vector FieldCtl 56 := Vector.ofFn fun i => set i.val (m.field i.val)
    let reached := m.power.effective * 99 ≤ draw * 100
    let m := if reached && !m.power.capReached then m.powerEvent 1 else m
    { m with fields := fields,
             power := { m.power with fixed := fixed, prot := prot, draw := draw, capReached := reached, budgetAt := m.cc } }

/-- Whether a core is protected (R377): it holds a slot of a context with DCLASS 1 or 2. -/
def Mach.protectedCore (m : Mach) (k : Core) : Bool :=
  k.cids.any fun cid => match m.ctx cid with
    | some x => x.dead.dclass == 1 || x.dead.dclass == 2
    | none => false

/-- The levels of chosen cores of a field changed. -/
def Mach.setLevels (m : Mach) (f : Nat) (pick : Core → Bool) (g : Nat → Nat) : Mach :=
  m.mapCores fun c k => if fieldOf c = f && pick k then { k with pwr := { k.pwr with level := g k.pwr.level } } else k

/-- The levels of a field's cores, moved by at most one step towards the field's budget (R377). -/
def Mach.throttle (m : Mach) (f draw : Nat) : Mach :=
    let x := m.field f
    let ks := (m.coresOf f).map fun e => e.2
    let prot (k : Core) : Bool := m.protectedCore k
    let free (k : Core) : Bool := !m.protectedCore k && k.pwr.logic != .off
    if x.budget < draw then
      let allTop := ks.all fun k => !free k || 14 ≤ k.pwr.level
      let started := !x.throttling
      let m := if allTop then m.setLevels f prot fun l => min 14 (l + 1)
        else (m.setLevels f free fun l => min 14 (l + 1)).setLevels f prot fun l => l - 1
      let m := m.onField f fun x => { x with throttling := true, draw := draw }
      let m := if started then m.powerEvent 2 f else m
      if allTop && ks.any prot && !m.power.protThrottled then
        (({ m with power := { m.power with protThrottled := true } }).powerEvent 3 f).powerRec 3 f
      else m
    else
      let high := ks.any fun k => prot k && 0 < k.pwr.level
      let m := if high then m.setLevels f prot fun l => l - 1 else m.setLevels f (fun k => !prot k) fun l => l - 1
      let any := (m.coresOf f).any fun e => 0 < e.2.pwr.level
      let anyProt := m.cores.any fun e => prot e.2 && 0 < e.2.pwr.level
      ({ m with power := { m.power with protThrottled := m.power.protThrottled && anyProt } }).onField f fun x =>
        { x with throttling := any, draw := draw }

/-- THROTTLE_ADJUST (R377); a change of the levels is a power change for the trace. -/
def throttleAdjustAt (f draw : Nat) (m : Mach) : Mach :=
  m.when ((m.field f).ring == .on && !(m.field f).fcHung && 0 < m.power.budgetAt) fun m =>
    let m' := m.throttle f draw
    if m'.levels f = m.levels f then m' else m'.fcEvent f 1

/-! ## The input monitors (R379) -/

def Mach.setVin (m : Mach) (mv : Nat) : Mach := { m with power := { m.power with vin := mv } }

/-- INPUT_LOW (R379): 38 V to 40 V for 1 ms. -/
def inputLowAt (mv : Nat) (m : Mach) : Mach :=
  m.when (38000 ≤ mv && mv ≤ 40000 && 0 < m.boot.stage && !m.power.inputLow) fun m =>
    let m := (m.setVin mv).powerEvent 4
    (({ m with power := { m.power with inputLow := true, inputHigh := false } }).powerRec 4).logCount 0x88

/-- INPUT_UNDERVOLTAGE (R379, R385): below 38 V for 50 µs, in every stage. -/
def inputUndervoltageAt (mv : Nat) (m : Mach) : Mach :=
  m.when (mv < 38000 && 0 < m.boot.stage) fun m =>
    let m := ((m.setVin mv).powerRec 0).logCount 0x88
    ({ m with power := { m.power with inputLow := false, inputHigh := false } }).powerDown m.boot.hotOff

/-- INPUT_HIGH (R379): above 60 V for 1 ms. -/
def inputHighAt (mv : Nat) (m : Mach) : Mach :=
  m.when (60000 < mv && mv ≤ 63000 && 0 < m.boot.stage && !m.power.inputHigh) fun m =>
    let m := (m.setVin mv).powerEvent 5
    (({ m with power := { m.power with inputHigh := true, inputLow := false } }).powerRec 5).logCount 0x88

/-- INPUT_OVERVOLTAGE (R379): above 63 V for 10 µs; the device is off until its input power has been lost (log 33). -/
def inputOvervoltageAt (mv : Nat) (m : Mach) : Mach :=
  m.when (63000 < mv && 0 < m.boot.stage) fun m =>
    let m := ((m.setVin mv).powerRec 6).logCount 0x88
    (({ m with power := { m.power with inputLow := false, inputHigh := false } }).powerDown true)

/-- INPUT_RESTORED (R379): above 40 V for 10 ms, and not above 60 V. -/
def inputRestoredAt (mv : Nat) (m : Mach) : Mach :=
  m.when (40000 < mv && mv ≤ 60000 && 0 < m.boot.stage) fun m =>
    let m := m.setVin mv
    { m with power := { m.power with inputLow := false, inputHigh := false } }

/-! ## The reference (R354, R449) -/

/-- Step 1 of a whole-device recovery at the slots, or the end of all context work: every RUNNING, PARKED or QUIESCED slot and plane
halts with CAUSE 0x06 (R354, R404). -/
def Mach.stopWork (m : Mach) : Mach :=
  let live (k : Core) : List Nat := (List.range 4).filter fun s =>
    [SlotSt.running, SlotSt.parked, SlotSt.quiesced].contains (k.slot s).ctl.st
  (m.cores.map fun e => (live e.2).map fun s => (e.1, s)).flatten.foldl (fun m x => m.onSlot x.1 x.2 fun v => forceHalt v 6) m

/-- Commands in progress complete with HW_FAULT (R404). -/
def Mach.failCmds (m : Mach) : Mach :=
  { m with host := { m.host with cmds := m.host.cmds.map fun y =>
      if y.result.isNone then { y with started := true, waiting := false, result := some (cplOf y 0x0601 0) } else y } }

/-- REFERENCE_LOSS (R354, R449): absent for 1 µs. -/
def referenceLossAt (m : Mach) : Mach :=
  m.when m.clk.refPresent fun m =>
    let m := { m with clk := { m.clk with refPresent := false } }
    if m.clk.locked && 0 < m.boot.stage then ({ m with clk := { m.clk with holdover := some m.cc } }).powerEvent 7 else m

/-- HOLDOVER_TIMEOUT (R354): the reference has not returned within 10 s. -/
def holdoverTimeoutAt (m : Mach) : Mach :=
  m.when ((match m.clk.holdover with
      | some t => t + tenSeconds ≤ m.cc
      | none => false) && !m.clk.holdoverOut) fun m =>
    ({ m with clk := { m.clk with holdoverOut := true } }).faultPins.stopWork.failCmds

/-- REFERENCE_RETURN (R354): after the 10 s a whole-device recovery follows. -/
def referenceReturnAt (m : Mach) : Mach :=
  m.when (!m.clk.refPresent) fun m =>
    let out := m.clk.holdoverOut
    let m := { m with clk := { m.clk with refPresent := true, holdover := none, holdoverOut := false } }
    if out && 9 ≤ m.boot.stage then m.needRecovery else m

/-- START_REFERENCE_ABSENT (R382): stage 1 waits for the reference; from 10 s on FAULT_N is asserted. -/
def startReferenceAbsentAt (m : Mach) : Mach :=
  m.when (m.boot.stage == 1 && !m.clk.refPresent && m.boot.since + tenSeconds ≤ m.cc) fun m =>
    m.pins fun b => { b with fault := true, refFault := !b.fault || b.refFault }

/-! ## Thermal limits (R450 to R452) -/

/-- The inlet limit at an inlet temperature in tenths of °C: 36 kW less 3 kW per °C above 32 °C. -/
def inletLimit (inlet : Int) : Option Nat := if 320 < inlet then some (36000 - 300 * (inlet - 320).toNat) else none

/-- The lower of two limits. -/
def lower (a b : Option Nat) : Option Nat :=
  match a, b with
  | some x, some y => some (min x y)
  | none, y => y
  | x, none => x

/-- The limits of R451 after readings that have stood for their times: a limit keeps its lowest value until its reading lifts it. -/
def Power.limits (p : Power) (inlet outlet : Int) (flow : Nat) (logic tier : Int) : Power :=
  let hot := 95 ≤ logic || 90 ≤ tier
  let p := { p with inlet := inlet, outlet := outlet, flow := flow, logicT := logic, tierT := tier }
  let p := { p with inletLim := if inlet ≤ 270 then none else lower p.inletLim (if inlet ≤ 350 then inletLimit inlet else inletLimit 350),
                    hotInlet := if 350 < inlet then true else if inlet ≤ 300 then false else p.hotInlet,
                    flowLim := if flow < 500 then some 18000 else if 600 ≤ flow then none else p.flowLim }
  let hotLim := if hot then some (p.effective - 1000) else if logic ≤ 90 && tier ≤ 85 then none else p.hotLim
  { p with hotLim := hotLim, therm := if 100 ≤ logic || 95 ≤ tier then true else if hotLim.isNone then false else p.therm }

/-- Whether R451 asserts THERM_N: each asserting condition, until its limit lifts. -/
def Power.thermNow (p : Power) : Bool := p.hotInlet || p.flowLim.isSome || p.therm

/-- Limits put in force, with THERM_N; each change of limit is recorded (R451). -/
def Mach.setLimits (m : Mach) (p : Power) : Mach :=
  let moved := p.inletLim != m.power.inletLim || p.hotLim != m.power.hotLim || p.flowLim != m.power.flowLim || p.hotInlet != m.power.hotInlet
  let m := if moved then m.logRec 0x09 0xFFFF 0xFFFF (toBytes 1 5 ++ toBytes 4 p.effective) else m
  ({ m with power := p }).pins fun b => { b with therm := p.thermNow }

/-- THERMAL_LIMIT (R451). -/
def thermalLimitAt (inlet outlet : Int) (flow : Nat) (logic tier : Int) (m : Mach) : Mach :=
  m.when (0 < m.boot.stage && !m.boot.off) fun m => m.setLimits (m.power.limits inlet outlet flow logic tier)

/-- THERMAL_SHUTDOWN (R452): 105 °C at a logic sensor or 100 °C at a tier for 100 ms. -/
def thermalShutdownAt (logic tier : Int) (m : Mach) : Mach :=
  m.when ((105 ≤ logic || 100 ≤ tier) && 0 < m.boot.stage && !m.boot.off) fun m =>
    let m := (m.logRec 0x09 0xFFFF 0xFFFF (toBytes 1 6)).logCount 0x84
    let m := ({ m with power := { m.power with logicT := logic, tierT := tier } }).powerDown true
    m.pins fun b => { b with therm := true, hotOff := true }

/-- THERMAL_RESTART (R452): every sensor below 85 °C and the coolant within R450 for 60 s; the start is not counted. -/
def thermalRestartAt (hottest inlet : Int) (flow : Nat) (m : Mach) : Mach :=
  m.when (m.boot.hotOff && hottest < 85 && inlet ≤ 320 && 600 ≤ flow) fun m =>
    ({ m with boot := { m.boot with off := false, hotOff := false, stage := 1, since := m.cc } }).setLimits
      (m.power.limits inlet m.power.outlet flow hottest hottest)

def execFieldSleepStart (f : FieldIx) (s : State) : Host.Outcome State Fault Refusal := upd (fieldSleepStartAt f) s
def execPrepare (c : CoreIx) (answered : Bool) (s : State) : Host.Outcome State Fault Refusal := upd (prepareAt c answered) s
def execFieldSleepCommit (f : FieldIx) (s : State) : Host.Outcome State Fault Refusal := upd (fieldSleepCommitAt f) s
def execFieldSleepAbort (f : FieldIx) (s : State) : Host.Outcome State Fault Refusal := upd (fieldSleepAbortAt f) s
def execFieldWake (f : FieldIx) (s : State) : Host.Outcome State Fault Refusal := upd (fieldWakeAt f) s
def execBudgetCompute (fixedW drawW protectedW : Nat) (fieldDraw : List Nat) (s : State) : Host.Outcome State Fault Refusal :=
  upd (budgetComputeAt fixedW drawW protectedW fieldDraw) s
def execThrottleAdjust (f : FieldIx) (drawW : Nat) (s : State) : Host.Outcome State Fault Refusal := upd (throttleAdjustAt f drawW) s
def execInputLow (mv : Nat) (s : State) : Host.Outcome State Fault Refusal := upd (inputLowAt mv) s
def execInputUndervoltage (mv : Nat) (s : State) : Host.Outcome State Fault Refusal := upd (inputUndervoltageAt mv) s
def execInputHigh (mv : Nat) (s : State) : Host.Outcome State Fault Refusal := upd (inputHighAt mv) s
def execInputOvervoltage (mv : Nat) (s : State) : Host.Outcome State Fault Refusal := upd (inputOvervoltageAt mv) s
def execInputRestored (mv : Nat) (s : State) : Host.Outcome State Fault Refusal := upd (inputRestoredAt mv) s
def execReferenceLoss (s : State) : Host.Outcome State Fault Refusal := upd referenceLossAt s
def execHoldoverTimeout (s : State) : Host.Outcome State Fault Refusal := upd holdoverTimeoutAt s
def execReferenceReturn (s : State) : Host.Outcome State Fault Refusal := upd referenceReturnAt s
def execStartReferenceAbsent (s : State) : Host.Outcome State Fault Refusal := upd startReferenceAbsentAt s
def execThermalLimit (inlet outlet : Int) (flow : Nat) (logic tier : Int) (s : State) : Host.Outcome State Fault Refusal :=
  upd (thermalLimitAt inlet outlet flow logic tier) s
def execThermalShutdown (logic tier : Int) (s : State) : Host.Outcome State Fault Refusal := upd (thermalShutdownAt logic tier) s
def execThermalRestart (hottest inlet : Int) (flow : Nat) (s : State) : Host.Outcome State Fault Refusal :=
  upd (thermalRestartAt hottest inlet flow) s

end Sys2Proof.Machine
end

