-- ==== Sys2Proof/Machine/Repair.lean ====
section
/-! DEFINITION. Fencing, relabelling, substitution and the loss of a core: SUBSTITUTION, SUBST_ENTRY_INVALIDATE, LOST_CORE (R34, R35,
R413 to R419, R459); and what a step does on an empty queue. -/

namespace Sys2Proof.Machine

open Sys2Proof

/-! ## The choice of a bench core (R415, R459) -/

/-- The bench core that replaces a core; anchor cores only where no work moves. -/
def Mach.chooseBench (m : Mach) (c : Nat) (anchors : Bool) : Option Nat :=
  let ok (b : Nat) : Bool := m.coreBench b && (m.fpCore b).mem == 0 && (m.fpCore b).routerOk && (anchors || !isAnchor b)
  pickBest (closer c) (allCores.filter ok)

/-! ## Fences (R413) -/

/-- A fence in the life log (R413): what is fenced, 0 core or 2 engine, its number, and the cause. -/
def Mach.fenceRec (m : Mach) (kind unit_ reason field : Nat) : Mach :=
  m.logRec 0x03 field 0xFFFF (toBytes 1 kind ++ toBytes 4 unit_ ++ toBytes 1 reason)

/-- Contexts with a slot entry at a core index: the work on it. -/
def Mach.workAt (m : Mach) (idx : Nat) : List Nat := (m.ctxs.filter fun e => e.2.slots.any fun s => s.core == idx).map (·.1)

/-- The core index whose work a physical core runs (R35). -/
def Mach.indexOf (m : Mach) (c : Nat) : Nat :=
  match m.wafer.subst.toList.find? fun e => e.valid && e.stand == c with
  | some e => e.orig
  | none => c

/-- Fence a core, and enable a bench core in its place by relabelling where it was enabled and one is there (R393, R417, R419, R459). A
lost router is part of a lost memory path (R39, R414). -/
def Mach.fenceCore (m : Mach) (c reason : Nat) (pathLost : Bool) (routerLost : Bool := false) : Mach :=
  let e := m.fpCore c
  let bench := if e.state = 0 then m.chooseBench c true else none
  let keep := !pathLost && m.ubUsed (m.indexOf c)
  let m := m.fenceRec 0 c reason (fieldOf c)
  let m := m.onCore c fun k => k.safe keep
  let m := m.setFp c
    { e with state := 2, alt := c, reason := BitVec.ofNat 4 reason, mem := if pathLost then 3 else e.mem,
             routerOk := e.routerOk && !routerLost }
  match bench with
  | some b => m.setFp b { m.fpCore b with state := 0, alt := b }
  | none => m

/-! ## Substitution (R416) -/

/-- Every flit of a router changed. -/
def Router.mapFlits (r : Router) (g : Flit → Flit) : Router :=
  { r with bufs := amap r.bufs fun _ l => l.map g, lo := amap r.lo fun _ l => l.map g, urgQ := r.urgQ.map g,
           outs := amap r.outs fun _ o => { o with replay := o.replay.map g } }

/-- What names physical core c as a sender names core b instead: flits on their way, multicasts being acknowledged, messages being
gathered, fabric requests, sentry packets and mismatches. -/
def Mach.resource (m : Mach) (c b : Nat) : Mach :=
  let sw (x : Nat) : Nat := if x = c then b else x
  let fl (f : Flit) : Flit := { f with src := sw f.src, ret := f.ret.map sw }
  let core (k : Core) : Core :=
    let r := k.router.mapFlits fl
    { k with router := { r with aggs := r.aggs.map fun a => { a with src := sw a.src, up := a.up.map sw } },
             attach := k.attach.map (fun l => l.map fl), gathers := k.gathers.map (fun g => { g with src := sw g.src }),
             ubWait := k.ubWait.map (fun x => (fl x.1, x.2.map fl)),
             prep := k.prep.map (fun p => ({ p.1 with origin := sw p.1.origin, partner := sw p.1.partner }, p.2)),
             packets := k.packets.map (fun p => { p with origin := sw p.origin, partner := sw p.partner }) }
  let m := m.mapCores fun _ k => core k
  { m with fabric := { m.fabric with reqs := m.fabric.reqs.map fun q => { q with core := sw q.core } },
           mismatches := m.mismatches.map fun x => { x with pkt := { x.pkt with origin := sw x.pkt.origin, partner := sw x.pkt.partner } } }

/-- Whether a flit for core c or, as a multicast, for index idx is still on its way. -/
def Mach.inFlightTo (m : Mach) (c idx : Nat) : Bool :=
  let tgt (f : Flit) : Bool := !f.fw &&
    (if f.mc then mcCol f.target.toNat (coreX idx) && mcRow f.target.toNat (coreY idx) else waCore f.target.toNat == c)
  (m.cores.any fun e => (e.2.router.bufs.any fun b => b.2.any tgt) || (e.2.router.outs.any fun p => p.2.owed.any tgt) || e.2.router.urgQ.any tgt || e.2.attach.any fun l => l.any tgt) ||
  !(m.core c).ubWait.isEmpty || ((m.core c).router.lo.any fun e => e.1 != 2 && e.1 != 3 && !e.2.isEmpty)

/-- Ranges of a core's under-bank that windows and backstops cover (R416). -/
def Mach.ubCovered (m : Mach) (c idx : Nat) : List (Nat × Nat) :=
  ((m.ctxs.map fun e => (e.2.slots.filter fun s => s.core == idx).map fun s => s.ub).flatten) ++
  (m.core c).slots.toList.filterMap fun v => v.plane.map fun p => (p.bsBase, p.bsSize)

/-- The stand-in with the failed core's work: what step 4 copies, over what the stand-in's own parts keep. Cache lines go with it
(log 34). -/
def standIn (k old : Core) (cover : List (Nat × Nat)) (idx b cc : Nat) : Core :=
  let k := k.powerUp cc
  let inside (a : Nat) : Bool := cover.any fun r => r.1 ≤ a && a < r.1 + r.2
  let held := k.router.lo.filter fun e => e.1 == 2 || e.1 == 3
  let tgt (f : Flit) : Flit :=
    if f.mc then f else { f with target := BitVec.ofNat 60 (waOf (waSpace f.target.toNat) b (waOff f.target.toNat)) }
  let router := { old.router with lo := amap held fun _ l => l.map tgt, heldSince := k.router.heldSince,
                                  aggs := old.router.aggs ++ k.router.aggs.filter (fun a => a.up.isNone),
                                  mcSerial := max old.router.mcSerial k.router.mcSerial, groups := k.router.groups }
  let pwr := { k.pwr with bankctl := .on, sr := .replicate 2 false, iso := 0, lending := false, fsleep := false, fsWake := false,
                          level := old.pwr.level, stall := false, waitSince := none, ramp := none, stopped := false, busyAt := cc,
                          flitWake := none, park := none, lastReq := .replicate 2 cc, cntDrop := old.pwr.cntDrop,
                          cntBounce := old.pwr.cntBounce, cntEdgelost := old.pwr.cntEdgelost, cntRefuse := old.pwr.cntRefuse }
  { k with lindex := some idx, ub := (old.ub.filter (fun x => !inside x.1)) ++ k.ub.filter (fun x => inside x.1),
           poisonU := (old.poisonU.filter (fun w => !inside (w * 32))) ++ k.poisonU.filter (fun w => inside (w * 32)),
           soft := old.soft.filter (fun e => !inside (e.1 * 32)),
           router := router, pwr := pwr, care := old.care, gathers := old.gathers, attach := old.attach, packets := old.packets,
           suspect := none, testRegs := old.testRegs, lowSlack := 0, lastSlack := none, lastPass := old.lastPass,
           cycles := old.cycles, skipped := old.skipped, idle := old.idle, lastIssue := none, seq := {},
           mem := { k.mem with eccCorr := old.mem.eccCorr, eccUncorr := old.mem.eccUncorr } }

/-- Quiesce every slot and plane of a core that is not quiesced yet. -/
def Core.quiesceAll (k : Core) : Core := [0, 1, 2, 3].foldl (fun k s => k.onSlot s quiesceSlot) k

/-- The slots and planes that quiesceAll quiesces. -/
def Core.liveSlots (k : Core) : List Nat := [0, 1, 2, 3].filter fun s => (k.slot s).ctl.st != .quiesced && (k.slot s).ctl.st != .empty

/-- The entry of the table for a core index: the one it has, else the first free one. -/
def Mach.substSlot (m : Mach) (idx : Nat) : Option Nat :=
  match m.wafer.subst.toList.findIdx? fun e => (e.valid || e.holding) && e.orig == idx with
  | some i => some i
  | none => m.wafer.subst.toList.findIdx? fun e => !e.valid && !e.holding

def Mach.setSubst (m : Mach) (i : Nat) (e : Subst) : Mach := { m with wafer := { m.wafer with subst := vset m.wafer.subst i e } }

/-- Exclude what a pause overlaps from DL_MISSES: the step under way and the requests that wait (R411). -/
def Mach.excludeDl (m : Mach) (cids : List Nat) : Mach :=
  cids.foldl (fun m c => m.onCtx c fun x => { x with lastStep := 0, requests := x.requests.map fun _ => 0 }) m

/-- The contexts whose reservations the copy of a substitution suspends (R277): those that hold a slot or a window at either under-bank, and those whose footprint meets
the path of the copy, since their traffic may use its links (log 91). -/
def Mach.copyHits (m : Mach) (c b idx : Nat) : List Nat :=
  let path := m.pathOf c b
  let meets (x : Ctx) : Bool := (x.slots.any fun s => s.core == idx) || (match footprint x.slots x.groups with
    | some r => path.any (inRect r)
    | none => false)
  (m.ctxs.filter fun e => e.2.st != .created && meets e.2).map (·.1)

/-- Steps 4 to 6: the copy, the VALID entry, the slots resumed, the failed core in its safe state, the floor plan and the events. -/
def Mach.moveWork (m : Mach) (c idx b i reason : Nat) (live : List Nat) : Mach :=
  let cids := m.workAt idx
  let cover := m.ubCovered c idx
  let k := m.core c
  let m := m.setCore b (standIn k (m.core b) cover idx b m.cc)
  let left (r : Router) : Router :=
    { r with lo := r.lo.filter (fun e => e.1 != 2 && e.1 != 3), heldSince := [], aggs := r.aggs.filter (fun a => a.up.isSome) }
  let m := (m.onCore c fun k => { k with router := left k.router }).resource c b
  let m := m.onCore b fun k => live.foldl (resumeSlot m.cc) k
  let old := m.fpCore c
  let m := m.onCore c fun k => k.safe false
  let m := m.setSubst i { orig := idx, stand := b, valid := true }
  let m := m.setFp b { m.fpCore b with state := 0, alt := idx }
  let m :=
    if idx = c then m.setFp c { old with state := 3, alt := b, reason := BitVec.ofNat 4 reason }
    else (m.setFp c { old with state := 2, alt := c, reason := BitVec.ofNat 4 reason }).setFp idx { m.fpCore idx with alt := b }
  let us := Config.pauseUs 2 m.cc % 3001
  let m := m.fcEvent (fieldOf c) 4
  let hit := (cids ++ m.copyHits c b idx).eraseDups
  let m := (m.setRates.suspend hit us).excludeDl hit
  let m := (m.logRec 0x04 (fieldOf c) 0xFFFF (toBytes 1 0 ++ toBytes 4 c ++ toBytes 4 idx ++ toBytes 4 b ++ toBytes 4 us)).logCount 0x58
  cids.foldl (fun m cid => m.raiseAll ((m.ctx cid).toList.map (fun x => x.owner) ++ pfs) (m.event 7 cid idx 0 0 b)) m

/-- A substitution with an intact memory path: steps 1 to 3, and the rest once every flit on its way has landed. -/
def Mach.substitute (m : Mach) (c idx i b reason : Nat) : Mach :=
  let e := vget m.wafer.subst i
  let live := if e.holding then e.live else (m.core c).liveSlots
  let m := ((m.wakeField (fieldOf c)).wakeField (fieldOf b)).losePackets c fun _ => true
  let m := m.onCore c Core.quiesceAll
  if m.inFlightTo c idx then
    let e := if e.valid then e else { orig := idx, stand := c }
    m.setSubst i { e with holding := true, live := live, reason := reason }
  else m.moveWork c idx b i reason live

/-! ## Loss (R419) -/

/-- The answer to each request that had reached a lost core (R187). -/
def Core.refuseAll (k : Core) (c cc : Nat) : Core :=
  let all := (k.router.lo.filter fun e => e.1 < 6).map (·.2)
  let heads := (all.flatten ++ k.ubWait.map (·.1)).filter fun f => f.tail && f.op != 4 && f.op != 5
  let k := { k with ubWait := [], prep := [], router := { k.router with lo := k.router.lo.filter (fun e => 6 ≤ e.1), heldSince := [] } }
  k.respond 1 (heads.map fun f => errAnswer c f cc)

/-- The work of a core that is lost ends: its slots halt, its contexts' commands complete with LOST_CORE, the core is fenced. -/
def Mach.loseCore (m : Mach) (c reason : Nat) (pathLost : Bool) (routerLost : Bool := false) : Mach :=
  let idx := m.indexOf c
  let cids := m.workAt idx
  let m := (List.range 4).foldl (fun m s => m.forceHaltAt c s 6) m
  let end_ (y : Cmd) : Cmd :=
    if cids.contains y.cid && y.started && y.result.isNone && namesCtx y && y.opcode ≠ 0x0102 && y.opcode ≠ 0x0103 then
      { y with result := some (cplOf y 0x0603 0) } else y
  let m := { m with host := { m.host with cmds := m.host.cmds.map end_ } }
  let ctls := (m.core c).slots.map fun (v : Slot) => ({ ctl := v.ctl } : Slot)
  let m := m.onCore c fun k => k.refuseAll c m.cc
  let m := m.fenceCore c (if pathLost then 5 else reason) pathLost routerLost
  let m := m.onCore c fun k => { k with slots := ctls, lindex := if idx = c then none else some idx }
  let m := (m.logRec 0x04 (fieldOf c) 0xFFFF (toBytes 1 1 ++ toBytes 4 c ++ toBytes 4 idx)).logCount 0x5C
  cids.foldl (fun m cid => m.raiseAll ((m.ctx cid).toList.map (fun x => x.owner) ++ pfs) (m.event 7 cid idx 0 1 0)) m

/-- REPLACE_REQUIRED to the PFs and to the owners of every context with work on a substituted core (R419). -/
def Mach.tableFull (m : Mach) : Mach :=
  let cids := ((m.wafer.subst.toList.map fun e => m.workAt e.orig).flatten).eraseDups
  cids.foldl (fun m cid => m.raiseAll ((m.ctx cid).toList.map (fun x => x.owner) ++ pfs) (m.event 8 cid 0 0 0 0)) m

/-- Whether a failed core can only be lost: an anchor core, or no bench core for it. -/
def Mach.onlyLost (m : Mach) (c : Nat) : Bool := isAnchor c || (m.chooseBench c false).isNone

/-- Whether another substitution runs in a core's field (R418). -/
def Mach.fieldBusy (m : Mach) (c : Nat) : Bool :=
  m.wafer.subst.toList.any fun e => e.holding && fieldOf (m.runs e.orig) == fieldOf c && m.runs e.orig != c

/-- What firmware does with a core that has failed or is retired (R413, R416, R417, R419); where another substitution runs in its field, it waits (R418). -/
def Mach.failCore (m : Mach) (c reason : Nat) (pathLost : Bool) (routerLost : Bool := false) : Mach :=
  let idx := m.indexOf c
  if m.coreOut c then m
  else if m.coreBench c || (idx == c && (m.workAt idx).isEmpty) then m.fenceCore c (if pathLost then 5 else reason) pathLost routerLost
  else if pathLost || m.onlyLost c then m.loseCore c reason pathLost routerLost
  else match m.substSlot idx, m.chooseBench c false with
    | some i, some b =>
      if m.fieldBusy c then m.onField (fieldOf c) fun x => { x with owed := x.owed ++ [(c, reason)] } else m.substitute c idx i b reason
    | _, _ => (m.loseCore c reason false).tableFull

/-- Whether firmware may act on a core's field: the device is READY, and no other substitution runs in the field (R418, R443). -/
def Mach.mayRepair (m : Mach) (c : Nat) : Bool :=
  m.boot.stage == 9 && !m.boot.recovering && !(m.field (fieldOf c)).fcHung && !m.fieldBusy c

/-- A substitution under way goes on once every flit on its way has landed; where no bench core is left, the core is lost (R416, R418, R419). -/
def Mach.moveOn (m : Mach) (i : Nat) : Mach :=
  let e := vget m.wafer.subst i
  let c := m.runs e.orig
  if !e.holding || m.inFlightTo c e.orig then m
  else match m.chooseBench c false with
    | some b => m.moveWork c e.orig b i e.reason e.live
    | none => (m.setSubst i (if e.valid then { e with holding := false } else {})).loseCore c e.reason false

/-- The failures of a field that wait for its substitution (R418). -/
def Mach.payOwed (m : Mach) (f : Nat) : Mach :=
  match (m.field f).owed with
  | [] => m
  | (c, r) :: l => if m.mayRepair c then (m.onField f fun x => { x with owed := l }).failCore c r false else m

/-- What firmware goes on with in a cycle: substitutions under way, and the failures that wait for them. -/
def Mach.repairs (m : Mach) : Mach :=
  let m := if m.wafer.subst.toList.any fun e => e.holding then (List.range 64).foldl Mach.moveOn m else m
  (List.range 56).foldl Mach.payOwed m

/-- What a step does on an empty queue: the cycle ends, and firmware goes on. -/
def idle (m : Mach) : Mach := (tick m).repairs

/-- SUBSTITUTION (R416): firmware moves a failed core's work. -/
def substitutionAt (c reason : Nat) (m : Mach) : Mach := m.when (m.mayRepair c && 0 < reason && reason < 7) fun m => m.failCore c reason false

/-- LOST_CORE (R419): the memory path is lost, or no core can stand in. A bench core that loses its memory path is fenced (R40). -/
def lostCoreAt (c reason : Nat) (pathLost routerLost : Bool) (m : Mach) : Mach :=
  m.when (m.mayRepair c && 0 < reason && reason < 7 && (m.coreEnabled c || (m.coreBench c && (pathLost || routerLost))) &&
      (pathLost || routerLost || m.onlyLost c || (m.substSlot (m.indexOf c)).isNone))
    fun m => m.failCore c reason (pathLost || routerLost) routerLost

/-- The enabled cores inside the smallest rectangle round the routers of a core's field that do not work (R189; which routers block is the model's choice, log 86). -/
def Mach.holeCores (m : Mach) (c : Nat) : List Nat :=
  let dead := (fieldCores (fieldOf c)).filter fun x => !m.routerOk x
  let xs := dead.map coreX
  let ys := dead.map coreY
  let inside (x : Nat) : Bool :=
    xs.foldl min 384 ≤ coreX x && coreX x ≤ xs.foldl max 0 && ys.foldl min 336 ≤ coreY x && coreY x ≤ ys.foldl max 0
  (fieldCores (fieldOf c)).filter fun x => !dead.isEmpty && inside x && m.coreEnabled x

/-- DETOUR_UPDATE (R189): entries that firmware has proved free of cycles take effect once the affected paths are drained; with no such set the enabled cores inside
the hole are substituted, with a REASON that the spec does not state: a free value. -/
def detourUpdateAt (c : Nat) (entries : List (BitVec 32)) (proved : Bool) (m : Mach) : Mach :=
  if proved then
    { m with wafer := { m.wafer with newDetours := aset m.wafer.newDetours c ((entries.map detourOf).take 8) } }.installDetours
  else
    (m.holeCores c).foldl (fun m x => if m.mayRepair x then
      let d := m.draw
      d.2.failCore x (1 + d.1 % 6) false else m) m

/-- Whether a context still refers to a core index (R417). -/
def Mach.refersTo (m : Mach) (cid : Nat) (x : Ctx) (idx : Nat) : Bool :=
  (x.slots.any fun s => s.core == idx || (s.hasRemote && inRect s.remote idx) || (s.hasQ && inRect s.qrect idx)) ||
  (x.groups.any fun g => mcCol g.2.toNat (coreX idx) && mcRow g.2.toNat (coreY idx)) ||
  (m.fabric.jobs.any fun j => j.cid.toNat == cid && inRect (j.x0, j.y0, j.x1, j.y1) idx)

/-- SUBST_ENTRY_INVALIDATE (R417): no context refers to the original index any more. -/
def substInvalidateAt (i : Nat) (m : Mach) : Mach :=
  let e := vget m.wafer.subst i
  m.when (e.valid && !e.holding && !(m.ctxs.any fun x => m.refersTo x.1 x.2 e.orig)) fun m =>
    let m := m.setSubst i {}
    let m := m.onCore e.stand fun k => { k with lindex := none }
    (m.setFp e.orig { m.fpCore e.orig with state := 2, alt := e.orig }).setFp e.stand { m.fpCore e.stand with alt := e.stand }

def execDetourUpdate (c : CoreIx) (entries : List (BitVec 32)) (proved : Bool) (s : State) :
    Host.Outcome State Fault Refusal := upd (detourUpdateAt c entries proved) s
def execSubstitution (c : CoreIx) (reason : BitVec 4) (s : State) : Host.Outcome State Fault Refusal := upd (substitutionAt c reason.toNat) s
def execSubstEntryInvalidate (i : Fin 64) (s : State) : Host.Outcome State Fault Refusal := upd (substInvalidateAt i) s
def execLostCore (c : CoreIx) (reason : BitVec 4) (lost : CoreLoss) (s : State) : Host.Outcome State Fault Refusal :=
  upd (lostCoreAt c reason.toNat lost.path lost.router) s

end Sys2Proof.Machine
end

