-- ==== Sys2Proof/Machine/Slices.lean ====
section
/-! DEFINITION. Self-test and repair in service: ROTATION_SLICE, ANALOGUE_CHECK, BENCH_ENGINE_LOOPBACK, BENCH_ENGINE_STAND_IN (R409 to
R413, R420), SCRUB_CODEWORD, SCRUB_OVERDUE, BIT_LINE_REPAIR, ROW_REPAIR (R166 to R172), FC_HEARTBEAT, FC_HANG, FC_RESTART (R443,
R444). -/

namespace Sys2Proof.Machine

open Sys2Proof

/-! ## Repairs of sub-arrays (R166, R170 to R172) -/

/-- Spare columns and rows in use in a sub-array. -/
def Core.colsUsed (k : Core) (t sa : Nat) : Nat := (k.care.cols.filter fun x => x.1 == t && x.2.1 == sa).length
def Core.rowsUsed (k : Core) (t sa : Nat) : Nat := (k.care.rows.filter fun x => x.1 == t && x.2.1 == sa).length

/-- A bit-line repair (R171): a spare column of the sub-array takes the column's place. -/
def Mach.repairCol (m : Mach) (c t sa col : Nat) : Mach :=
  let m := m.onCore c fun k => { k with care := { k.care with cols := k.care.cols ++ [(t, sa, col)],
                                                              declared := k.care.declared.filter fun d => d != (t, sa, col) } }
  let m := m.onField (fieldOf c) fun x => { x with colRepairs := x.colRepairs + 1 }
  (m.logRec 0x05 (fieldOf c) 0xFFFF (toBytes 4 c ++ toBytes 1 t ++ toBytes 1 sa ++ toBytes 2 col)).logCount 0x60

/-- A row repair (R172): a spare row of the sub-array takes the row's place. -/
def Mach.repairRow (m : Mach) (c t sa row : Nat) : Mach :=
  let here (e : Nat × Nat × Nat × Nat) : Bool := e.1 == t && e.2.1 == sa && e.2.2.1 == row
  let m := m.onCore c fun k => { k with care := { k.care with rows := k.care.rows ++ [(t, sa, row)],
                                                              cells := k.care.cells.filter fun e => !here e } }
  let m := m.onField (fieldOf c) fun x => { x with rowRepairs := x.rowRepairs + 1 }
  (m.logRec 0x06 (fieldOf c) 0xFFFF (toBytes 4 c ++ toBytes 1 t ++ toBytes 1 sa ++ toBytes 2 row)).logCount 0x64

/-! ## Rotation slices (R409 to R413) -/

/-- Whether firmware runs in-service tests in a field (R406, R410, R443). -/
def Mach.mayTest (m : Mach) (f : Nat) : Bool :=
  m.boot.stage == 9 && !m.boot.recovering && m.boot.life != .retired && (m.field f).ring == .on && !(m.field f).fcHung

/-- Whether a core takes part in a substitution under way (R418). -/
def Mach.inMove (m : Mach) (c : Nat) : Bool := m.wafer.subst.toList.any fun e => e.holding && (e.orig == c || e.stand == c)

/-- A slice counted in its field, a failed one recorded (R412, R413). -/
def Mach.sliceDone (m : Mach) (f : Nat) (pass : Bool) (kind unit_ : Nat) : Mach :=
  let m := m.onField f fun x => { x with slicesRun := inc64 x.slicesRun, slicesFailed := inc64 x.slicesFailed (b2n !pass) }
  if pass then m else m.logRec 0x08 f 0xFFFF (toBytes 1 kind ++ toBytes 4 unit_)

/-- The slots and planes of a core quiesced for a pause and resumed (R411); the pause is counted, and excluded from DL_MISSES. -/
def Mach.pauseCore (m : Mach) (c : Nat) : Mach :=
  let live := [0, 1, 2, 3].filter fun s => ((m.core c).slot s).ctl.st != .quiesced
  let cids := (m.core c).cids
  let m := m.onCore c fun k => live.foldl (resumeSlot m.cc) (live.foldl (fun k s => k.onSlot s quiesceSlot) k)
  (m.suspend cids (Config.pauseUs 1 m.cc % 2001)).excludeDl cids

/-- A core-logic slice (R410, R411): the field is woken, the core drained, tested and returned; a failing core is moved with REASON 0x2. -/
def Mach.coreSlice (m : Mach) (c : Nat) (pass : Bool) : Mach :=
  let m := ((m.wakeField (fieldOf c)).fcEvent (fieldOf c) 3).sliceDone (fieldOf c) pass 0 c
  if pass then (m.pauseCore c).onCore c fun k => { k with lastPass := m.now } else m.failCore c 2 false

/-- A sub-array that fails a slice (R413): repaired where spares allow, else its core is moved. Which column or row is repaired is a free value (log 36). -/
def Mach.subFailed (m : Mach) (c t sa : Nat) : Mach :=
  if (m.core c).colsUsed t sa < 64 then
    let d := m.draw
    d.2.repairCol c t sa (d.1 % 9216)
  else if (m.core c).rowsUsed t sa < 128 then
    let d := m.draw
    d.2.repairRow c t sa (d.1 % 768)
  else m.failCore c 4 false

/-- ROTATION_SLICE (R410, R411, R413): a core-logic slice, or one of a sub-array: one that fails is repaired where spares allow. -/
def rotationSliceAt (u : SliceUnit) (pass : Bool) (m : Mach) : Mach :=
  match u with
  | .core c =>
    m.when (m.mayTest (fieldOf c) && (m.coreEnabled c || m.coreBench c) && !m.inMove c) fun m => m.coreSlice c pass
  | .sub c t sa =>
    m.when (m.mayTest (fieldOf c) && (m.coreEnabled c || m.coreBench c) && !m.inMove c) fun m =>
      let m := ((m.wakeField (fieldOf c)).fcEvent (fieldOf c) 3).sliceDone (fieldOf c) pass 1 (c.val + 2 ^ 17 * (t.val * 16 + sa.val))
      if pass then m.onCore c fun k => { k with care := { k.care with subPass := aset k.care.subPass (t.val * 16 + sa.val) m.now } }
      else m.subFailed c t sa

/-! ## Analogue checks and engines (R410, R413, R420) -/

/-- ANALOGUE_CHECK (R410). -/
def analogueCheckAt (f : Nat) (k : ACheck) (pass : Bool) (cores : List Nat) (m : Mach) : Mach :=
  m.when (m.mayTest f) fun m =>
    let m := m.sliceDone f pass 2 f
    if pass then m
    else match k with
      | .rootPll => referenceLossAt m
      | .regulator => ((cores.filter fun c => fieldOf c == f).mergeSort (· ≤ ·)).foldl (fun m c => m.failCore c 2 false) m
      | .thermalRef => m.onField f fun x => { x with sensorBad := true, cut := true }
      | .meshLoopback => if (m.eng f).fenced then m else m.engDown f

/-- Whether a field's engine is an idle bench engine that is not fenced. -/
def Mach.benchIdle (m : Mach) (f : Nat) : Bool := roleOf f == 5 && (m.eng f).standsFor.isNone && !(m.eng f).fenced

/-- BENCH_ENGINE_LOOPBACK (R410): a bench engine that fails is fenced. -/
def benchLoopbackAt (f : Nat) (pass : Bool) (m : Mach) : Mach :=
  m.when (m.mayTest f && m.benchIdle f) fun m =>
    let m := m.sliceDone f pass 3 f
    if pass then m else m.engDown f

/-- The bench field of a band. -/
def benchOf (band : Nat) : Option Nat := (List.range 56).find? fun f => roleOf f == 5 && bandOf f == band

/-- BENCH_ENGINE_STAND_IN (R420): the idle bench engine of a fenced engine's band comes on, trains and qualifies in its place on the lanes named, and
joins the port. One that does not qualify on 15 lanes is fenced (R397, R398). -/
def standInAt (f : Nat) (lanes : BitVec 16) (m : Mach) : Mach :=
  match benchOf (roleOf f) with
  | none => m
  | some b =>
    m.when (m.boot.stage == 9 && (m.eng f).fenced && roleOf f < 4 && m.benchIdle b && !(m.fabric.engs.toList.any fun g => g.standsFor == some f))
      fun m =>
        if 15 ≤ laneCount lanes then
          let g : LightEng := { st := .active, standsFor := some f, lanes := lanes, saved := true, probation := some (m.cc + probationCc (laneCount lanes)) }
          let m := (m.onEng b fun _ => g).onField b fun x => { x with light := .on }
          (m.setChange (rolePort f) (roleIndex f) true).planChanged
        else m.engDown b

/-! ## The patrol scrubber (R166 to R170) -/

/-- Codewords in a tier, and in a sub-array. -/
def tierWords : Nat := 393216
def subWords : Nat := 24576

/-- The under-bank offset of codeword w of line slot ls in a row (R166). -/
def cellOff (t sa row ls w : Nat) : Nat := t * 0xC00000 + ((row * 8 + ls) * 16 + sa) * 128 + w * 32

/-- The corrected value of the cell at a row and column: a data bit, or a check bit of the codeword. -/
def Core.cellBit (k : Core) (t sa row col : Nat) : Bool :=
  let data := ofBytes (memRead k.ub (cellOff t sa row (col / 1152) (col % 1152 / 288)) 32)
  let b := col % 288
  if b < 256 then bitOf data b else bitOf (Config.checkBits (BitVec.ofNat 256 data)).toNat (b - 256)

/-- Whether the corrected errors of a pass at one column declare a bit-line fault (R170): four or more, each read 0, and no row beyond the first of them in which the
pass has read a 1. -/
def Core.bitLineFault (k : Core) (t sa col : Nat) (es : List ScrubErr) : Bool :=
  4 ≤ (es.map fun e => e.row).eraseDups.length && (es.all fun e => !e.readOne) && !k.care.refuted.contains (t, sa, col)

/-- A codeword as the scrubber reads it, in row and column from the first on (R166, R170): its corrected bits are recorded as errors of the pass, and a 1 read at a column
where the pass has an error in an earlier row refutes a bit-line fault there. The cells hold the corrected values afterwards. -/
def Core.scrubRead (k : Core) (t sa row col0 w : Nat) : Core :=
  let bad : List Nat := match aget k.soft w with
    | some (sym, err) => ([0, 1, 2, 3, 4, 5, 6, 7].filter (bitOf err.toNat)).map fun j => col0 + 8 * sym + j
    | none => []
  let es : List ScrubErr := bad.map fun col => { tier := t, sub := sa, row := row, col := col, readOne := !k.cellBit t sa row col }
  let seen := ((k.care.errs.filter fun e => e.tier == t && e.sub == sa && col0 ≤ e.col && e.col < col0 + 288).map (·.col)).eraseDups
  let no := (seen.filter fun col => !bad.contains col && k.cellBit t sa row col).map fun col => (t, sa, col)
  { k with soft := adel k.soft w, mem := { k.mem with eccCorr := inc64 k.mem.eccCorr (b2n !bad.isEmpty) },
           care := { k.care with errs := k.care.errs ++ es, refuted := (k.care.refuted ++ no).eraseDups } }

/-- The end of a pass over a tier: bit-line faults are declared, and every other corrected error is a cell fault (R170, R172). -/
def Core.endPass (k : Core) (t cc : Nat) : Core :=
  let es := k.care.errs.filter fun e => e.tier == t
  let lines := (es.map fun e => (e.sub, e.col)).eraseDups
  let bad := lines.filter fun l => k.bitLineFault t l.1 l.2 (es.filter fun e => e.sub == l.1 && e.col == l.2)
  let cells := (es.filter fun e => !bad.contains (e.sub, e.col)).map fun e => (t, e.sub, e.row, e.col)
  { k with care := { k.care with errs := k.care.errs.filter (fun e => e.tier != t), refuted := k.care.refuted.filter (fun e => e.1 != t), pos := vset k.care.pos t 0,
                                 passStart := vset k.care.passStart t cc, overdue := vset k.care.overdue t false,
                                 declared := (k.care.declared ++ bad.map fun l => (t, l.1, l.2)).eraseDups,
                                 cells := (k.care.cells ++ cells).eraseDups } }

/-- SCRUB_CODEWORD (R169, R170): the next codeword of a tier, in the order of the pass. -/
def scrubCodewordAt (c t : Nat) (found : ScrubFind) (m : Mach) : Mach :=
  m.when ((m.core c).pwr.bankctl == .on && !vget (m.core c).pwr.sr t && vget (m.field (fieldOf c)).tiers t == .on && m.tierServed c t) fun m =>
    let pos := vget (m.core c).care.pos t
    let sa := pos / subWords
    let row := pos % subWords / 32
    let off := cellOff t sa row (pos % 32 / 4) (pos % 4)
    let m := m.onCore c fun k => match found with
      | .clean => k
      | .corrected sym err => k.soften (off / 32) sym err
      | .uncorrectable => k.spoil (off / 32)
    let m :=
      if (m.core c).poisonU.contains (off / 32) then
        let idx := m.indexOf c
        let m := m.onCore c fun k => { k with mem := { k.mem with eccUncorr := inc64 k.mem.eccUncorr } }
        let hit : AMap Ctx := m.ctxs.filter fun (e : Nat × Ctx) => e.2.slots.any fun s => s.core == idx && s.ub.1 < off + 32 && off < s.ub.1 + s.ub.2
        hit.foldl (fun (m : Mach) (e : Nat × Ctx) => m.raiseOwner e.1 (m.event 4 e.1 idx 0 0 (waOf 1 idx off))) m
      else m.onCore c fun k => k.scrubRead t sa row (pos % 32 / 4 * 1152 + pos % 4 * 288) (off / 32)
    m.onCore c fun k =>
      if pos + 1 = tierWords then k.endPass t m.cc else { k with care := { k.care with pos := vset k.care.pos t (pos + 1) } }

/-- SCRUB_OVERDUE (R169): a pass pending for 48 h; firmware brings the tier out of RET until the pass completes, and again where a field
sleep has put it back. -/
def scrubOverdueAt (c t : Nat) (m : Mach) : Mach :=
  m.when (m.boot.stage == 9 && (m.core c).pwr.bankctl != .off &&
      (!vget (m.core c).care.overdue t || vget (m.core c).pwr.sr t || (m.core c).pwr.bankctl == .ret) &&
      vget (m.core c).care.passStart t + 48 * 3600 * 1200000000 ≤ m.cc) fun m =>
    let m := (m.wakeField (fieldOf c)).onCore c fun k =>
      { k with care := { k.care with overdue := vset k.care.overdue t true },
               pwr := { k.pwr with sr := vset k.pwr.sr t false, bankctl := .on, lastReq := vset k.pwr.lastReq t (m.cc + 600) } }
    m

/-- BIT_LINE_REPAIR (R171): of a declared fault; with no spare column the core is substituted with REASON 0x4. -/
def bitLineRepairAt (c t sa col : Nat) (m : Mach) : Mach :=
  m.when (m.mayTest (fieldOf c) && (m.core c).care.declared.contains (t, sa, col)) fun m =>
    if (m.core c).colsUsed t sa < 64 then m.repairCol c t sa col else m.failCore c 4 false

/-- ROW_REPAIR (R172): a row with more than two distinct cell faults; with no spare row the margin is reported in the life log. -/
def rowRepairAt (c t sa row : Nat) (m : Mach) : Mach :=
  let n := ((m.core c).care.cells.filter fun e => e.1 == t && e.2.1 == sa && e.2.2.1 == row).length
  m.when (m.mayTest (fieldOf c) && 2 < n) fun m =>
    if (m.core c).rowsUsed t sa < 128 then m.repairRow c t sa row
    else m.logRec 0x09 (fieldOf c) 0xFFFF (toBytes 1 4 ++ toBytes 4 c ++ toBytes 1 t ++ toBytes 1 sa ++ toBytes 2 row)

/-! ## Field controllers (R443, R444) -/

/-- FC_HEARTBEAT (R443): the WC takes a field controller's heartbeat. -/
def fcHeartbeatAt (f : Nat) (m : Mach) : Mach :=
  m.when ((m.field f).ring == .on && !(m.field f).fcHung) fun m => (m.onField f fun x => { x with lastBeat := m.cc }).fcEvent f 5

/-- A day in cycles. -/
def dayCc : Nat := 24 * 3600 * 1200000000

/-- FC_HANG (R443): 5 ms with no heartbeat. -/
def fcHangAt (f : Nat) (m : Mach) : Mach :=
  m.when (m.boot.stage == 9 && (m.field f).ring == .on && !(m.field f).fcHung && (m.field f).lastBeat + usCc 5000 ≤ m.cc) fun m =>
    (m.onField f fun x => { x with fcHung := true, hangs := m.cc :: x.hangs.filter fun t => m.cc < t + dayCc }).logRec 0x0F f 0xFFFF (toBytes 1 1)

/-- FC_RESTART (R444): a third hang in 24 h, or no heartbeat within 50 ms, leads to a whole-device recovery. -/
def fcRestartAt (f : Nat) (resumed : Bool) (m : Mach) : Mach :=
  m.when (m.field f).fcHung fun m =>
    if resumed && (m.field f).hangs.length < 3 then
      (((m.onField f fun x => { x with fcHung := false, lastBeat := m.cc }).fcEvent f 5).logRec 0x0F f 0xFFFF (toBytes 1 2)).logCount 0x7C
    else m.needRecovery.logRec 0x0F f 0xFFFF (toBytes 1 3)

def execRotationSlice (u : SliceUnit) (pass : Bool) (s : State) : Host.Outcome State Fault Refusal := upd (rotationSliceAt u pass) s
def execAnalogueCheck (f : FieldIx) (k : ACheck) (pass : Bool) (cores : List CoreIx) (s : State) : Host.Outcome State Fault Refusal :=
  upd (analogueCheckAt f k pass (cores.map fun c => c.val)) s
def execBenchEngineLoopback (f : FieldIx) (pass : Bool) (s : State) : Host.Outcome State Fault Refusal := upd (benchLoopbackAt f pass) s
def execBenchEngineStandIn (f : FieldIx) (lanes : BitVec 16) (s : State) : Host.Outcome State Fault Refusal :=
  upd (standInAt f lanes) s
def execScrubCodeword (c : CoreIx) (t : TierIx) (found : ScrubFind) (s : State) : Host.Outcome State Fault Refusal :=
  upd (scrubCodewordAt c t found) s
def execScrubOverdue (c : CoreIx) (t : TierIx) (s : State) : Host.Outcome State Fault Refusal := upd (scrubOverdueAt c t) s
def execBitLineRepair (c : CoreIx) (t : TierIx) (sa : Fin 16) (col : Fin 9216) (s : State) : Host.Outcome State Fault Refusal :=
  upd (bitLineRepairAt c t sa col) s
def execRowRepair (c : CoreIx) (t : TierIx) (sa : Fin 16) (row : Fin 768) (s : State) : Host.Outcome State Fault Refusal :=
  upd (rowRepairAt c t sa row) s
def execFcHeartbeat (f : FieldIx) (s : State) : Host.Outcome State Fault Refusal := upd (fcHeartbeatAt f) s
def execFcHang (f : FieldIx) (s : State) : Host.Outcome State Fault Refusal := upd (fcHangAt f) s
def execFcRestart (f : FieldIx) (resumed : Bool) (s : State) : Host.Outcome State Fault Refusal := upd (fcRestartAt f resumed) s

end Sys2Proof.Machine
end

