-- ==== Sys2Proof/Machine/Start.lean ====
section
/-! DEFINITION. Start and recovery: POWER_GOOD, ROOT_PLL_LOCK, BOOT, KICKOFF_WAVE, START_BIST, DRAM_TRAINING, LINK_TRAINING,
LINK_QUALIFICATION, READY_STAGE, STAGE_TIMEOUT, START_FAILURE, START_RETRY, WHOLE_DEVICE_RECOVERY, WC_WATCHDOG_EXPIRY,
ST_HEARTBEAT_TICK, ST_TIME_UPDATE, INPUT_POWER_LOSS, LIGHT_SIGNAL_DETECT (R381 to R405, R445). -/

namespace Sys2Proof.Machine

open Sys2Proof

/-! ## Stages (R381) -/

/-- Whether the start runs: no failure waits, and nothing holds the WC. -/
def Boot.going (b : Boot) : Bool := b.failed.isNone && b.failedAt.isNone && !b.held && !b.noImage && !b.off

/-- The next stage, with the duration of the last in ms. -/
def Mach.toStage (m : Mach) (n : Nat) : Mach :=
  { m with boot := { m.boot with stage := n, since := m.cc, durs := aset m.boot.durs m.boot.stage ((m.cc - m.boot.since) / usCc 1000) } }

/-- A failure of the start that START_FAILURE records (R401). -/
def Mach.failStart (m : Mach) (reason : Nat) (field : Nat := 0xFFFF) : Mach :=
  { m with boot := { m.boot with failed := some reason, failField := field } }

/-- POWER_GOOD (R382): the input above 40 V for 100 ms. -/
def powerGoodAt (mv : Nat) (m : Mach) : Mach :=
  m.when (m.boot.stage == 0 && !m.boot.off && 40000 < mv && mv ≤ 63000) fun m => ((m.setVin mv).toStage 1)

/-- ROOT_PLL_LOCK (R382, R383): the root PLL locks, the WC runs its BIST, and the boot ROM brings the ports up. -/
def rootPllLockAt (bistOk : Bool) (m : Mach) : Mach :=
  m.when (m.boot.stage == 1 && m.boot.going && m.clk.refPresent) fun m =>
    let m := { m with clk := { m.clk with locked := true } }
    if bistOk then
      let m := { m with host := { m.host with host0 := .on, host1 := .on, mgmt := .on } }
      (m.pins fun b => { b with fault := b.fault && !b.refFault, refFault := false }).toStage 2
    else m.pins fun b => { b with held := true, fault := true }

/-! ## Images (R386 to R389) -/

/-- Whether an image as the slot holds it passes R387. -/
def Mach.imageOk (m : Mach) (i : Image) : Bool :=
  i.present && i.signed && i.step.toNat == siliconStep && m.boot.rollback.toNat ≤ i.rollback.toNat

/-- The REASON with which the boot ROM refuses the ACTIVE image (R387, R401), 0 where it does not. -/
def Mach.bootReason (m : Mach) (found : ImageFind) : Nat :=
  let i := m.activeImage
  match found with
  | .flashError => 0x0204
  | .badSignature => 0x0201
  | .good =>
    if !i.present || !i.signed then 0x0201
    else if i.step.toNat ≠ siliconStep then 0x0202
    else if i.rollback.toNat < m.boot.rollback.toNat then 0x0203
    else 0

/-- BOOT (R384, R387): the ACTIVE image is verified and loaded; a settings store that fails the checks of its header makes the start
cold. -/
def bootAt (found : ImageFind) (storeOk : Bool) (m : Mach) : Mach :=
  m.when (m.boot.stage == 2 && m.boot.going) fun m =>
    let r := m.bootReason found
    if r ≠ 0 then m.failStart r
    else
      let ok := m.boot.settingsOk && storeOk
      let m := { m with boot := { m.boot with running := b2n m.boot.activeB, loaded := m.activeImage, settingsOk := ok, cold := !ok, wave := 0, beatAt := m.cc } }
      m.toStage 3

/-! ## Kickoff and start BIST (R390 to R393) -/

/-- A core whose domains come up in a wave (R356, R390). -/
def Core.kick (k : Core) (cc : Nat) : Core :=
  { k with pwr := { k.pwr with logic := .on, gated := false, banks := .replicate 6 .on, bankctl := .on, iso := 0, sr := .replicate 2 false,
                               lastReq := .replicate 2 cc, busyAt := cc } }

/-- The domains of a field switched on, but for those of fenced cores and LIGHT. -/
def Mach.kickField (m : Mach) (f : Nat) : Mach :=
  let m := m.onField f fun x => { x with ring := .on, tiers := .replicate 2 .on, fcHung := false, lastBeat := m.cc, sleep := .awake }
  ((fieldCores f).filter fun c => !m.coreOut c).foldl (fun m c => m.onCore c fun k => k.kick m.cc) m

/-- KICKOFF_WAVE (R390, R391): wave k, 50 ms · k after the stage began; in minimal mode field 0 alone. -/
def kickoffWaveAt (k : Nat) (good : Bool) (m : Mach) : Mach :=
  m.when (m.boot.stage == 3 && m.boot.going && m.boot.wave == k && m.boot.since + usCc (50000 * k) ≤ m.cc) fun m =>
    if m.boot.minimal then (m.kickField 0).toStage 4
    else if !good then m.failStart 0x0301
    else
      let m := ((List.range 7).map fun j => j * 8 + k).foldl Mach.kickField m
      let m := { m with boot := { m.boot with wave := k + 1 } }
      if k = 7 then m.toStage 4 else m

/-- The slices that a start runs (R392, R406, R409, R412): one of every core, in a cold start one of every sub-array, in MANUFACTURE a deep BIST besides, and of each
field three analogue checks and a loopback; counted, and their passes noted. -/
def Mach.startSlices (m : Mach) (bad : List Nat) : Mach :=
  let tested (f : Nat) : Nat := m.countState (fieldCores f) 0 + m.countState (fieldCores f) 1
  let per := 1 + 32 * b2n m.boot.cold + 33 * b2n (m.boot.life == Life.manufacture)
  let fields : Vector FieldCtl 56 := Vector.ofFn fun i =>
    let x := m.field i.val
    let n := (bad.filter fun c => fieldOf c == i.val).length
    { x with slicesRun := inc64 x.slicesRun (tested i.val * per + 4), slicesFailed := inc64 x.slicesFailed n }
  let all := (List.range 32).map fun i => (i, m.now)
  let pass (c : Nat) (k : Core) : Core :=
    if m.coreOut c || bad.contains c then k
    else { k with lastPass := m.now, care := { k.care with subPass := if m.boot.cold || m.boot.life == Life.manufacture then all else k.care.subPass } }
  ({ m with fields := fields }).mapCores pass

/-- A sub-array that fails its slice of a cold start (R392, R413): repaired where spares allow, else its core is relabelled with
REASON 0x4. Which column or row is repaired is a free value (log 36). -/
def Mach.startSub (m : Mach) (x : Nat × Nat × Nat) : Mach :=
  let m := (m.logRec 0x08 (fieldOf x.1) 0xFFFF (toBytes 1 1 ++ toBytes 4 (x.1 + 2 ^ 17 * (x.2.1 * 16 + x.2.2)))).onField (fieldOf x.1) fun y =>
    { y with slicesFailed := inc64 y.slicesFailed }
  if (m.core x.1).colsUsed x.2.1 x.2.2 < 64 then m.draw.2.repairCol x.1 x.2.1 x.2.2 (m.draw.1 % 9216)
  else if (m.core x.1).rowsUsed x.2.1 x.2.2 < 128 then m.draw.2.repairRow x.1 x.2.1 x.2.2 (m.draw.1 % 768)
  else { m with boot := { m.boot with relabel := (m.boot.relabel ++ [x.1]).eraseDups.mergeSort (· ≤ ·), wear := x.1 :: m.boot.wear } }

/-- The thermal references and the loopbacks of a start (R392, R409, R410): a field whose reference fails uses its neighbours' sensors
with its budget cut, an engine whose loopback fails is fenced, and one fenced in service that passes resumes its role (R413). -/
def Mach.startChecks (m : Mach) (thermBad loopBad : List Nat) : Mach :=
  let failed (x : FieldCtl) : FieldCtl := { x with slicesFailed := inc64 x.slicesFailed }
  let m := thermBad.foldl (fun m f => (m.onField f fun x => failed { x with sensorBad := true, cut := true }).logRec 0x08 f 0xFFFF
    (toBytes 1 2 ++ toBytes 4 f)) m
  let m := loopBad.foldl (fun m e => (m.onField e failed).logRec 0x03 e 0xFFFF (toBytes 1 2 ++ toBytes 1 e)) m
  let engs : Vector LightEng 56 := Vector.ofFn fun i => { m.eng i.val with fenced := loopBad.contains i.val }
  { m with fabric := { m.fabric with engs := engs } }

/-- START_BIST (R392, R393). -/
def startBistAt (fcBad ringBad : List Nat) (pllOk : Bool) (coreBad : List Nat) (subBad : List (Nat × Nat × Nat)) (thermBad loopBad : List Nat)
    (m : Mach) : Mach :=
  m.when (m.boot.stage == 4 && m.boot.going) fun m =>
    if m.boot.minimal then m.toStage 10
    else match fcBad, ringBad with
      | f :: _, _ => m.failStart 0x0401 f
      | [], f :: _ => m.failStart 0x0402 f
      | [], [] =>
        if !pllOk then m.failStart 0x0403
        else
          let bad := (coreBad.eraseDups.filter fun c => !m.coreOut c).mergeSort (· ≤ ·)
          let m := bad.foldl (fun m c => m.logRec 0x08 (fieldOf c) 0xFFFF (toBytes 1 0 ++ toBytes 4 c)) (m.startSlices bad)
          let m := { m with boot := { m.boot with relabel := bad, wear := [] } }
          let subs := if m.boot.cold || m.boot.life == Life.manufacture then subBad.eraseDups.filter fun x => !m.coreOut x.1 else []
          ((subs.foldl Mach.startSub m).startChecks thermBad loopBad).toStage 5

/-! ## Training (R394 to R396) -/

/-- Whether a tier's entry of the settings store stands (R395): there is one, and the tier's temperature is within 15 °C of the one
recorded in it. The checks of its CRC, identity and age come as operands (log 3). -/
def Core.tierEntryOk (k : Core) (t : Nat) : Bool :=
  match vget k.care.saved t with
  | some x => absDiff x.toNat (vget k.care.temp t).toNat ≤ 15
  | none => false

/-- DRAM_TRAINING (R394): tiers trained in full lose their contents; a tier that fails is not served. -/
def dramTrainingAt (inFull failed : List (Nat × Nat)) (domainBad : List (Nat × Nat)) (m : Mach) : Mach :=
  m.when (m.boot.stage == 5 && m.boot.going) fun m =>
    match domainBad with
    | d :: _ => m.failStart 0x0501 d.1
    | [] =>
      let full (c t : Nat) : Bool := m.boot.cold || inFull.contains (c, t) || !(m.core c).tierEntryOk t
      let bad (c t : Nat) : Bool := full c t && failed.contains (c, t)
      let one (c : Nat) (k : Core) : Core :=
        if m.coreOut c then k
        else
          let k := [0, 1].foldl (fun k t => if full c t then k.wipe 1 (t * 0xC00000) 0xC00000 else k) k
          { k with care := { k.care with trained := Vector.ofFn fun i => !bad c i.val, fresh := Vector.ofFn fun i => full c i.val,
                                         passStart := .replicate 2 m.cc } }
      let more := ((failed.filter fun x => bad x.1 x.2 && !m.coreOut x.1).map fun x => x.1)
      let m := m.mapCores one
      ({ m with boot := { m.boot with relabel := (m.boot.relabel ++ more).eraseDups.mergeSort (· ≤ ·) } }).toStage 6

/-- An engine after stage 6 (R283, R396): trained, without a partner, fenced, or an idle bench engine; one that has a partner but does not train on 15 lanes goes down, which
the life log and its field's entry report. -/
def Mach.trainEng (m : Mach) (trained : List (Nat × BitVec 16)) (e : Nat) : Mach :=
  let g := m.eng e
  let found := trained.find? fun x => x.1 == e
  let lanes : BitVec 16 := (found.map (·.2)).getD 0
  let on (st : EngSt) (fenced : Bool) (l : BitVec 16) (d : Dom) : Mach :=
    (m.onEng e fun g => { g with st := st, fenced := fenced, lanes := l, saved := g.saved || lanes != 0 }).onField e fun x => { x with light := d }
  if g.fenced then on .down true 0 .off
  else if roleOf e == 5 || found.isNone then on .idle false 0 .ret
  else if laneCount lanes < 15 then m.engDown e
  else on .qualify false lanes .on

/-- LINK_TRAINING (R396): ends when every engine has trained, or after 1 s; the recorded coordinate is restored. -/
def linkTrainingAt (trained : List (Nat × BitVec 16)) (m : Mach) : Mach :=
  m.when (m.boot.stage == 6 && m.boot.going) fun m =>
    let m := (List.range 56).foldl (fun m e => m.trainEng trained e) m
    let m := match m.log.place with
      | some p => m.assign p.1 p.2
      | none => m
    m.toStage 7

/-- LINK_QUALIFICATION (R397): an engine that fails is fenced for this start. -/
def linkQualificationAt (outcome : List (Nat × Bool × BitVec 16)) (m : Mach) : Mach :=
  m.when (m.boot.stage == 7 && m.boot.going) fun m =>
    let one (m : Mach) (e : Nat) : Mach :=
      let g := m.eng e
      if g.st != .qualify then m
      else
        let r := (outcome.find? fun x => x.1 == e).map (·.2)
        match qualified g.lanes ((r.map (·.1)).getD false) ((r.map (·.2)).getD 0) with
        | some l => m.onEng e fun g => { g with st := .active, lanes := l }
        | none => m.engDown e
    ((List.range 56).foldl one m).toStage 8

/-! ## READY (R393, R400) -/

/-- The MEM state of a core by the tiers that training left (R39, R394). -/
def Core.memState (k : Core) : Nat :=
  match vget k.care.trained 0, vget k.care.trained 1 with
  | true, true => 0
  | true, false => 1
  | false, true => 2
  | false, false => 3

/-- The core entries once no entry of the substitution table is left (R417): a substituted core becomes fenced with its REASON kept, and
the ALT of its stand-in returns to its own index. -/
def Wafer.settle (w : Wafer) : Wafer :=
  { w with fp := amap w.fp fun c (e : FpCore) => { e with state := if e.state = 3 then 2 else e.state, alt := c } }

/-- The relabelling of a start (R393, R413, R459): the failed cores become fenced, with REASON 0x4 for one whose sub-array no spare could
repair, and for each that was enabled, in ascending order, a bench core becomes enabled. The REASON of a core whose tier failed its
training is a free value (log 38). -/
def Mach.relabelAll (m : Mach) : Mach :=
  let bad := m.boot.relabel
  let lost := bad.filter m.coreEnabled
  let m := bad.foldl (fun m c =>
    let mem := (m.core c).memState
    let d := if mem = 0 then (if m.boot.wear.contains c then 4 else 2, m) else ((m.draw.1 % 6) + 1, m.draw.2)
    let m := (d.2.fenceRec 0 c d.1 (fieldOf c)).onCore c fun k => k.safe false
    m.setFp c { m.fpCore c with state := 2, alt := c, mem := mem, reason := BitVec.ofNat 4 d.1 }) m
  lost.foldl (fun m c => match m.chooseBench c true with
    | some b => m.setFp b { m.fpCore b with state := 0, alt := b }
    | none => m) m

/-- The engine set of every port: the engines that have qualified (R397, R400). -/
def Mach.joinPorts (m : Mach) : Mach :=
  (List.range 9).foldl (fun m p =>
    let bits := ((List.range 56).filter fun e => m.engPort e == p && (m.eng e).st == .active && !(m.eng e).miscabled).map fun e => 2 ^ m.engIndex e
    m.onPort p fun q => { q with active := BitVec.ofNat 8 bits.sum, pendingSet := none }) m

/-- The start record (R400): cold or warm, the image and its version, each stage's duration, the counts fenced and relabelled. -/
def Mach.startRec (m : Mach) : Mach :=
  let b := m.boot
  let durs := ((List.range 8).map fun i => toBytes 4 (agetD b.durs (i + 1) 0)).flatten
  m.logRec 0x01 0xFFFF 0xFFFF (toBytes 1 (b2n b.cold + 2 * b.running) ++ toBytes 4 m.runningImage.version.toNat ++ durs ++
    toBytes 4 (m.countState allCores 2) ++ toBytes 4 b.relabel.length ++ toBytes 2 siliconStep ++ [Config.moduleRev])

/-- The running image confirmed where its slot still holds it, and the fused rollback counter raised to its index (R388). -/
def Boot.confirm (b : Boot) : Boot :=
  let i := b.loaded
  let r := if b.rollback.toNat < i.rollback.toNat then i.rollback else b.rollback
  let mark (x : Image) : Image := if x = i then { x with confirmed := true } else x
  let b := { b with loaded := { i with confirmed := true }, rollback := r }
  if b.running = 1 then { b with imgB := mark b.imgB } else { b with imgA := mark b.imgA }

/-- The entries of the settings store as stage 8 rewrites them (R395): of the tiers trained in full, with their temperature. -/
def Core.saveEntries (k : Core) : Core :=
  let one (i : Fin 2) : Option (BitVec 8) := if vget k.care.fresh i.val then some (vget k.care.temp i.val) else vget k.care.saved i.val
  { k with care := { k.care with saved := Vector.ofFn one, fresh := .replicate 2 false } }

/-- The end of stage 8 after the floor plan is published (R400): saved settings, confirmation, READY. -/
def Mach.toReady (m : Mach) (clearFails : Bool) : Mach :=
  let m := (m.startRec.logCount 0x38).mapCores fun _ k => k.saveEntries
  let m := m.pins fun b => { b.confirm with settingsOk := true, fails := if clearFails then 0 else b.fails, ready := true, fault := false,
                                            minimal := false, recovering := false, relabel := [], wear := [], starts := b.starts + 1 }
  m.toStage 9

/-- READY_STAGE (R400). -/
def readyStageAt (flashOk : Bool) (m : Mach) : Mach :=
  m.when (m.boot.stage == 8 && m.boot.going) fun m =>
    if !flashOk then m.failStart 0x0801
    else
      let m := ({ m with wafer := m.wafer.settle }).relabelAll.joinPorts.mapCores fun _ k => k.emptyDrop
      m.publishPlan.toReady true

/-! ## Failed starts (R389, R401 to R403) -/

/-- The limit of a stage in ms, and the REASON of exceeding it. -/
def stageLimit (st : Nat) : Option (Nat × Nat) :=
  match st with
  | 2 => some (10000, 0x0205)
  | 3 => some (1000, 0x0302)
  | 4 => some (60000, 0x0404)
  | 5 => some (150000, 0x0502)
  | 8 => some (5000, 0x0802)
  | _ => none

/-- STAGE_TIMEOUT (R381). -/
def stageTimeoutAt (m : Mach) : Mach :=
  match stageLimit m.boot.stage with
  | some (ms, r) => m.when (m.boot.going && !m.boot.minimal && m.boot.since + usCc (ms * 1000) < m.cc) fun m => m.failStart r
  | none => m

/-- Minimal mode (R402): field 0 is started by stages 3 and 4 alone. -/
def Mach.toMinimal (m : Mach) : Mach := (m.afresh 3 true).pins fun b => { b with minimal := true, ready := false, fault := true }

/-- START_FAILURE (R389, R401, R402): recorded; the other slot becomes ACTIVE where R389 says; the third failure in a row leads to minimal
mode. -/
def startFailureAt (m : Mach) : Mach :=
  match m.boot.failed with
  | none => m
  | some r =>
    let b := m.boot
    let st := r / 256
    let other := if b.activeB then b.imgA else b.imgB
    let trial := 2 < st && b.running == b2n b.activeB && !b.loaded.confirmed
    let swap := (st = 2 || trial) && m.imageOk other
    let stuck := st = 2 && r ≠ 0x0205 && !m.imageOk other
    let fails := min 255 (b.fails + 1)
    let m := m.pins fun b => { b with failed := none, failedAt := some m.cc, fails := fails, failStage := st, failReason := BitVec.ofNat 16 r,
                                      activeB := if swap then !b.activeB else b.activeB, noImage := stuck, fault := b.fault || stuck,
                                      ready := false }
    let m := (m.logRec 0x02 b.failField 0xFFFF (toBytes 1 st ++ toBytes 2 r)).logCount 0x3C
    if 3 ≤ fails && !stuck then m.toMinimal else m

/-- START_RETRY (R402): 1 s after a failed start the WC starts again from stage 2. -/
def startRetryAt (m : Mach) : Mach :=
  match m.boot.failedAt with
  | some t => m.when (t + usCc 1000000 ≤ m.cc && !m.boot.noImage) fun m => m.afresh 2 true
  | none => m

/-! ## Whole-device recovery (R404, R405) -/

/-- A slot after a recovery: HALTED with CAUSE 0x06, its placement kept, the rest zero. -/
def recoveredSlot (v : Slot) : Slot :=
  if v.ctl.st = .empty then {}
  else
    let t := v.ctl
    { ctl := { st := .halted, cid := t.cid, weight := t.weight, accBase := t.accBase, accRows := t.accRows, dbg := t.dbg, win := t.win,
               cause := 6, imprecise := true },
      ali := { frac := v.ali.frac, partner := v.ali.partner } }

/-- A core after a recovery: what BANKCTL and the tiers keep, its placement, and its domains ON again. -/
def Core.recovered (k : Core) (cc : Nat) : Core :=
  let w : Pwr := { edepth := k.pwr.edepth, lendDis := k.pwr.lendDis, nofs := k.pwr.nofs }
  let k' : Core :=
    { lindex := k.lindex, slots := k.slots.map recoveredSlot, ub := k.ub, poisonU := k.poisonU, soft := k.soft, care := k.care,
      mem := { cbanks := k.mem.cbanks, resident := k.mem.resident, eccCorr := k.mem.eccCorr, eccUncorr := k.mem.eccUncorr },
      queues := k.queues.map fun q => { slot := q.slot, valid := q.valid }, huddles := k.huddles.map fun h => { owner := h.owner },
      pwr := w, router := { groups := k.router.groups, detours := k.router.detours }, suspect := k.suspect, lastPass := k.lastPass }
  (k'.kick cc).emptyDrop

/-- Contents that a tier loses when it is trained in full, and event 0x0004 to the owner of each window on it (R405). -/
def Mach.loseTier (m : Mach) (c t : Nat) : Mach :=
  let idx := m.indexOf c
  let lo := t * 0xC00000
  let hit : AMap Ctx := m.ctxs.filter fun (e : Nat × Ctx) => e.2.slots.any fun s => s.core == idx && rangesMeet s.ub (lo, 0xC00000)
  let m := m.onCore c fun k => k.wipe 1 lo 0xC00000
  hit.foldl (fun (m : Mach) (e : Nat × Ctx) => m.raiseOwner e.1 (m.event 4 e.1 idx 0 0 (waOf 1 idx lo))) m

/-- An engine after a recovery: retrained from its saved settings and qualified again. -/
def LightEng.recovered (g : LightEng) : LightEng :=
  if g.st = .idle || g.st = .down then { g with queue := [], replay := [], rx := [] }
  else { st := .active, fenced := g.fenced, standsFor := g.standsFor, lanes := g.lanes, saved := true, miscabled := g.miscabled }

/-- Steps 1 to 6 of a recovery. -/
def Mach.recover (m : Mach) (inFull : List (Nat × Nat)) : Mach :=
  let m := (m.pins fun b => { b with ready := false }).stopWork.failCmds
  let subst := m.wafer.subst.map fun e => if e.valid then { e with holding := false } else {}
  let m := { m with wafer := { m.wafer with subst := subst },
                    fabric := { m.fabric with engs := m.fabric.engs.map LightEng.recovered, reqs := [], ins := [], heldIn := [],
                                              ports := m.fabric.ports.map fun p => { p with waiting := [], pendingSet := none } } }
  let m := if m.boot.minimal then (List.range 56).foldl Mach.kickField m else m
  let stale := (m.cores.map fun e => ([0, 1].filter fun t => !m.coreOut e.1 && !e.2.tierEntryOk t).map fun t => (e.1, t)).flatten
  let inFull := (inFull ++ stale).eraseDups
  let m := m.mapCores fun c k => if m.coreOut c then k else k.recovered m.cc
  let fields := m.fields.map fun x => { x with ring := .on, tiers := .replicate 2 .on, fcHung := false, hangs := [], lastBeat := m.cc,
                                               sleep := .awake, answers := [], trace := {} }
  let m := inFull.foldl (fun m x => (m.loseTier x.1 x.2).onCore x.1 fun k => { k with care := { k.care with fresh := vset k.care.fresh x.2 true } })
    { m with fields := fields }
  m.ctxs.foldl (fun m e =>
    let low := match e.2.slots.map fun s => s.core with
      | c :: r => r.foldl min c
      | [] => 0
    if e.2.slots.isEmpty then m
    else (m.onCtx e.1 fun x => { x with firstCause := if x.firstCause = 0 then 6 else x.firstCause }).raiseOwner e.1 (m.event 1 e.1 low 0 6 0)) m

/-- WHOLE_DEVICE_RECOVERY (R404, R405): from READY, or in minimal mode on request. One that is not done in time is a failed start with
REASON 0x0901. -/
def recoveryAt (inFull : List (Nat × Nat)) (inTime : Bool) (m : Mach) : Mach :=
  m.when (m.boot.going && ((m.boot.stage == 9 && (m.boot.ready || m.boot.recovering)) || (m.boot.stage == 10 && m.boot.recovering))) fun m =>
    let m := (m.recover inFull).logCount 0x80
    let m := { m with clk := { m.clk with holdoverOut := false } }
    if inTime then m.publishPlan.toReady false
    else ({ m with boot := { m.boot with recovering := false } }).failStart 0x0901

/-! ## The WC's watchdog and status page (R329, R445) -/

/-- WC_WATCHDOG_EXPIRY (R445): 500 ms without a heartbeat. -/
def watchdogAt (m : Mach) : Mach :=
  m.when (3 ≤ m.boot.stage && m.boot.beatAt + usCc 500000 ≤ m.cc) fun m =>
    ((m.logRec 0x0F 0xFFFF 0xFFFF (toBytes 1 4)).afresh 2 true).faultPins

/-- ST_HEARTBEAT_TICK (R445): every 10 ms from the end of stage 2. -/
def heartbeatAt (m : Mach) : Mach :=
  m.when (3 ≤ m.boot.stage && m.boot.beatAt + usCc 10000 ≤ m.cc) fun m =>
    { m with boot := { m.boot with heartbeat := inc64 m.boot.heartbeat, beatAt := m.cc } }

/-- ST_TIME_UPDATE (R329). -/
def stTimeAt (m : Mach) : Mach := m.when (3 ≤ m.boot.stage) fun m => { m with host := { m.host with stTime := m.now } }

/-! ## Input power lost (R16), a partner's signal (R396) -/

/-- The bin of a temperature (R434). -/
def tempBin (t : Int) : Nat :=
  if t < 60 then 0 else if t < 70 then 1 else if t < 80 then 2 else if t < 85 then 3 else if t < 90 then 4 else if t < 95 then 5
  else if t < 100 then 6 else 7

/-- The time since binAt counted in the bin of the hottest sensor. -/
def Margins.accrue (x : Margins) (cc : Nat) : Margins :=
  match x.temps.map fun e => e.2 with
  | [] => { x with binAt := cc }
  | t :: r =>
    let i := tempBin (r.foldl max t)
    { x with bins := x.bins.set i (lget x.bins i + (cc - x.binAt)), binAt := cc }

/-- Ticks in a minute. -/
def minuteTicks : Nat := 6000000000

/-- INPUT_POWER_LOSS (R16, R355): the WC too is OFF; what flash holds stays. -/
def inputPowerLossAt (m : Mach) : Mach :=
  let log := if m.boot.life = .retired then m.log else { m.log with cnt := nbump m.log.cnt 0x30 (m.clk.tclk.toNat / minuteTicks) }
  let fields := m.fields.map fun x => { x with margins := { x.margins.accrue m.cc with temps := [] } }
  let m := ({ m with log := log, fields := fields }).afresh 0 false
  { m with clk := { cc := m.clk.cc, refPresent := m.clk.refPresent }, power := { cap := m.power.cap },
           host := { mem := m.host.mem, interrupts := m.host.interrupts, nextOrder := m.host.nextOrder },
           boot := { m.boot with held := false, noImage := false, off := false, hotOff := false, fault := false, therm := false, alert := false,
                                 refFault := false } }

/-- LIGHT_SIGNAL_DETECT (R396): a partner's signal at an engine that had none; firmware trains it. -/
def lightSignalAt (f : Nat) (m : Mach) : Mach :=
  m.when (m.boot.stage == 9 && (m.eng f).st == .idle && !(m.eng f).fenced && m.engPort f < 9 && (m.field f).light == .ret) fun m =>
    (m.onEng f fun g => { g with st := .train, what := g.retrainWhat, reqAt := m.cc, leader := true }).onField f fun x => { x with light := .on }

def execPowerGood (mv : Nat) (s : State) : Host.Outcome State Fault Refusal := upd (powerGoodAt mv) s
def execRootPllLock (bistOk : Bool) (s : State) : Host.Outcome State Fault Refusal := upd (rootPllLockAt bistOk) s
def execBoot (found : BootFind) (s : State) : Host.Outcome State Fault Refusal := upd (bootAt found.image found.storeOk) s
def execKickoffWave (k : Fin 8) (good : Bool) (s : State) : Host.Outcome State Fault Refusal := upd (kickoffWaveAt k good) s
def execStartBist (fcBad ringBad : List FieldIx) (pllOk : Bool) (found : StartFind) (s : State) : Host.Outcome State Fault Refusal :=
  upd (startBistAt (fcBad.map fun f => f.val) (ringBad.map fun f => f.val) pllOk (found.cores.map fun c => c.val)
    (found.subs.map fun x => (x.1.val, x.2.1.val, x.2.2.val)) (found.therm.map fun f => f.val) (found.loop.map fun f => f.val)) s
def execDramTraining (inFull : List (CoreIx × TierIx)) (failed : List (CoreIx × TierIx)) (domainBad : List (FieldIx × TierIx)) (s : State) :
    Host.Outcome State Fault Refusal :=
  upd (dramTrainingAt (inFull.map fun x => (x.1.val, x.2.val)) (failed.map fun x => (x.1.val, x.2.val))
    (domainBad.map fun x => (x.1.val, x.2.val))) s
def execLinkTraining (trained : List (FieldIx × BitVec 16)) (s : State) : Host.Outcome State Fault Refusal :=
  upd (linkTrainingAt (trained.map fun x => (x.1.val, x.2))) s
def execLinkQualification (outcome : List (FieldIx × Bool × BitVec 16)) (s : State) : Host.Outcome State Fault Refusal :=
  upd (linkQualificationAt (outcome.map fun x => (x.1.val, x.2))) s
def execReadyStage (flashOk : Bool) (s : State) : Host.Outcome State Fault Refusal := upd (readyStageAt flashOk) s
def execStageTimeout (s : State) : Host.Outcome State Fault Refusal := upd stageTimeoutAt s
def execStartFailure (s : State) : Host.Outcome State Fault Refusal := upd startFailureAt s
def execStartRetry (s : State) : Host.Outcome State Fault Refusal := upd startRetryAt s
def execWholeDeviceRecovery (inFull : List (CoreIx × TierIx)) (inTime : Bool) (s : State) : Host.Outcome State Fault Refusal :=
  upd (recoveryAt (inFull.map fun x => (x.1.val, x.2.val)) inTime) s
def execWcWatchdogExpiry (s : State) : Host.Outcome State Fault Refusal := upd watchdogAt s
def execStHeartbeatTick (s : State) : Host.Outcome State Fault Refusal := upd heartbeatAt s
def execStTimeUpdate (s : State) : Host.Outcome State Fault Refusal := upd stTimeAt s
def execInputPowerLoss (s : State) : Host.Outcome State Fault Refusal := upd inputPowerLossAt s
def execLightSignalDetect (f : FieldIx) (s : State) : Host.Outcome State Fault Refusal := upd (lightSignalAt f) s

end Sys2Proof.Machine
end

