-- ==== Sys2Proof/Machine/Life.lean ====
section
/-! DEFINITION. The lifecycle and the life log: LIFECYCLE_GET, LIFECYCLE_SET, RESTART_REQUEST, LIFECYCLE_IMAGE, LIFECYCLE_SERVICE (R386 to
R388, R403, R406 to R408, R434 to R436); margins: MARGIN_READING, DAILY_MARGIN_RECORD, TELEM_READ kind 4 (R431 to R434). -/

namespace Sys2Proof.Machine

open Sys2Proof

/-! ## LIFECYCLE_SET and the restart request (R403, R407) -/

/-- The code of a lifecycle state (R329). -/
def Life.code (l : Life) : Nat :=
  match l with
  | .manufacture => 0
  | .provisioned => 1
  | .field => 2
  | .service => 3
  | .retired => 4

def lifeOf (n : Nat) : Option Life :=
  match n with
  | 0 => some .manufacture
  | 1 => some .provisioned
  | 2 => some .field
  | 3 => some .service
  | 4 => some .retired
  | _ => none

/-- The transitions of R407. -/
def Life.next (a b : Life) : Bool :=
  match a, b with
  | .manufacture, .provisioned => true
  | .provisioned, .field => true
  | .field, .service => true
  | .service, .field => true
  | .retired, .retired => false
  | _, .retired => true
  | _, _ => false

/-- Whether a LIFECYCLE_SET is a restart request (R403): the current state again, with bit 0 of ARG byte 1. -/
def Mach.isRestart (m : Mach) (x : Cmd) : Bool := le x.arg 0 1 == m.boot.life.code && le x.arg 1 1 == 1 && m.boot.life != .retired

/-- Every LIGHT domain OFF (R407). -/
def Mach.lightsOff (m : Mach) : Mach :=
  let engs := m.fabric.engs.map fun (g : LightEng) => { g.reborn with fenced := g.fenced }
  let ports := m.fabric.ports.map fun (p : FPort) => { p with active := 0, pendingSet := none }
  let fields := m.fields.map fun (x : FieldCtl) => { x with light := .off }
  let fabric := { m.fabric with engs := engs, ports := ports }
  let m := { m with fabric := fabric, fields := fields }
  m.planChanged

/-- LIFECYCLE_SET (R407). -/
def lifecycleSetAt (f tag : Nat) (m : Mach) : Mach :=
  m.runCmd f tag 0x0191 (fun x => !m.isRestart x) fun x m =>
    if m.boot.life = .retired then m.done x 0x0503
    else if 2 ≤ le x.arg 1 1 then m.done x 0x0102
    else match lifeOf (le x.arg 0 1) with
      | none => m.done x 0x0503
      | some l =>
        if !m.boot.life.next l then m.done x 0x0503
        else if !m.ctxs.isEmpty then m.done x 0x0401
        else
          let m := m.logRec 0x0B 0xFFFF 0xFFFF (toBytes 2 f ++ toBytes 1 m.boot.life.code ++ toBytes 1 l.code)
          let m := { m with boot := { m.boot with life := l, settingsOk := m.boot.settingsOk && l != Life.provisioned } }
          (if l = Life.retired then m.lightsOff else m).done x 0

/-- RESTART_REQUEST (R385, R403): NOT_READY during a start or a recovery; else the command completes, FAILS is cleared and the
device starts from stage 2. -/
def restartAt (f tag : Nat) (m : Mach) : Mach :=
  m.runCmd f tag 0x0191 m.isRestart fun x m =>
    if m.boot.stage < 9 || m.boot.recovering || !m.boot.going then m.done x 0x0404
    else ((completionAt f tag true (m.done x 0)).afresh 2 true).pins fun b => { b with fails := 0 }

/-! ## LIFECYCLE_IMAGE (R386 to R388) -/

/-- An image slot as an accepted image fills it: a trial image. -/
def imageFrom (b : Bytes) : Image :=
  { present := true, step := BitVec.ofNat 16 (le b 4 2), version := BitVec.ofNat 32 (le b 8 4), rollback := BitVec.ofNat 32 (le b 12 4),
    signed := true, confirmed := false }

/-- LIFECYCLE_IMAGE (R387, R388): the inactive slot takes an image that passes, and becomes ACTIVE for the next start. -/
def lifecycleImageAt (f tag : Nat) (data : Option Bytes) (sig : ImageFind) (m : Mach) : Mach :=
  m.runCmd f tag 0x0192 (fun _ => true) fun x m => m.withData x data fun b m =>
    let i := imageFrom b
    if b.length < 256 || le b 0 4 ≠ 1 || sig = .badSignature || !m.imageOk i then m.done x 0x0504
    else if sig = .flashError then m.done x 0x0601
    else
      let boot := if m.boot.activeB then { m.boot with imgA := i } else { m.boot with imgB := i }
      let m := { m with boot := { boot with activeB := !m.boot.activeB, noImage := false } }
      (m.logRec 0x0B 0xFFFF 0xFFFF (toBytes 2 f ++ toBytes 1 0x10 ++ toBytes 4 i.version.toNat)).done x 0

/-! ## LIFECYCLE_SERVICE (R408) -/

/-- LIFECYCLE_SERVICE action 1: a core is retired with REASON 0x6. -/
def serviceRetireAt (f tag : Nat) (m : Mach) : Mach :=
  m.runCmd f tag 0x0193 (fun x => le x.arg 0 1 == 1) fun x m =>
    let c := le x.arg 4 4
    if m.boot.life ≠ .service then m.done x 0x0503
    else if nCores ≤ c || m.coreOut c || (isAnchor c && !(m.workAt (m.indexOf c)).isEmpty) then m.done x 0x0102
    else (m.failCore c 6 false).done x 0

/-- Whether a rectangle of cores meets a field. -/
def rectMeets (r : Nat × Nat × Nat × Nat) (f : Nat) : Bool :=
  let x := f % 8 * 48
  let y := f / 8 * 48
  r.1 ≤ x + 47 && x ≤ r.2.2.1 && r.2.1 ≤ y + 47 && y ≤ r.2.2.2

/-- Whether a context holds a slot, a window or a job-table entry in a field, or runs there. -/
def Mach.holdsField (m : Mach) (f : Nat) : Bool :=
  (m.ctxs.any fun e => e.2.slots.any fun s => fieldOf s.core == f || fieldOf (m.runs s.core) == f || (s.hasRemote && rectMeets s.remote f)) ||
  m.fabric.jobs.any fun j => rectMeets (j.x0, j.y0, j.x1, j.y1) f

/-- The units of a field that a deep BIST finds good, with the time of the pass (R412). -/
def Mach.deepPass (m : Mach) (g : Nat) (bad : List Nat) (subs : List (Nat × Nat × Nat)) : Mach :=
  m.mapCores fun c k =>
    if fieldOf c ≠ g || m.coreOut c || bad.contains c then k
    else
      let good := (List.range 32).filter fun i => !subs.contains (c, i / 16, i % 16)
      { k with lastPass := m.now, care := { k.care with subPass := good.foldl (fun l i => aset l i m.now) k.care.subPass } }

/-- LIFECYCLE_SERVICE action 2: deep BIST of a field; its under-banks read as zero afterwards, and the units that fail are fenced, a sub-array where no spare repairs it
(R408, R413). -/
def deepBistAt (f tag : Nat) (failed : List Nat) (subBad : List (Nat × Nat × Nat)) (m : Mach) : Mach :=
  m.runCmd f tag 0x0193 (fun x => le x.arg 0 1 == 2) fun x m =>
    let g := le x.arg 4 4
    if m.boot.life ≠ .service then m.done x 0x0503
    else if 56 ≤ g || (m.boot.minimal && g ≠ 0) then m.done x 0x0102
    else if m.holdsField g then m.done x 0x0401
    else
      let m := m.wakeField g
      let m := m.mapCores fun c k => if fieldOf c = g then { k with ub := [], poisonU := [], soft := [], sram := [], poisonS := [] } else k
      let bad := ((failed.filter fun c => fieldOf c == g && !m.coreOut c).eraseDups).mergeSort (· ≤ ·)
      let n := (fieldCores g).filter fun c => !m.coreOut c
      let subs := (subBad.filter fun u => fieldOf u.1 == g && !m.coreOut u.1 && !bad.contains u.1).eraseDups
      let m := (m.deepPass g bad subs).onField g fun y =>
        { y with slicesRun := inc64 y.slicesRun (n.length * 33), slicesFailed := inc64 y.slicesFailed (bad.length + subs.length) }
      let m := bad.foldl (fun m c => (m.logRec 0x08 g 0xFFFF (toBytes 1 0 ++ toBytes 4 c)).failCore c 2 false) m
      (subs.foldl (fun m u => (m.logRec 0x08 g 0xFFFF (toBytes 1 1 ++ toBytes 4 (u.1 + 2 ^ 17 * (u.2.1 * 16 + u.2.2)))).subFailed u.1 u.2.1 u.2.2) m).done x 0

/-! ## Margins (R431 to R434) -/

/-- An hour in cycles. -/
def hourCc : Nat := 3600 * 1200000000

/-- The lower of two readings, one of which may be missing. -/
def lowest (a : Option Int) (b : Int) : Option Int :=
  match a with
  | some x => some (min x b)
  | none => some b

/-- A reading taken into the lowest of a span. -/
def Lows.take (l : Lows) (kind : Nat) (v : Int) : Lows :=
  match kind with
  | 0 => { l with droop := lowest l.droop v }
  | 1 => { l with slack := lowest l.slack v }
  | 4 => { l with opt := lowest l.opt v }
  | _ => l

/-- A reading taken into a field's margins; readings older than an hour go. -/
def Margins.take (x : Margins) (cc kind unit_ : Nat) (v : Int) : Margins :=
  { x with readings := (x.readings.filter fun r => cc < r.at_ + hourCc) ++ [{ at_ := cc, kind := kind, value := v, unit_ := unit_ }],
           droopNeg := if kind = 0 && v < 0 then x.droopNeg + 1 else x.droopNeg, day := x.day.take kind v, life := x.life.take kind v }

/-- A reading out of range in the life log (R432). -/
def Mach.marginRec (m : Mach) (f kind unit_ : Nat) (v : Int) : Mach :=
  m.logRec 0x09 f 0xFFFF (toBytes 1 kind ++ toBytes 4 unit_ ++ toBytes 4 (ofInt 32 v))

/-- MARGIN_READING (R431, R432): three successive slack readings below 40 ps retire the core with REASON 0x4. -/
def marginReadingAt (r : Margin) (m : Mach) : Mach :=
  let take (m : Mach) (f kind unit_ : Nat) (v : Int) : Mach := m.onField f fun x => { x with margins := x.margins.take m.cc kind unit_ v }
  let on (f : Nat) : Bool := 3 ≤ m.boot.stage && (m.field f).ring == .on
  match r with
  | .droop c mv => m.when (on (fieldOf c)) fun m =>
      let m := take m (fieldOf c) 0 c mv
      if mv < 0 then m.marginRec (fieldOf c) 0 c mv else m
  | .slack c ps => m.when (on (fieldOf c)) fun m =>
      let m := take m (fieldOf c) 1 c ps
      let n := if ps < 40 then (m.core c).lowSlack + 1 else 0
      let act := 3 ≤ n && m.mayRepair c
      let m := m.onCore c fun k => { k with lowSlack := if act then 0 else n, lastSlack := some ps }
      let m := if ps < 40 then m.marginRec (fieldOf c) 1 c ps else m
      if act then m.failCore c 4 false else m
  | .optical f lane p => m.when (on f && (m.eng f).st == .active) fun m =>
      let m := take m f 4 lane p
      if p < -700 then m.marginRec f 4 lane p else m
  | .logicTemp f sensor deg => m.when (on f) fun m =>
      let m := m.onField f fun x => { x with margins := { x.margins.accrue m.cc with temps := aset x.margins.temps sensor deg } }
      take m f 2 sensor deg
  | .tierTemp c t deg => m.when (on (fieldOf c)) fun m => take m (fieldOf c) 3 (c.val * 2 + t.val) deg

/-- The lowest (or highest) reading of a kind in the last hour, with its unit. -/
def Margins.extreme (x : Margins) (cc kind : Nat) (high : Bool) : Option (Int × Nat) :=
  match (x.readings.filter fun r => r.kind == kind && cc < r.at_ + hourCc).map fun r => (r.value, r.unit_) with
  | [] => none
  | a :: l => some (l.foldl (fun b r => if (if high then b.1 < r.1 else r.1 < b.1) then r else b) a)

/-- A reading as n bytes, or a free value where there has been none (log 39). -/
def Mach.orFree (m : Mach) (n : Nat) (v : Option Int) : Bytes × Mach :=
  match v with
  | some i => (toBytes n (ofInt (8 * n) i), m)
  | none => (toBytes n m.draw.1, m.draw.2)

/-- Optical power as 2 bytes: 0x8000 where the engine is not active. -/
def Mach.optBytes (m : Mach) (none_ : Bool) (v : Option Int) : Bytes × Mach := if none_ then (toBytes 2 0x8000, m) else m.orFree 2 v

/-- The oldest of a list of times. -/
def oldestTime (l : List (BitVec 64)) : Nat :=
  match l with
  | [] => 0
  | t :: r => r.foldl (fun a b => min a b.toNat) t.toNat

/-- The most spares in use in any sub-array of a field. -/
def Mach.mostUsed (m : Mach) (f : Nat) (used : Core → Nat → Nat → Nat) : Nat :=
  ((m.coresOf f).map fun e => ((List.range 32).map fun i => used e.2 (i / 16) (i % 16)).foldl max 0).foldl max 0

/-- One entry of TELEM_READ kind 4 (R433). -/
def Mach.marginEntry (m : Mach) (f : Nat) : Bytes × Mach :=
  let x := m.field f
  let y := x.margins
  let low (k : Nat) := y.extreme m.cc k false
  let high (k : Nat) := y.extreme m.cc k true
  let idle := (m.eng f).st != .active
  let droop := m.orFree 4 ((low 0).map (·.1))
  let slack := droop.2.orFree 4 ((low 1).map (·.1))
  let score := slack.2.orFree 4 ((low 1).map fun r => (r.2 : Int))
  let temp := score.2.orFree 2 ((high 2).map (·.1))
  let ub := temp.2.orFree 2 ((high 3).map (·.1))
  let opt := ub.2.optBytes idle ((low 4).map (·.1))
  let lane := opt.2.orFree 1 (if idle then some 0 else (low 4).map fun r => (r.2 : Int))
  let tested := (fieldCores f).filter fun c => m.coreEnabled c || m.coreBench c
  let corePass := oldestTime (tested.map fun c => (m.core c).lastPass)
  let subPass := oldestTime ((tested.map fun c => (List.range 32).map fun i => agetD (m.core c).care.subPass i 0).flatten)
  let ecc (g : Core → BitVec 64) : Nat := ((m.coresOf f).map fun e => (g e.2).toNat).sum
  (padTo (toBytes 1 f ++ toBytes 1 (b2n x.sensorBad) ++ toBytes 2 0 ++ droop.1 ++ toBytes 4 y.droopNeg.toNat ++ slack.1 ++ score.1 ++ temp.1 ++
    ub.1 ++ opt.1 ++ lane.1 ++ toBytes 5 0 ++ toBytes 8 x.slicesRun.toNat ++ toBytes 8 x.slicesFailed.toNat ++ toBytes 8 corePass ++
    toBytes 8 subPass ++ toBytes 8 (ecc fun k => k.mem.eccCorr) ++ toBytes 8 (ecc fun k => k.mem.eccUncorr) ++
    toBytes 4 x.colRepairs.toNat ++ toBytes 4 x.rowRepairs.toNat ++ toBytes 4 (64 - m.mostUsed f Core.colsUsed) ++
    toBytes 4 (128 - m.mostUsed f Core.rowsUsed)) 128, lane.2)

/-- TELEM_READ kind 4 (R433). -/
def telemMarginsAt (f tag : Nat) (ok : Bool) (m : Mach) : Mach :=
  m.runCmd f tag 0x0150 (fun x => le x.arg 0 1 == 4) fun x m =>
    let head := toBytes 2 1 ++ toBytes 2 7232 ++ toBytes 4 56 ++ toBytes 8 m.now.toNat ++ padTo [] 48
    let r := (List.range 56).foldl (fun (a : Bytes × Mach) i =>
      let e := a.2.marginEntry i
      (a.1 ++ e.1, e.2)) (head, m)
    if x.len < 7232 then m.done x 0x0105 7232 else r.2.doneIfFits x ok r.1

/-- DAILY_MARGIN_RECORD (R434): the lowest readings of the day that ends, of every field. -/
def dailyRecordAt (m : Mach) : Mach :=
  m.when (3 ≤ m.boot.stage && m.boot.dayAt + dayCc ≤ m.cc) fun m =>
    let m := (List.range 56).foldl (fun m f =>
      let y := (m.field f).margins.day
      let droop := m.orFree 4 y.droop
      let slack := droop.2.orFree 4 y.slack
      let opt := slack.2.optBytes y.opt.isNone y.opt
      (opt.2.logRec 0x11 f 0xFFFF (droop.1 ++ slack.1 ++ opt.1)).onField f fun x =>
        { x with margins := { x.margins with last := x.margins.day, day := {} } }) m
    { m with boot := { m.boot with dayAt := m.cc } }

/-! ## LIFECYCLE_GET (R436) -/

/-- A record's 64 bytes (R435). -/
def LifeRec.bytes (r : LifeRec) : Bytes :=
  toBytes 8 r.time.toNat ++ toBytes 2 r.type.toNat ++ toBytes 2 r.field.toNat ++ toBytes 2 r.cid.toNat ++ toBytes 2 0 ++ padTo r.detail 48

/-- One field entry of the image (R436). -/
def Mach.lifeField (m : Mach) (f : Nat) : Bytes × Mach :=
  let x := m.field f
  let y := x.margins.accrue m.cc
  let mins := (y.bins.map fun b => toBytes 4 (b / (minuteTicks * 12))).flatten
  let d1 := m.orFree 4 y.life.droop
  let s1 := d1.2.orFree 4 y.life.slack
  let o1 := s1.2.optBytes y.life.opt.isNone y.life.opt
  let d2 := o1.2.orFree 4 y.last.droop
  let s2 := d2.2.orFree 4 y.last.slack
  let o2 := s2.2.optBytes y.last.opt.isNone y.last.opt
  (padTo (toBytes 1 f ++ toBytes 3 0 ++ padTo mins 32 ++ d1.1 ++ s1.1 ++ o1.1 ++ toBytes 2 0 ++ d2.1 ++ s2.1 ++ o2.1 ++
    toBytes 2 (m.countState (fieldCores f) 2) ++ toBytes 4 x.slicesFailed.toNat) 64, o2.2)

/-- The image of the summary (R436). -/
def Mach.lifeImage (m : Mach) : Bytes × Mach :=
  let b := m.boot
  let cnt (o : Nat) : Nat := agetD m.log.cnt o 0
  let head := toBytes 2 1 ++ toBytes 2 4096 ++ toBytes 1 b.life.code ++
    toBytes 1 (b2n b.activeB + 2 * b2n b.imgA.confirmed + 4 * b2n b.imgB.confirmed + 8 * b2n (b.life == .retired)) ++ toBytes 1 b.fails ++
    toBytes 1 b.failStage ++ toBytes 2 b.failReason.toNat ++ toBytes 2 0 ++ toBytes 4 m.power.cap ++
    toBytes 4 (if b.imgA.present then b.imgA.version.toNat else 0) ++ toBytes 4 (if b.imgB.present then b.imgB.version.toNat else 0) ++
    toBytes 4 b.rollback.toNat ++ toBytes 4 0 ++ toBytes 8 Config.moduleSerial.toNat ++ toBytes 8 m.now.toNat ++
    toBytes 8 (cnt 0x30 + m.now.toNat / minuteTicks) ++ toBytes 4 (cnt 0x38) ++ toBytes 4 (cnt 0x3C) ++ toBytes 8 (cnt 0x40) ++
    toBytes 8 m.log.overwritten ++ toBytes 4 (m.countState allCores 2) ++
    toBytes 4 (m.wafer.subst.toList.filter fun e => e.valid).length ++
    ((List.range 13).map fun i => toBytes 4 (cnt (0x58 + 4 * i))).flatten ++ toBytes 4 (m.fabric.engs.toList.filter fun g => g.fenced).length
  let r := (List.range 56).foldl (fun (a : Bytes × Mach) f =>
    let e := a.2.lifeField f
    (a.1 ++ e.1, e.2)) (padTo head 256, m)
  (padTo r.1 4096, r.2)

/-- LIFECYCLE_GET (R436): the image, and as many whole records as fit, newest first. -/
def lifecycleGetAt (f tag : Nat) (ok : Bool) (m : Mach) : Mach :=
  m.runCmd f tag 0x0190 (fun _ => true) fun x m =>
    if x.len < 4096 then m.done x 0x0105 4096
    else
      let recs := m.log.recs.take ((x.len - 4096) / 64)
      let r := m.lifeImage
      r.2.doneWith x ok (r.1 ++ (recs.map LifeRec.bytes).flatten) recs.length

def execLifecycleGet (f : FnIx) (tag : BitVec 16) (ok : Bool) (s : State) : Host.Outcome State Fault Refusal :=
  upd (lifecycleGetAt f tag.toNat ok) s
def execLifecycleSet (f : FnIx) (tag : BitVec 16) (s : State) : Host.Outcome State Fault Refusal := upd (lifecycleSetAt f tag.toNat) s
def execRestartRequest (f : FnIx) (tag : BitVec 16) (s : State) : Host.Outcome State Fault Refusal := upd (restartAt f tag.toNat) s
def execLifecycleImage (f : FnIx) (tag : BitVec 16) (data : Option Bytes) (sig : ImageFind) (s : State) : Host.Outcome State Fault Refusal :=
  upd (lifecycleImageAt f tag.toNat data sig) s
def execLifecycleServiceRetire (f : FnIx) (tag : BitVec 16) (s : State) : Host.Outcome State Fault Refusal :=
  upd (serviceRetireAt f tag.toNat) s
def execLifecycleServiceDeepBist (f : FnIx) (tag : BitVec 16) (found : BistFind) (s : State) : Host.Outcome State Fault Refusal :=
  upd (deepBistAt f tag.toNat (found.cores.map fun c => c.val) (found.subs.map fun x => (x.1.val, x.2.1.val, x.2.2.val))) s
def execTelemReadMargins (f : FnIx) (tag : BitVec 16) (ok : Bool) (s : State) : Host.Outcome State Fault Refusal :=
  upd (telemMarginsAt f tag.toNat ok) s
def execMarginReading (r : Margin) (s : State) : Host.Outcome State Fault Refusal := upd (marginReadingAt r) s
def execDailyMarginRecord (s : State) : Host.Outcome State Fault Refusal := upd dailyRecordAt s

end Sys2Proof.Machine
end

