-- ==== Sys2Proof/Machine/SentryCtl.lean ====
section
/-! DEFINITION. Sentry beyond the sampling: SENTRY_PACKET, REFEREE_RUN, VERDICT (R424 to R429). -/

namespace Sys2Proof.Machine

open Sys2Proof

/-- The array taken for a sentry re-execution: a weight swap of its own and O cycles; the last TILE.MAC stays what it was (R424). -/
def Core.takeArray (k : Core) (cc occ : Nat) : Core :=
  let from_ := match k.eng.busyTo with
    | some t => max cc (t + 1)
    | none => cc
  { k with eng := { k.eng with busyTo := some (from_ + 2 + occ - 1) } }

/-- SENTRY_PACKET (R424, R425): the partner re-executes its oldest packet in an issue cycle of the context's lowest-numbered slot there. A
CRC that differs by delta from what the captured inputs give is a mismatch where it differs from the packet's. -/
def sentryPacketAt (c : Nat) (delta : BitVec 32) (m : Mach) : Mach :=
  let k := m.core c
  match k.packets with
  | [] => m
  | p :: rest =>
    match k.slotsOf p.cid.toNat with
    | [] => m
    | s :: _ =>
      m.when (k.clocksRun m.cc && k.lastIssue != some m.cc && !cycleRemoved k.pwr m.cc && (p.kind == 1 || !busyIn k.eng.busyTo m.cc)) fun m =>
        let r := m.countCycle c
        match (r.2.core c).seq.choose (s :: r.1) with
        | some (t, spare) =>
          if t ≠ s then m
          else
            let m := r.2.onCore c fun k =>
              let k := k.onSlot s fun v => { v with ali := { v.ali with reexec := inc64 v.ali.reexec } }
              let k := { k with packets := rest, seq := k.seq.taken s spare }
              if p.kind = 0 then k.takeArray m.cc p.occ else k
            let crc := p.expect + delta
            if crc = p.crc then m else { m with mismatches := m.mismatches ++ [{ pkt := p, partnerCrc := crc }] }
        | none => m

/-- The referee of a mismatch (R425): the enabled core other than the origin and the partner with the least H + 3S from the origin. -/
def Mach.refereeOf (m : Mach) (p : SenPkt) : Option Nat :=
  pickBest (fun b c => if wayCost p.origin c < wayCost p.origin b then c else b)
    (allCores.filter fun c => m.coreEnabled c && c != p.origin && c != p.partner)

/-- REFEREE_RUN (R425): firmware has the referee re-execute the oldest mismatched packet, at most once per millisecond per referee. The
time, rounded up to 1 µs, counts in SUSPEND_US of the contexts there, and in no DL_MISSES. -/
def refereeRunAt (delta : BitVec 32) (m : Mach) : Mach :=
  match m.mismatches.findIdx? fun x => x.refereeCrc.isNone with
  | none => m
  | some i =>
    let x := lget m.mismatches i
    match m.refereeOf x.pkt with
    | none => m
    | some r =>
      let rest := match (m.core r).refereeAt with
        | some t => t + usCc 1000 ≤ m.cc
        | none => true
      m.when rest fun m =>
        let m := (m.wakeField (fieldOf r)).onCore r fun k =>
          let k := { k with refereeAt := some m.cc }
          if x.pkt.kind = 0 then k.takeArray m.cc x.pkt.occ else { k with lastIssue := some m.cc }
        let cids := (m.core r).cids
        let x : Mismatch := { x with referee := some r, refereeCrc := some (x.pkt.expect + delta) }
        ({ m with mismatches := m.mismatches.set i x }.suspend cids 1).excludeDl cids

/-- CLASS of a verdict (R426): 1 origin, 2 partner, 3 split. -/
def Mismatch.class (x : Mismatch) : Nat :=
  match x.refereeCrc with
  | none => 3
  | some r => if r = x.partnerCrc then 1 else if r = x.pkt.crc then 2 else 3

/-- What follows for a suspect core (R426): at the first verdict in 24 h a rotation slice, at the second its work is moved. -/
def Mach.suspectCore (m : Mach) (c : Nat) (slicePass : Bool) : Mach :=
  let again : Bool := match (m.core c).suspect with
    | some t => decide (m.cc < t + dayCc)
    | none => false
  if m.coreOut c then m
  else if again then m.failCore c 3 false
  else (m.onCore c fun k => { k with suspect := some m.cc }).coreSlice c slicePass

/-- The core that a verdict makes suspect (R426). -/
def Mismatch.suspect (x : Mismatch) : Option Nat :=
  match x.class with
  | 1 => some x.pkt.origin
  | 2 => some x.pkt.partner
  | _ => none

/-- Whether firmware may act on the suspect of a verdict now (R418, R443). -/
def Mach.mayAct (m : Mach) (x : Mismatch) : Bool :=
  match x.suspect with
  | some c => m.mayRepair c
  | none => true

/-- The record of a verdict, event 0x0009 (R427). -/
def Mach.verdictEvent (m : Mach) (x : Mismatch) : Cpl :=
  let p := x.pkt
  m.event 9 p.cid.toNat (m.logical p.origin) p.slot (x.class + 4 * p.kind + 8 * (p.step.toNat % 2 ^ 29))
    (p.origin + 2 ^ 17 * p.partner + 2 ^ 34 * x.referee.getD 0x1FFFF)

/-- VERDICT (R426, R427, R429): of the oldest mismatch, once its referee has run, or where there is no referee; it waits where firmware may not act on the suspect's field. -/
def verdictAt (slicePass : Bool) (m : Mach) : Mach :=
  match m.mismatches with
  | [] => m
  | x :: rest =>
    m.when ((x.refereeCrc.isSome || (m.refereeOf x.pkt).isNone) && m.mayAct x) fun m =>
      let p := x.pkt
      let e := m.verdictEvent x
      let m := ({ m with mismatches := rest }).raiseAll (((m.ctx p.cid.toNat).toList.map fun (y : Ctx) => y.owner) ++ pfs) e
      let m := if m.host.mgmtSeen then m.mgmtSend (cplBytes e 0 true) else m
      let m := (m.logRec 0x07 (fieldOf p.origin) p.cid.toNat (toBytes 8 e.res0.toNat ++ toBytes 16 e.res1.toNat)).logCount 0x68
      let m := m.onSlot p.origin p.slot fun v =>
        if v.ctl.st != SlotSt.empty && v.ctl.cid == p.cid then { v with ali := { v.ali with mismatch := inc64 v.ali.mismatch } } else v
      match x.suspect with
      | some c => m.suspectCore c slicePass
      | none => m

def execSentryPacket (c : CoreIx) (delta : BitVec 32) (s : State) : Host.Outcome State Fault Refusal := upd (sentryPacketAt c delta) s
def execRefereeRun (delta : BitVec 32) (s : State) : Host.Outcome State Fault Refusal := upd (refereeRunAt delta) s
def execVerdict (slicePass : Bool) (s : State) : Host.Outcome State Fault Refusal := upd (verdictAt slicePass) s

end Sys2Proof.Machine
end

