-- ==== Sys2Proof/Machine/Ports.lean ====
section
/-! DEFINITION. The module's ports: HOST_LINK_DOWN, HOST_LINK_UP, FUNCTION_LEVEL_RESET, PERST_N, HOST_PORT_IDLE, MGMT_SIGNAL_DETECT (R327,
R355, R447); the SMBus rows (R455); MGMT_DATAGRAM (R456); TAP_INSTRUCTION (R454). -/

namespace Sys2Proof.Machine

open Sys2Proof

/-! ## Host links (R327) -/

/-- The functions of a port. -/
def fnsOf (p : Nat) : List Nat := (List.range 256).map fun i => p * 256 + i

/-- Contexts whose owner meets a test pass to another function. -/
def Mach.passOwners (m : Mach) (from_ : Nat → Bool) (tgt : Nat) : Mach :=
  { m with ctxs := amap m.ctxs fun _ (x : Ctx) => { x with owner := if from_ x.owner then tgt else x.owner } }

/-- A command whose ring is gone: one not started is discarded, the others run on with no ring to answer on. -/
def orphan (y : Cmd) : Cmd :=
  match y.via with
  | .ring _ => { y with via := .ring 256, waiting := false }
  | _ => y

/-- The rings of a port's functions stop, with their commands that wait and their completions. -/
def Mach.dropRings (m : Mach) (p : Nat) : Mach :=
  let mine (y : Cmd) : Bool := portOf y.fn == p
  let ring (y : Cmd) : Bool := match y.via with
    | .ring _ => true
    | _ => false
  let cmds := (m.host.cmds.filter fun y => !(mine y && ring y && !y.started && y.result.isNone)).map fun y => if mine y then orphan y else y
  let fns := amap m.host.fns fun f (x : Fn) => if portOf f = p then { x with rings := [] } else x
  { m with host := { m.host with cmds := cmds, fns := fns } }

/-- A host port that goes down: its contexts pass to the other port's PF, or with both down all of them to the PF of port 0. -/
def Mach.linkDown (m : Mach) (p : Nat) : Mach :=
  let m := m.dropRings p
  let m := { m with host := { m.host with portUp := vset m.host.portUp p false } }
  if m.hostUp (1 - p) then m.passOwners (fun f => portOf f == p) ((1 - p) * 256) else m.passOwners (fun _ => true) 0

/-- HOST_LINK_DOWN (R327). -/
def hostLinkDownAt (p : Nat) (m : Mach) : Mach := m.when (m.hostUp p) fun m => m.linkDown p

/-- The power domain of a host port (R355). -/
def HostIf.dom (h : HostIf) (p : Nat) : Dom := if p = 0 then h.host0 else h.host1

def HostIf.setDom (h : HostIf) (p : Nat) (d : Dom) : HostIf := if p = 0 then { h with host0 := d } else { h with host1 := d }

/-- Events kept for the PF of port 0 move to another PF. -/
def Mach.passEvents (m : Mach) (tgt : Nat) : Mach :=
  if tgt = 0 then m
  else
    let x := m.fn 0
    let m := m.onFn 0 fun x => { x with raised := [], kept := [], lostEvents := 0 }
    m.onFn tgt fun y => { (x.kept.foldl Fn.keep y) with raised := y.raised ++ x.raised, lostEvents := (x.kept.foldl Fn.keep y).lostEvents + x.lostEvents }

/-- HOST_LINK_UP (R327, R355): with both ports down before, the contexts and the kept events pass to this port's PF. -/
def hostLinkUpAt (p : Nat) (m : Mach) : Mach :=
  m.when (!m.hostUp p && m.host.dom p != .off && 2 ≤ m.boot.stage) fun m =>
    let alone := !m.hostUp (1 - p)
    let host := m.host.setDom p .on
    let m := { m with host := { host with portUp := vset host.portUp p true } }
    if alone then ((m.passOwners (fun _ => true) (p * 256)).passEvents (p * 256)).flushEvents (p * 256) 300 else m

/-! ## Function Level Reset (R327, R447) -/

/-- Whether a context is part of a substitution under way (R418). -/
def Mach.ctxMoving (m : Mach) (x : Ctx) : Bool := m.wafer.subst.toList.any fun e => e.holding && x.slots.any fun s => s.core == e.orig

/-- A function reset: a CTX_RESET whose work is done completes, then rings and commands go, the registers of BAR0 are as at their reset,
and every context of the function is destroyed. -/
def Mach.resetFn (m : Mach) (f : Nat) : Mach :=
  let mine := m.host.cmds.filter fun y => y.fn == f
  let m := mine.foldl (fun m y => if y.opcode = 0x0102 && y.result.isSome then m.afterCompletion y else m) m
  let m := { m with host := { m.host with cmds := m.host.cmds.filter fun y => y.fn != f } }
  let m := m.onFn f fun x => { raised := x.raised, kept := x.kept, lostEvents := x.lostEvents, viols := x.viols }
  let own : AMap Ctx := m.ctxs.filter fun (e : Nat × Ctx) => e.2.owner == f
  own.foldl (fun (m : Mach) (e : Nat × Ctx) =>
    let m := m.destroyCtx e.1
    { m with ctxs := adel m.ctxs e.1 }) m

/-- FUNCTION_LEVEL_RESET (R327): firmware runs it once no substitution moves a context of the function. -/
def functionLevelResetAt (f : Nat) (m : Mach) : Mach :=
  m.when (f < mgmtFn && !(m.ctxs.any fun (e : Nat × Ctx) => e.2.owner == f && m.ctxMoving e.2)) fun m => m.resetFn f

/-- PERST_N (R447): a Function Level Reset of every function on a port. -/
def perstNAt (p : Nat) (m : Mach) : Mach :=
  m.when (!(m.ctxs.any fun (e : Nat × Ctx) => portOf e.2.owner == p && m.ctxMoving e.2)) fun m => (fnsOf p).foldl Mach.resetFn m

/-! ## Port domains (R355) -/

/-- HOST_PORT_IDLE (R355): a port with no link, or no signal, for 1 s. -/
def hostPortIdleAt (p : IdlePort) (m : Mach) : Mach :=
  match p with
  | .host0 => m.when (m.host.host0 == .on && !m.hostUp 0) fun m => { m with host := { m.host with host0 := .ret } }
  | .host1 => m.when (m.host.host1 == .on && !m.hostUp 1) fun m => { m with host := { m.host with host1 := .ret } }
  | .mgmt => m.when (m.host.mgmt == .on) fun m => { m with host := { m.host with mgmt := .ret, mgmtUp := false } }

/-- MGMT_SIGNAL_DETECT (R355). -/
def mgmtSignalDetectAt (m : Mach) : Mach :=
  m.when (m.host.mgmt == .ret) fun m => { m with host := { m.host with mgmt := .on, mgmtUp := true } }

/-! ## SMBus (R455) -/

/-- The WC serves the bus from the end of stage 1, and while a shutdown holds the rest of the device OFF. -/
def Mach.smbusUp (m : Mach) : Bool := 2 ≤ m.boot.stage || m.boot.off

/-- ST_STATE (R329). -/
def Mach.stState (m : Mach) : Nat :=
  let b := m.boot
  b2n b.ready + 2 * b2n b.minimal + 4 * b2n b.fault + 8 * b2n (!m.clk.synced) + 16 * b2n m.fabric.assigned + 32 * b.life.code + 256 * b.running +
    2 ^ 16 * b.fails + 2 ^ 24 * b.failStage + 2 ^ 32 * b.failReason.toNat

/-- The status page as a read of BAR0 finds it (R4, R329): before firmware runs, the values of the Reset column; the time is that of the last update. -/
def Mach.statusReg (m : Mach) (off : Nat) : Nat :=
  let up := 3 ≤ m.boot.stage
  match off with
  | 0x000 => 1 + (if up then 2 ^ 16 * siliconStep + 2 ^ 32 * Config.moduleRev.toNat + 2 ^ 40 * b2n m.boot.ac else 0)
  | 0x008 => if up then Config.moduleSerial.toNat else 0
  | 0x010 => m.boot.heartbeat.toNat
  | 0x018 => if up then m.stState else 8
  | 0x020 => m.host.stTime.toNat
  | 0x028 => if up then m.runningImage.version.toNat else 0
  | 0x030 => if up then m.power.cap / 10 + 2 ^ 16 * (m.power.draw / 10) else 0
  | 0x038 => if m.fabric.assigned then m.fabric.coord.toNat else 0
  | 0x040 => if up then m.wafer.gen.toNat else 0
  | _ => 0

/-- What a block read answers. -/
def Mach.smbusAnswer (m : Mach) (b : Bytes) : Mach := m.when m.smbusUp fun m => { m with host := { m.host with smbusOut := b } }

/-- A transaction that is not acknowledged: counted, with no effect. -/
def Mach.smbusRefuse (m : Mach) : Mach := { m with host := { m.host with smbusNack := m.host.smbusNack + 1 } }

def smbusStatusAt (m : Mach) : Mach := m.smbusAnswer (toBytes 6 m.stState)

/-- POWER: the input in mV, the draw and the effective cap in units of 10 W. -/
def smbusPowerAt (m : Mach) : Mach :=
  m.smbusAnswer (toBytes 2 m.power.vin ++ toBytes 2 (m.power.draw / 10) ++ toBytes 2 (m.power.effective / 10))

/-- THERMAL: inlet, outlet, hottest logic sensor and tier in °C, and the flow in 0.1 L/min. -/
def smbusThermalAt (m : Mach) : Mach :=
  let p := m.power
  m.smbusAnswer (toBytes 1 (ofInt 8 (p.inlet / 10)) ++ toBytes 1 (ofInt 8 (p.outlet / 10)) ++ toBytes 1 (ofInt 8 p.logicT) ++
    toBytes 1 (ofInt 8 p.tierT) ++ toBytes 2 p.flow)

/-- RECOVER: while READY is asserted, and in minimal mode. -/
def smbusRecoverAt (key : BitVec 8) (m : Mach) : Mach :=
  m.when m.smbusUp fun m =>
    if key = 0xA5 && (m.boot.ready || m.boot.minimal) then m.needRecovery else m.smbusRefuse

/-- RESET: the device starts from stage 2 with FAILS clear; only the input limits of R379 go before it. -/
def smbusResetAt (key : BitVec 8) (m : Mach) : Mach :=
  m.when m.smbusUp fun m =>
    if key ≠ 0x5A then m.smbusRefuse
    else if m.boot.off && !m.boot.hotOff then m
    else (m.afresh 2 true).pins fun b => { b with fails := 0, off := false, hotOff := false, noImage := false }

/-- A host port's domain switched OFF: the link goes, and with it configuration and BAR0 state. -/
def Mach.hostOff (m : Mach) (p : Nat) : Mach :=
  let m := m.linkDown p
  let mbx (y : Cmd) : Bool := portOf y.fn == p && y.via == .mailbox
  let cmds := (m.host.cmds.filter fun y => !(mbx y && !y.started && y.result.isNone)).map fun y => if mbx y then { y with via := .ring 256 } else y
  let bare (f : Nat) (x : Fn) : Fn :=
    if portOf f = p then { raised := x.raised, kept := x.kept, lostEvents := x.lostEvents, viols := x.viols } else x
  let host := { m.host with cmds := cmds, fns := amap m.host.fns bare }
  { m with host := host.setDom p .off }

/-- A bit of PORTS at a host port: 1 switches its domain OFF, 0 brings it ON. -/
def Mach.portBit (m : Mach) (p : Nat) (off : Bool) : Mach :=
  if off then (if m.host.dom p = .off then m else m.hostOff p)
  else if m.host.dom p = .off then { m with host := m.host.setDom p .on } else m

/-- PORTS: bits [7:3] must be 0. -/
def smbusPortsAt (v : BitVec 8) (m : Mach) : Mach :=
  m.when m.smbusUp fun m =>
    if 8 ≤ v.toNat then m.smbusRefuse
    else
      let m := (m.portBit 0 (bitOf v.toNat 0)).portBit 1 (bitOf v.toNat 1)
      if bitOf v.toNat 2 then { m with host := { m.host with mgmt := .off, mgmtUp := false } }
      else { m with host := { m.host with mgmt := if m.host.mgmt = .off then .on else m.host.mgmt } }

/-- A read of the Alert Response Address releases ALERT_N. -/
def smbusAlertAt (m : Mach) : Mach := m.when m.smbusUp fun m => { m with boot := { m.boot with alert := false } }

/-- A PEC error, a code not listed or a wrong key. -/
def smbusUnacknowledgedAt (m : Mach) : Mach := m.when m.smbusUp Mach.smbusRefuse

/-! ## The management port (R456) and the TAP (R454) -/

/-- MGMT_DATAGRAM (R456): one whose tag fails is discarded and counted; any other is a command with PF rights. -/
def mgmtDatagramAt (seq : BitVec 32) (entry data : Bytes) (authentic : Bool) (m : Mach) : Mach :=
  m.when (2 ≤ m.boot.stage && m.host.mgmt == .on && data.length ≤ 1024) fun m =>
    if !authentic then { m with host := { m.host with mgmtBad := m.host.mgmtBad + 1, mgmtUp := true } }
    else ({ m with host := { m.host with mgmtSeen := true, mgmtUp := true } }).submit mgmtFn (.mgmt seq) entry data false

/-- Whether the TAP accepts an instruction (R454). -/
def Mach.tapAccepts (m : Mach) (i : TapIns) : Bool :=
  match i with
  | .bypass | .idcode | .sample => true
  | .extest => (m.boot.life == .manufacture || m.boot.life == .service) && !m.boot.ready
  | .privateScan => m.boot.life == .manufacture

/-- TAP_INSTRUCTION (R454): one that is not accepted acts as BYPASS. -/
def tapInstructionAt (i : TapIns) (m : Mach) : Mach :=
  { m with host := { m.host with tapIns := if m.tapAccepts i then i else .bypass } }

/-- What the data register that the TAP's instruction selects holds when it is read (R454): the IDCODE, or BYPASS's one bit of 0. The
spec gives neither the order of the boundary-scan register nor the private registers (log 73). -/
def Mach.tapReads (m : Mach) : Option Nat :=
  match m.host.tapIns with
  | .idcode => some 0x1B31A4F7
  | .bypass => some 0
  | .sample | .extest | .privateScan => none

def execHostLinkDown (p : Fin 2) (s : State) : Host.Outcome State Fault Refusal := upd (hostLinkDownAt p) s
def execHostLinkUp (p : Fin 2) (s : State) : Host.Outcome State Fault Refusal := upd (hostLinkUpAt p) s
def execFunctionLevelReset (f : FnIx) (s : State) : Host.Outcome State Fault Refusal := upd (functionLevelResetAt f) s
def execPerstN (p : Fin 2) (s : State) : Host.Outcome State Fault Refusal := upd (perstNAt p) s
def execHostPortIdle (p : IdlePort) (s : State) : Host.Outcome State Fault Refusal := upd (hostPortIdleAt p) s
def execMgmtSignalDetect (s : State) : Host.Outcome State Fault Refusal := upd mgmtSignalDetectAt s
def execSmbusStatus (s : State) : Host.Outcome State Fault Refusal := upd smbusStatusAt s
def execSmbusPower (s : State) : Host.Outcome State Fault Refusal := upd smbusPowerAt s
def execSmbusThermal (s : State) : Host.Outcome State Fault Refusal := upd smbusThermalAt s
def execSmbusRecover (key : BitVec 8) (s : State) : Host.Outcome State Fault Refusal := upd (smbusRecoverAt key) s
def execSmbusReset (key : BitVec 8) (s : State) : Host.Outcome State Fault Refusal := upd (smbusResetAt key) s
def execSmbusPorts (v : BitVec 8) (s : State) : Host.Outcome State Fault Refusal := upd (smbusPortsAt v) s
def execSmbusAlertResponse (s : State) : Host.Outcome State Fault Refusal := upd smbusAlertAt s
def execSmbusUnacknowledged (s : State) : Host.Outcome State Fault Refusal := upd smbusUnacknowledgedAt s
def execMgmtDatagram (seq : BitVec 32) (entry data : Bytes) (authentic : Bool) (s : State) : Host.Outcome State Fault Refusal :=
  upd (mgmtDatagramAt seq entry data authentic) s
def execTapInstruction (i : TapIns) (s : State) : Host.Outcome State Fault Refusal := upd (tapInstructionAt i) s

end Sys2Proof.Machine
end

