-- ==== Sys2Proof/Machine/Dispatch.lean ====
section
/-! DEFINITION. The dispatch of the commands: one arm per constructor of Instr, each a direct call of its meaning. -/

namespace Sys2Proof.Machine

open Sys2Proof

/-- A command's effect on everything but the queue. -/
def exec (i : Instr) (s : State) : Host.Outcome State Fault Refusal :=
  match i with
  | .bundleIssue c => Sys2Proof.Machine.execBundleIssue c s
  | .issueRoundStart c => Sys2Proof.Machine.execIssueRoundStart c s
  | .tileLdComplete c => Sys2Proof.Machine.execTileLdComplete c s
  | .tileMacComplete c => Sys2Proof.Machine.execTileMacComplete c s
  | .tileStComplete c => Sys2Proof.Machine.execTileStComplete c s
  | .moverGranule c => Sys2Proof.Machine.execMoverGranule c s
  | .moverDescriptorComplete c sl => Sys2Proof.Machine.execMoverDescriptorComplete c sl s
  | .moverDescriptorFault c sl => Sys2Proof.Machine.execMoverDescriptorFault c sl s
  | .cacheLineFill c => Sys2Proof.Machine.execCacheLineFill c s
  | .timerExpiry c sl => Sys2Proof.Machine.execTimerExpiry c sl s
  | .pwrIsoRelWrite c v => Sys2Proof.Machine.execPwrIsoRelWrite c v s
  | .csrWrite p off v => Sys2Proof.Machine.execCsrWrite p off v s
  | .slotWake c sl => Sys2Proof.Machine.execSlotWake c sl s
  | .slotWakeReturn c sl => Sys2Proof.Machine.execSlotWakeReturn c sl s
  | .slotQuiesce c sl => Sys2Proof.Machine.execSlotQuiesce c sl s
  | .slotResume c sl => Sys2Proof.Machine.execSlotResume c sl s
  | .flitForward c p ch det ev => Sys2Proof.Machine.execFlitForward c p ch det ev s
  | .meshWrite c ch => Sys2Proof.Machine.execMeshWrite c ch s
  | .meshRead c => Sys2Proof.Machine.execMeshRead c s
  | .meshMsg c ch => Sys2Proof.Machine.execMeshMsg c ch s
  | .meshSignal c => Sys2Proof.Machine.execMeshSignal c s
  | .meshData c ch => Sys2Proof.Machine.execMeshData c ch s
  | .meshAck c => Sys2Proof.Machine.execMeshAck c s
  | .meshNote c => Sys2Proof.Machine.execMeshNote c s
  | .huddleRepeatRelease c h => Sys2Proof.Machine.execHuddleRepeatRelease c h s
  | .hudWaitTimeout c sl => Sys2Proof.Machine.execHudWaitTimeout c sl s
  | .heldMessageLand c ch => Sys2Proof.Machine.execHeldMessageLand c ch s
  | .queueStall c ch => Sys2Proof.Machine.execQueueStall c ch s
  | .holdcapHalt c q => Sys2Proof.Machine.execHoldcapHalt c q s
  | .letReplay c p ev => Sys2Proof.Machine.execLetReplay c p ev s
  | .linkRetrainDone c p width => Sys2Proof.Machine.execLinkRetrainDone c p width s
  | .detourUpdate c entries proved => Sys2Proof.Machine.execDetourUpdate c entries proved s
  | .flitAgePromotion c p ch det => Sys2Proof.Machine.execFlitAgePromotion c p ch det s
  | .routerSample c => Sys2Proof.Machine.execRouterSample c s
  | .stallIdleEntry c => Sys2Proof.Machine.execStallIdleEntry c s
  | .stallIdleExit c => Sys2Proof.Machine.execStallIdleExit c s
  | .throttleRampStep c => Sys2Proof.Machine.execThrottleRampStep c s
  | .nodeFire c => Sys2Proof.Machine.execNodeFire c s
  | .steerFire c sl u => Sys2Proof.Machine.execSteerFire c sl u s
  | .detectorWindow c sl => Sys2Proof.Machine.execDetectorWindow c sl s
  | .probeReturn c sl lost => Sys2Proof.Machine.execProbeReturn c sl lost s
  | .traceReturn c sl => Sys2Proof.Machine.execTraceReturn c sl s
  | .spillOrder c q => Sys2Proof.Machine.execSpillOrder c q s
  | .spill c q => Sys2Proof.Machine.execSpill c q s
  | .append c ch => Sys2Proof.Machine.execAppend c ch s
  | .refill c q => Sys2Proof.Machine.execRefill c q s
  | .depthSample c sl => Sys2Proof.Machine.execDepthSample c sl s
  | .bucketRefill b => Sys2Proof.Machine.execBucketRefill b s
  | .reachRecompute cid => Sys2Proof.Machine.execReachRecompute cid s
  | .replaceRequiredRepeat cid => Sys2Proof.Machine.execReplaceRequiredRepeat cid s
  | .hangLimit cid => Sys2Proof.Machine.execHangLimit cid s
  | .ringCreate f tag => Sys2Proof.Machine.execRingCreate f tag s
  | .ringDestroy f tag => Sys2Proof.Machine.execRingDestroy f tag s
  | .dbCmdTailWrite f r v entries => Sys2Proof.Machine.execDbCmdTailWrite f r v entries s
  | .dbCplHeadWrite f r v => Sys2Proof.Machine.execDbCplHeadWrite f r v s
  | .mbDoorbell f v => Sys2Proof.Machine.execMbDoorbell f v s
  | .mbStatusRead f => Sys2Proof.Machine.execMbStatusRead f s
  | .bar0ReservedWrite f off => Sys2Proof.Machine.execBar0ReservedWrite f off s
  | .commandCompletion f tag ok => Sys2Proof.Machine.execCommandCompletion f tag ok s
  | .interruptCoalesce f r => Sys2Proof.Machine.execInterruptCoalesce f r s
  | .eventPost f => Sys2Proof.Machine.execEventPost f s
  | .ctxCreate f tag => Sys2Proof.Machine.execCtxCreate f tag s
  | .ctxConfigure f tag data => Sys2Proof.Machine.execCtxConfigure f tag data s
  | .ctxReset f tag => Sys2Proof.Machine.execCtxReset f tag s
  | .ctxDestroy f tag => Sys2Proof.Machine.execCtxDestroy f tag s
  | .loadHostToMemory f tag data => Sys2Proof.Machine.execLoadHostToMemory f tag data s
  | .loadMemoryToHost f tag ok => Sys2Proof.Machine.execLoadMemoryToHost f tag ok s
  | .loadFlowRegion f tag data => Sys2Proof.Machine.execLoadFlowRegion f tag data s
  | .loadMessage f tag data => Sys2Proof.Machine.execLoadMessage f tag data s
  | .launchAll f tag => Sys2Proof.Machine.execLaunchAll f tag s
  | .launchList f tag data => Sys2Proof.Machine.execLaunchList f tag data s
  | .launchRegion f tag => Sys2Proof.Machine.execLaunchRegion f tag s
  | .stepWait f tag => Sys2Proof.Machine.execStepWait f tag s
  | .stepWaitDone f tag => Sys2Proof.Machine.execStepWaitDone f tag s
  | .ckptSaveHost f tag ok => Sys2Proof.Machine.execCkptSaveHost f tag ok s
  | .ckptSaveFabric f tag => Sys2Proof.Machine.execCkptSaveFabric f tag s
  | .ckptRestore f tag data => Sys2Proof.Machine.execCkptRestore f tag data s
  | .logOpen f tag twin => Sys2Proof.Machine.execLogOpen f tag twin s
  | .logTrim f tag => Sys2Proof.Machine.execLogTrim f tag s
  | .logRead f tag ok => Sys2Proof.Machine.execLogRead f tag ok s
  | .logClose f tag => Sys2Proof.Machine.execLogClose f tag s
  | .logWrite cid queue srcc jobtag time data => Sys2Proof.Machine.execLogWrite cid queue srcc jobtag time data s
  | .floorplanGet f tag ok => Sys2Proof.Machine.execFloorplanGet f tag ok s
  | .floorplanChange => Sys2Proof.Machine.execFloorplanChange s
  | .telemReadRouters f tag ok => Sys2Proof.Machine.execTelemReadRouters f tag ok s
  | .telemReadProgress f tag ok => Sys2Proof.Machine.execTelemReadProgress f tag ok s
  | .telemReadFlow f tag ok => Sys2Proof.Machine.execTelemReadFlow f tag ok s
  | .telemReadMargins f tag ok => Sys2Proof.Machine.execTelemReadMargins f tag ok s
  | .telemReadPorts f tag ok => Sys2Proof.Machine.execTelemReadPorts f tag ok s
  | .pwrCapSet f tag => Sys2Proof.Machine.execPwrCapSet f tag s
  | .pwrGet f tag ok => Sys2Proof.Machine.execPwrGet f tag ok s
  | .fabricNeighbours f tag ok => Sys2Proof.Machine.execFabricNeighbours f tag ok s
  | .fabricAssign f tag => Sys2Proof.Machine.execFabricAssign f tag s
  | .fabricSetFtimeout f tag => Sys2Proof.Machine.execFabricSetFtimeout f tag s
  | .fabricSetFoulMax f tag => Sys2Proof.Machine.execFabricSetFoulMax f tag s
  | .fabricSetTransitShare f tag => Sys2Proof.Machine.execFabricSetTransitShare f tag s
  | .fabricSetTimeMaster f tag => Sys2Proof.Machine.execFabricSetTimeMaster f tag s
  | .fabricSetDetours f tag data => Sys2Proof.Machine.execFabricSetDetours f tag data s
  | .fabricLinkHold f tag => Sys2Proof.Machine.execFabricLinkHold f tag s
  | .fabricLinkRetrain f tag => Sys2Proof.Machine.execFabricLinkRetrain f tag s
  | .fabricLinkLeave f tag => Sys2Proof.Machine.execFabricLinkLeave f tag s
  | .fabricLinkJoin f tag => Sys2Proof.Machine.execFabricLinkJoin f tag s
  | .fabricLinkUnquarantine f tag => Sys2Proof.Machine.execFabricLinkUnquarantine f tag s
  | .fabricJobtag f tag data => Sys2Proof.Machine.execFabricJobtag f tag data s
  | .fabricMessageReceive e frame => Sys2Proof.Machine.execFabricMessageReceive e frame s
  | .frameTransit e frame => Sys2Proof.Machine.execFrameTransit e frame s
  | .fabricAttachmentSend c => Sys2Proof.Machine.execFabricAttachmentSend c s
  | .fabricTimeout id => Sys2Proof.Machine.execFabricTimeout id s
  | .credit e payload => Sys2Proof.Machine.execCredit e payload s
  | .fabricLet e payload => Sys2Proof.Machine.execFabricLet e payload s
  | .frameError e cause chan => Sys2Proof.Machine.execFrameError e cause chan s
  | .hold e value => Sys2Proof.Machine.execHold e value s
  | .holdExpiry e ch => Sys2Proof.Machine.execHoldExpiry e ch s
  | .foul e code frame => Sys2Proof.Machine.execFoul e code frame s
  | .foulFrameReceive e payload => Sys2Proof.Machine.execFoulFrameReceive e payload s
  | .retrain e value => Sys2Proof.Machine.execRetrain e value s
  | .retrainLocalCause e cause => Sys2Proof.Machine.execRetrainLocalCause e cause s
  | .retrainReqResend e => Sys2Proof.Machine.execRetrainReqResend e s
  | .engineTrainDone e lanes => Sys2Proof.Machine.execEngineTrainDone e lanes s
  | .engineQualifyDone e uncorrectable overLimit => Sys2Proof.Machine.execEngineQualifyDone e uncorrectable overLimit s
  | .engineSetDrainDone p => Sys2Proof.Machine.execEngineSetDrainDone p s
  | .ident e payload => Sys2Proof.Machine.execIdent e payload s
  | .identSend e => Sys2Proof.Machine.execIdentSend e s
  | .timeSync t1 t2 t3 t4 => Sys2Proof.Machine.execTimeSync t1 t2 t3 t4 s
  | .syncLost => Sys2Proof.Machine.execSyncLost s
  | .debugHalt f tag => Sys2Proof.Machine.execDebugHalt f tag s
  | .debugHudSet f tag => Sys2Proof.Machine.execDebugHudSet f tag s
  | .debugRead f tag ok => Sys2Proof.Machine.execDebugRead f tag ok s
  | .debugTraceConfigure f tag data => Sys2Proof.Machine.execDebugTraceConfigure f tag data s
  | .debugTraceArm f tag => Sys2Proof.Machine.execDebugTraceArm f tag s
  | .debugTraceDisarm f tag => Sys2Proof.Machine.execDebugTraceDisarm f tag s
  | .debugTraceRead f tag => Sys2Proof.Machine.execDebugTraceRead f tag s
  | .traceSample f src mark data => Sys2Proof.Machine.execTraceSample f src mark data s
  | .traceRearm f => Sys2Proof.Machine.execTraceRearm f s
  | .lifecycleGet f tag ok => Sys2Proof.Machine.execLifecycleGet f tag ok s
  | .lifecycleSet f tag => Sys2Proof.Machine.execLifecycleSet f tag s
  | .restartRequest f tag => Sys2Proof.Machine.execRestartRequest f tag s
  | .lifecycleImage f tag data sig => Sys2Proof.Machine.execLifecycleImage f tag data sig s
  | .lifecycleServiceRetire f tag => Sys2Proof.Machine.execLifecycleServiceRetire f tag s
  | .lifecycleServiceDeepBist f tag found => Sys2Proof.Machine.execLifecycleServiceDeepBist f tag found s
  | .hostLinkDown p => Sys2Proof.Machine.execHostLinkDown p s
  | .hostLinkUp p => Sys2Proof.Machine.execHostLinkUp p s
  | .functionLevelReset f => Sys2Proof.Machine.execFunctionLevelReset f s
  | .perstN p => Sys2Proof.Machine.execPerstN p s
  | .hostPortIdle p => Sys2Proof.Machine.execHostPortIdle p s
  | .stHeartbeatTick => Sys2Proof.Machine.execStHeartbeatTick s
  | .stTimeUpdate => Sys2Proof.Machine.execStTimeUpdate s
  | .commitWindowEnd c => Sys2Proof.Machine.execCommitWindowEnd c s
  | .coreWakeByFlit c => Sys2Proof.Machine.execCoreWakeByFlit c s
  | .emptyCoreBringup c => Sys2Proof.Machine.execEmptyCoreBringup c s
  | .tierSelfRefreshEntry c t => Sys2Proof.Machine.execTierSelfRefreshEntry c t s
  | .tierWake c t => Sys2Proof.Machine.execTierWake c t s
  | .tierTemperatureChange c t deg => Sys2Proof.Machine.execTierTemperatureChange c t deg s
  | .fieldSleepStart f => Sys2Proof.Machine.execFieldSleepStart f s
  | .prepare c answered => Sys2Proof.Machine.execPrepare c answered s
  | .fieldSleepCommit f => Sys2Proof.Machine.execFieldSleepCommit f s
  | .fieldSleepAbort f => Sys2Proof.Machine.execFieldSleepAbort f s
  | .fieldWake f => Sys2Proof.Machine.execFieldWake f s
  | .budgetCompute fixedW drawW protectedW fieldDraw => Sys2Proof.Machine.execBudgetCompute fixedW drawW protectedW fieldDraw s
  | .throttleAdjust f drawW => Sys2Proof.Machine.execThrottleAdjust f drawW s
  | .inputLow mv => Sys2Proof.Machine.execInputLow mv s
  | .inputUndervoltage mv => Sys2Proof.Machine.execInputUndervoltage mv s
  | .inputHigh mv => Sys2Proof.Machine.execInputHigh mv s
  | .inputOvervoltage mv => Sys2Proof.Machine.execInputOvervoltage mv s
  | .inputRestored mv => Sys2Proof.Machine.execInputRestored mv s
  | .referenceLoss => Sys2Proof.Machine.execReferenceLoss s
  | .holdoverTimeout => Sys2Proof.Machine.execHoldoverTimeout s
  | .referenceReturn => Sys2Proof.Machine.execReferenceReturn s
  | .thermalLimit inlet outlet flow logic tier => Sys2Proof.Machine.execThermalLimit inlet outlet flow logic tier s
  | .thermalShutdown logic tier => Sys2Proof.Machine.execThermalShutdown logic tier s
  | .thermalRestart hottest inlet flow => Sys2Proof.Machine.execThermalRestart hottest inlet flow s
  | .powerGood mv => Sys2Proof.Machine.execPowerGood mv s
  | .rootPllLock bistOk => Sys2Proof.Machine.execRootPllLock bistOk s
  | .boot found => Sys2Proof.Machine.execBoot found s
  | .kickoffWave k good => Sys2Proof.Machine.execKickoffWave k good s
  | .startBist fcBad ringBad pllOk found => Sys2Proof.Machine.execStartBist fcBad ringBad pllOk found s
  | .dramTraining inFull failed domainBad => Sys2Proof.Machine.execDramTraining inFull failed domainBad s
  | .linkTraining trained => Sys2Proof.Machine.execLinkTraining trained s
  | .linkQualification outcome => Sys2Proof.Machine.execLinkQualification outcome s
  | .readyStage flashOk => Sys2Proof.Machine.execReadyStage flashOk s
  | .stageTimeout => Sys2Proof.Machine.execStageTimeout s
  | .startFailure => Sys2Proof.Machine.execStartFailure s
  | .startRetry => Sys2Proof.Machine.execStartRetry s
  | .wholeDeviceRecovery inFull inTime => Sys2Proof.Machine.execWholeDeviceRecovery inFull inTime s
  | .wcWatchdogExpiry => Sys2Proof.Machine.execWcWatchdogExpiry s
  | .rotationSlice u pass => Sys2Proof.Machine.execRotationSlice u pass s
  | .analogueCheck f k pass cores => Sys2Proof.Machine.execAnalogueCheck f k pass cores s
  | .benchEngineLoopback f pass => Sys2Proof.Machine.execBenchEngineLoopback f pass s
  | .substitution c reason => Sys2Proof.Machine.execSubstitution c reason s
  | .substEntryInvalidate ix => Sys2Proof.Machine.execSubstEntryInvalidate ix s
  | .lostCore c reason lost => Sys2Proof.Machine.execLostCore c reason lost s
  | .benchEngineStandIn f lanes => Sys2Proof.Machine.execBenchEngineStandIn f lanes s
  | .scrubCodeword c t found => Sys2Proof.Machine.execScrubCodeword c t found s
  | .scrubOverdue c t => Sys2Proof.Machine.execScrubOverdue c t s
  | .bitLineRepair c t sa col => Sys2Proof.Machine.execBitLineRepair c t sa col s
  | .rowRepair c t sa row => Sys2Proof.Machine.execRowRepair c t sa row s
  | .sentryPacket c delta => Sys2Proof.Machine.execSentryPacket c delta s
  | .refereeRun delta => Sys2Proof.Machine.execRefereeRun delta s
  | .verdict slicePass => Sys2Proof.Machine.execVerdict slicePass s
  | .marginReading r => Sys2Proof.Machine.execMarginReading r s
  | .dailyMarginRecord => Sys2Proof.Machine.execDailyMarginRecord s
  | .fcHeartbeat f => Sys2Proof.Machine.execFcHeartbeat f s
  | .fcHang f => Sys2Proof.Machine.execFcHang f s
  | .fcRestart f resumed => Sys2Proof.Machine.execFcRestart f resumed s
  | .smbusStatus => Sys2Proof.Machine.execSmbusStatus s
  | .smbusPower => Sys2Proof.Machine.execSmbusPower s
  | .smbusThermal => Sys2Proof.Machine.execSmbusThermal s
  | .smbusRecover key => Sys2Proof.Machine.execSmbusRecover key s
  | .smbusReset key => Sys2Proof.Machine.execSmbusReset key s
  | .smbusPorts v => Sys2Proof.Machine.execSmbusPorts v s
  | .smbusAlertResponse => Sys2Proof.Machine.execSmbusAlertResponse s
  | .mgmtDatagram seq entry data authentic => Sys2Proof.Machine.execMgmtDatagram seq entry data authentic s
  | .tapInstruction ix => Sys2Proof.Machine.execTapInstruction ix s
  | .tileZeroComplete c => Sys2Proof.Machine.execTileZeroComplete c s
  | .localUnderBankAccess c => Sys2Proof.Machine.execLocalUnderBankAccess c s
  | .startReferenceAbsent => Sys2Proof.Machine.execStartReferenceAbsent s
  | .lightSignalDetect f => Sys2Proof.Machine.execLightSignalDetect f s
  | .mgmtSignalDetect => Sys2Proof.Machine.execMgmtSignalDetect s
  | .inputPowerLoss => Sys2Proof.Machine.execInputPowerLoss s
  | .onwardLinkWaitExpiry p => Sys2Proof.Machine.execOnwardLinkWaitExpiry p s
  | .smbusUnacknowledged => Sys2Proof.Machine.execSmbusUnacknowledged s

end Sys2Proof.Machine
end

