-- ==== Sys2Proof/Safety.lean ====
section
/-! DEFINITION. What the claims take a sound state to be, and the words they are stated in: the state a command answers, and a
host command whose turn it is. -/

namespace Sys2Proof.Machine

open Sys2Proof

/-- A core's two memories are canonical. -/
def Core.memWf (k : Core) : Bool := Memory.wf k.sram && Memory.wf k.ub

/-- Every memory of the module and what the device has written of host memory are canonical. -/
def Mach.memWf (m : Mach) : Bool := (m.cores.all fun e => e.2.memWf) && Memory.wf m.host.mem

/-- The invariant that every step keeps. -/
def State.Inv (s : State) : Prop := s.m.memWf = true

/-- The state with the queue of s and the module m, its memories in canonical form: each byte reads as it does in m, and
everything else is as in m. -/
def State.to (s : State) (m : Mach) : State := { s with m := m.canon }

/-- Two cores alike in every register, table and buffer and in every byte of both memories. -/
def Core.Same (k k' : Core) : Prop :=
  { k with sram := [], ub := [] } = { k' with sram := [], ub := [] } ∧
  ∀ a, memByte k.sram a = memByte k'.sram a ∧ memByte k.ub a = memByte k'.ub a

/-- A host command x of function f with a tag and an opcode that has arrived, is not answered, and whose turn it is to be
carried out (R332, R334). -/
structure Mach.Turn (m : Mach) (f tag op : Nat) (x : Cmd) : Prop where
  found : m.cmdFor f tag op = some x
  fresh : x.started = false
  turn : m.mayStart x = true

/-- The module once firmware has begun a host command. -/
def Mach.begun (m : Mach) (x : Cmd) : Mach := m.onCmd x.order fun y => { y with started := true, since := m.cc }

end Sys2Proof.Machine
end

