-- ==== Sys2Proof/Certificates/Slice0/Obligations.lean ====
section
/-! DEFINITION. The claims about the Terino W1 module. A claim that a command answers `s.to m'` says all that the command
does: the queue is as it was, every register, table and buffer of the next state is that of m', and every byte of memory
reads as in m' (Obligations.CanonicalReads). Each docstring names the rules it formalises. -/

open Sys2Proof Sys2Proof.Machine

/-! ## The block as a whole -/

/-- The command at the front of the queue is what a step runs, with the rest of the queue left to wait; an idle step ends the
cycle, starts the next and carries on what firmware's repairs have left to do (log 1). -/
def Obligations.StepRunsTheFrontCommand : Prop :=
  (∀ (i : Instr) (s : State), step { s with pending := i :: s.pending } = exec i s) ∧
  (∀ (s : State), s.pending = [] → step s = .next (s.to (idle s.m)))

/-- The memories keep their canonical form: addresses strictly rising and no byte listed that an unlisted address reads as.
(Choices of the model: log 5.) -/
def Obligations.EveryStepKeepsMemoryCanonical : Prop :=
  ∀ (s t : State), s.Inv → step s = .next t → t.Inv

/-- The state at power-on meets the invariant, with no command waiting and every pin and status at its value before input
power is good (R382). (Choices of the model: log 4.) -/
def Obligations.ResetMeetsTheInvariant : Prop :=
  State.reset.Inv ∧ State.reset.pending = [] ∧ State.reset.m.boot.stage = 0 ∧ State.reset.m.boot.ready = false ∧
  State.reset.m.clk.tclk = 0 ∧ State.reset.m.clk.locked = false ∧ State.reset.m.ctxs = [] ∧
  (∀ f : Nat, f < 56 → (State.reset.m.field f).ring = .off ∧ (State.reset.m.field f).light = .off)

/-- The canonical form changes no byte that is read and nothing else, and a sound module is left as it is. Sparse memory
behaves as memory: a read gives what was written, every byte outside the written ones is as before, and a write keeps the
canonical form. (Choices of the model: log 5.) -/
def Obligations.MemoriesReadWhatWasWritten : Prop :=
  ((∀ (m : Mach) (c : Nat), Core.Same (m.canon.core c) (m.core c)) ∧
   (∀ (m : Mach) (a : Nat), memByte m.canon.host.mem a = memByte m.host.mem a) ∧
   (∀ m : Mach, { m.canon with cores := m.cores, host := m.host } = m ∧
     { m.canon.host with mem := m.host.mem } = m.host) ∧
   (∀ m : Mach, m.memWf = true → m.canon = m)) ∧
  (∀ (m : Mem) (a : Nat) (bs : Bytes),
     memRead (memWrite m a bs) a bs.length = bs ∧
     (∀ x, (x < a ∨ a + bs.length ≤ x) → memByte (memWrite m a bs) x = memByte m x) ∧
     (Memory.wf m = true → Memory.wf (memWrite m a bs) = true))

/-! ## The sequencer and the bundle -/

/-- BUNDLE_ISSUE (R52, R56, R58): where the cycle's round-robin takes a slot that holds no plane, whose SLOT_PC lies in its
scratchpad window, whose bundle is in the fetch buffer, raises no fault and holds no poisoned word, the bundle's parts take
effect in that cycle, and the issue is counted, as spare where it was one, and reaches the field's trace unit. A cycle whose
round-robin takes no slot is counted all the same. Cells of the core's memory found in error by the reads of the command
(R167, R168) are in error before it. (Choices of the model: log 12, log 13, log 35.) -/
def Obligations.BundleIssueRunsTheBundle : Prop :=
  (∀ (s : State) (c : CoreIx) (sl b : Nat) (spare : Bool),
    let m := (s.m.issueCycle c).2
    let v := (m.core c).slot sl
    (s.m.issueCycle c).1 = some (sl, spare) → s.m.isPlane c sl = false →
    (∃ o, spadAt v.ctl v.ctl.pc.toNat 16 = some o ∧ m.spadPoison c o 16 = none) →
    v.bundle = some b → m.bundleFault c sl b = none →
    exec (.bundleIssue ⟨c, []⟩) s = .next (s.to (((m.runBundle c sl b false).countIssue c sl spare).traceIssue c sl v.ctl.pc.toNat b))) ∧
  (∀ (s : State) (c : CoreIx), (s.m.issueCycle c).1 = none →
    exec (.bundleIssue ⟨c, []⟩) s = .next (s.to (s.m.issueCycle c).2)) ∧
  (∀ (s : State) (c : CoreIx) (cells : List CellErr), cells ≠ [] →
    let t : State := { s with m := s.m.onCore c fun k => cells.foldl Core.cellErr k }
    exec (.bundleIssue ⟨c, cells⟩) s = exec (.bundleIssue ⟨c, []⟩) t ∧ exec (.nodeFire ⟨c, cells⟩) s = exec (.nodeFire ⟨c, []⟩) t ∧
    exec (.moverGranule ⟨c, cells⟩) s = exec (.moverGranule ⟨c, []⟩) t ∧
    exec (.localUnderBankAccess ⟨c, cells⟩) s = exec (.localUnderBankAccess ⟨c, []⟩) t ∧
    exec (.cacheLineFill ⟨c, cells⟩) s = exec (.cacheLineFill ⟨c, []⟩) t)

/-- A bundle whose fetch lies outside the window takes the offside fault, precise, and nothing of it takes effect (R58, R64):
SLOT_FAULT_PC holds the address outside the window and SLOT_PC stays. A bundle with STOP = 1 and no live part (R73): the slot
enters HALTED with CAUSE 0x00, SLOT_PC holds the bundle after it, and registers, memory, queues and huddles stay as they are. -/
def Obligations.FetchFaultsAndStops : Prop :=
  (∀ (m : Mach) (c sl : Nat) (spare : Bool), sl < 4 → ((m.core c).slot sl).ctl.st = .running → m.resetting c sl = false →
     spadAt ((m.core c).slot sl).ctl ((m.core c).slot sl).ctl.pc.toNat 16 = none →
     let v := (m.core c).slot sl
     let w := ((m.issueBundle c sl spare).core c).slot sl
     w.ctl = { v.ctl with st := .halted, block := 10, cause := 1, imprecise := false,
                          faultPc := v.ctl.pc, faultAddr := 0 } ∧ w.arch = v.arch ∧
     ((m.issueBundle c sl spare).core c).sram = (m.core c).sram ∧ ((m.issueBundle c sl spare).core c).ub = (m.core c).ub) ∧
  (∀ (m : Mach) (c sl b : Nat), sl < 4 → bStop b = true →
     sLive ((m.core c).slot sl).arch b = false → vLive ((m.core c).slot sl).arch b = false →
     tLive ((m.core c).slot sl).arch b = false → popsOf ((m.core c).slot sl).arch b = ([], [], []) →
     let v := (m.core c).slot sl
     let m' := m.runBundle c sl b false
     let w := (m'.core c).slot sl
     w.ctl = { v.ctl with pc := v.ctl.pc + 16, st := .halted, block := 10, cause := 0, imprecise := false, more := false } ∧
     w.arch = v.arch ∧ (m'.core c).sram = (m.core c).sram ∧ (m'.core c).ub = (m.core c).ub ∧
     (m'.core c).queues = (m.core c).queues ∧ (m'.core c).huddles = (m.core c).huddles ∧
     (∀ d, d ≠ c → m'.core d = m.core d))

/-- ISSUE_ROUND_START (R56): at the end of a round every RUNNING or PARKED slot gets WEIGHT credits, every other none, and the
next 16 issue cycles form the round; the pointers stay. -/
def Obligations.RoundStartGivesCredits : Prop :=
  ∀ (s : State) (c : CoreIx), (s.m.core c).pwr.logic = .on → (s.m.core c).seq.left = 0 →
    ∃ t, exec (.issueRoundStart c) s = .next t ∧ t = s.to (s.m.onCore c Core.newRound) ∧
      (t.m.core c).seq.left = 16 ∧ (t.m.core c).seq.sharePtr = (s.m.core c).seq.sharePtr ∧
      (t.m.core c).seq.sparePtr = (s.m.core c).seq.sparePtr ∧
      ∀ i : SlotIx, vget (t.m.core c).seq.credit i =
        (if ((s.m.core c).slot i).ctl.st = .running ∨ ((s.m.core c).slot i).ctl.st = .parked
         then ((s.m.core c).slot i).ctl.weight.toNat else 0)

/-! ## The matrix engine, the mover and the under-bank -/

/-- TILE_LD_COMPLETE and TILE_ZERO_COMPLETE (R126, R129, R130): an operation whose last cycle has come leaves the array; a
TILE.LD has then filled its weight buffer, and the next TILE.MAC of that buffer swaps weights. TILE_MAC_COMPLETE and
TILE_ST_COMPLETE (R104 to R111, R131, R132): a completed TILE.MAC adds its rows into the accumulators; a TILE.ST to
scratchpad has written its last row from its address on, its scoreboard entry ends with the cycle, and every other byte is as
before; a TILE.ST to a send port ends when its last message has entered the router, and waits while that cannot. -/
def Obligations.TileOperationsComplete : Prop :=
  ((∀ (s : State) (c : CoreIx) (o : TileOp) (w : Nat) (buf : WBuf) (r : List TileOp),
     (s.m.core c).eng.ops = o :: r → o.work = .ld w buf → o.doneAt ≤ s.m.cc →
     exec (.tileLdComplete c) s = .next (s.to (s.m.onCore c fun k =>
       { (k.onSlot o.slot fun v => { v with arch := { v.arch with wbuf := vset v.arch.wbuf w buf } }) with
         eng := { k.eng with ops := r, last := if k.eng.last = some (o.slot, w) then none else k.eng.last } }))) ∧
   (∀ (s : State) (c : CoreIx) (o : TileOp) (a n : Nat) (r : List TileOp),
     (s.m.core c).eng.ops = o :: r → o.work = .zero a n → o.doneAt ≤ s.m.cc →
     exec (.tileZeroComplete c) s = .next (s.to (s.m.onCore c fun k => { k with eng := { k.eng with ops := r } })))) ∧
  ((∀ (s : State) (c : CoreIx) (o : TileOp) (r : List TileOp) (w : Nat) (buf : WBuf) (fa : BitVec 4) (sf : BitVec 2)
       (acc rows : Nat) (exact pair clr ovf subn : Bool) (stream scales : Bytes),
     (s.m.core c).eng.ops = o :: r → o.work = .mac w buf fa sf acc rows exact pair clr ovf subn stream scales →
     o.doneAt ≤ s.m.cc → o.sample = false →
     exec (.tileMacComplete c) s = .next (s.to (s.m.onCore c fun k =>
       ({ k with eng := { k.eng with ops := r } } : Core).macRows fa.toNat buf sf.toNat exact pair clr ovf subn acc rows
         stream scales))) ∧
   (∀ (s : State) (c : CoreIx) (o : TileOp) (r : List TileOp) (rows len done d : Nat) (bytes : Bytes) (bnd : BitVec 64),
     (s.m.core c).eng.ops = o :: r → (∀ x ∈ r, isSt x.work = false) → o.work = .st rows len bytes done (some d) bnd [] →
     bytes.length = rows * len → done < bytes.length → o.doneAt ≤ s.m.cc → o.sample = false → (s.m.core c).remote = [] →
     ∃ t, exec (.tileStComplete c) s = .next t ∧
       t = s.to (s.m.onCore c fun k => { (k.writeMem 0 (d + done) (bytes.drop done)).sbRelease s.m.cc (o.sb.getD k.sbNext) with
         eng := { k.eng with ops := r } }) ∧
       (∀ i, (h : i < bytes.length) → done ≤ i → memByte (t.m.core c).sram (d + i) = bytes[i]) ∧
       (∀ a, (a < d + done ∨ d + bytes.length ≤ a) →
         memByte (t.m.core c).sram a = memByte (s.m.core c).sram a) ∧
       (t.m.core c).slots = (s.m.core c).slots) ∧
   (∀ (s : State) (c : CoreIx) (o : TileOp) (r : List TileOp) (rows len done : Nat) (bytes : Bytes) (bnd : BitVec 64),
     (s.m.core c).eng.ops = o :: r → (∀ x ∈ r, isSt x.work = false) → o.work = .st rows len bytes done none bnd [] →
     bytes.length = rows * len → done < bytes.length → bytes.length ≤ done + 256 → o.doneAt ≤ s.m.cc → o.sample = false →
     let msg := toChunks (bytes.drop done)
     let can := s.m.canSend c ((s.m.core c).slot o.slot).ctl.cid.toNat bnd.toNat (max 1 msg.length) 0
     (can = true → exec (.tileStComplete c) s = .next (s.to ((s.m.send c o.slot o.pc bnd.toNat msg).onCore c fun k =>
       { k with eng := { k.eng with ops := r } }))) ∧
     (can = false → ∃ t, exec (.tileStComplete c) s = .next t ∧ t.pending = s.pending ∧
       (t.m.core c).eng.ops = o :: r ∧ (t.m.core c).router = (s.m.core c).router ∧
       (t.m.core c).slots = (s.m.core c).slots)))

/-- MOVER_GRANULE (R163): in a cycle in which the mover has a granule slot left and throttling takes none away, the slot that the round-robin of R56 takes
moves one granule of its running descriptor, and the round counts the granule slot. MOVER_DESCRIPTOR_COMPLETE and
MOVER_DESCRIPTOR_FAULT (R161, R165): a descriptor whose last granule has moved and whose scope is satisfied leaves the slot's
list, with its scoreboard entries free, and signals its huddle, as soon as the signal can enter the URGENT queue; one that
breaks a rule halts the slot with CAUSE 0x04, imprecise, and its later ones are cancelled. (Choices of the model: log 40.) -/
def Obligations.MoverRunsDescriptors : Prop :=
  (∀ (s : State) (c : CoreIx) (sl : Nat) (spare : Bool) (d : MvDesc),
     let k := s.m.core c
     let k' := if k.mover.left = 0 then k.moverRound else k
     k.pwr.logic = .on → k.pwr.gated = false → k.pwr.stall = false → k.pwr.stopped = false → k.granulesUsed s.m.cc < 2 →
     cycleRemoved k.pwr s.m.cc = false →
     k'.mover.choose ([0, 1, 2, 3].filter fun i => s.m.xferReady c i || s.m.mvReady c i) = some (sl, spare) →
     s.m.xferReady c sl = false → (k.slot sl).running = some d → d.staged = none →
     exec (.moverGranule ⟨c, []⟩) s = .next (s.to ((s.m.setCore c { k' with
       mover := { k'.mover.taken sl spare with left := (k'.mover.taken sl spare).left - 1 },
       moverAt := some (s.m.cc, k.granulesUsed s.m.cc + 1) }).mvMove c sl d))) ∧
  ((∀ (s : State) (c : CoreIx) (sl : SlotIx) (d : MvDesc),
     let v := (s.m.core c).slot sl
     v.running = some d → mvVisible d = true → v.ctl.st ≠ .quiesced → dHaddr d.raw = 0 →
     exec (.moverDescriptorComplete c sl) s = .next (s.to ((s.m.onCore c fun k => (k.freeDescs s.m.cc [d]).onSlot sl fun v =>
       { v with run := { v.run with descs := v.run.descs.drop 1 } }).progress1 v.ctl.cid.toNat))) ∧
   (∀ (s : State) (c : CoreIx) (sl : SlotIx) (d : MvDesc),
     let v := (s.m.core c).slot sl
     v.running = some d → mvVisible d = true → v.ctl.st ≠ .quiesced → dHaddr d.raw ≠ 0 →
     s.m.canSig c v.ctl.cid.toNat (dHaddr d.raw) = true →
     exec (.moverDescriptorComplete c sl) s = .next (s.to (((s.m.onCore c fun k => (k.freeDescs s.m.cc [d]).onSlot sl fun v =>
       { v with run := { v.run with descs := v.run.descs.drop 1 } }).progress1 v.ctl.cid.toNat).hudSig c sl (dHaddr d.raw) 1
         true))) ∧
   (∀ (s : State) (c : CoreIx) (sl : SlotIx) (d : MvDesc),
     (((s.m.core c).slot sl).run.descs.find? fun d => d.bad) = some d →
     exec (.moverDescriptorFault c sl) s =
       .next (s.to ((s.m.onCore c fun k => k.endDesc sl d.serial s.m.cc).impreciseFault c sl 4 0 d.pc))))

/-- LOCAL_UNDER_BANK_ACCESS (R152, R266, R268): of each context the oldest access waits for the controller, which serves the
contexts in turn by their rates, with one token each: a store writes its eight bytes, and a load of words that are not
poisoned gives its register their value. CACHE_LINE_FILL (R149): a line of another core whose data has come enters its set,
and the accesses of the four slots that waited for it are served. (Choices of the model: log 24, log 42.) -/
def Obligations.UnderBankServesAndLinesFill : Prop :=
  ((∀ (s : State) (c : CoreIx) (i : Nat) (q : UbAcc) (x : BitVec 64), s.m.ubNext c = some (i, q) → q.store = some x →
     exec (.localUnderBankAccess ⟨c, []⟩) s = .next (s.to ((((s.m.takeTok (s.m.ubTok c q.slot) 1).ubServed c
       ((s.m.core c).accCid q) 1).onCore c fun k => ({ k with ubq := k.ubq.eraseIdx i }).touch 1 q.off s.m.cc).onCore c
         fun k => k.writeMem 1 q.off (toBytes 8 x.toNat)))) ∧
   (∀ (s : State) (c : CoreIx) (i : Nat) (q : UbAcc) (a : PendAcc), s.m.ubNext c = some (i, q) → q.store = none →
     let here := fun a : PendAcc => a.load && a.wa.toNat == waOf 1 (s.m.logical c) q.off && a.rid.isNone && a.line.isNone
     ((s.m.core c).slot q.slot).run.accs.find? here = some a → (s.m.core c).poisonAt 1 q.off 8 = none →
     ∃ t, exec (.localUnderBankAccess ⟨c, []⟩) s = .next t ∧ t.pending = s.pending ∧
       (q.slot < 4 → (t.m.core c).slot q.slot = deliver (dropAcc ((s.m.core c).slot q.slot) here) a.rd
         (BitVec.ofNat 64 (ofBytes ((s.m.core c).readMem 1 q.off 8))) s.m.cc) ∧
       (∀ x, memByte (t.m.core c).ub x = memByte (s.m.core c).ub x ∧ memByte (t.m.core c).sram x = memByte (s.m.core c).sram x) ∧
       (t.m.core c).ubq = (s.m.core c).ubq.eraseIdx i)) ∧
  (∀ (s : State) (c : CoreIx) (f : Fill),
     ((s.m.core c).fills.find? fun f => s.m.fillReady c f && (s.m.fillRoom c f.tag).1) = some f →
     s.m.lineOwn c f.tag = false →
     let m := (s.m.fillRoom c f.tag).2
     exec (.cacheLineFill ⟨c, []⟩) s = .next (s.to ([0, 1, 2, 3].foldl (fun m i => m.lineServeSlot c f.tag i)
       (m.onCore c fun k => ({ k with fills := k.fills.filter fun x => x.tag != f.tag }).putLine
         { tag := f.tag, data := f.data, used := m.cc, slot := f.slot, poison := f.poison }))))

/-! ## Slots and the power of a core -/

/-- TIMER_EXPIRY (R62, R69): a SLOT_TIMER that has reached zero makes TIMER pending; the slot's other wake sources, its
registers and every other slot stay as they are. COMMIT_WINDOW_END (R362, R363): in cycle p + 4 a level-selected source that
is pending cancels the drop and counts in PWR_CNT_BOUNCE; with none, the core drops to its depth, and edge-selected sources
that came in the window are lost and counted. -/
def Obligations.TimersAndCommitWindows : Prop :=
  (∀ (s : State) (c : CoreIx) (sl : SlotIx), ((s.m.core c).slot sl).run.due = true →
     ∃ t, exec (.timerExpiry c sl) s = .next t ∧ t.pending = s.pending ∧
       ((t.m.core c).slot sl).ctl = { ((s.m.core c).slot sl).ctl with pendTimer := true } ∧
       ((t.m.core c).slot sl).arch = ((s.m.core c).slot sl).arch ∧
       (∀ i : SlotIx, i ≠ sl → (t.m.core c).slot i = (s.m.core c).slot i) ∧
       (∀ d : CoreIx, d ≠ c → Core.Same (t.m.core d) (s.m.core d)) ∧
       (∀ a, memByte (t.m.core c).sram a = memByte (s.m.core c).sram a ∧ memByte (t.m.core c).ub a = memByte (s.m.core c).ub a)) ∧
  (∀ (s : State) (c : CoreIx) (p : Nat),
     let k := s.m.core c
     let level := (List.range 4).any fun i => (k.slot i).ctl.st == .parked && (k.wakeNow i &&& ~~~ (k.slot i).edgeSel) != 0
     k.pwr.park = some p → p + 4 ≤ s.m.cc → k.pwr.logic = .on → k.dropBase s.m.cc = true →
     ∃ t, exec (.commitWindowEnd c) s = .next t ∧ t.pending = s.pending ∧ (t.m.core c).pwr.park = none ∧
       (level = true → (t.m.core c).pwr.logic = .on ∧ (t.m.core c).pwr.gated = false ∧
         (t.m.core c).pwr.cntBounce = k.pwr.cntBounce + 1) ∧
       (level = false → (t.m.core c).pwr.cntEdgelost = k.pwr.cntEdgelost + BitVec.ofNat 64 k.windowEdges.length ∧
         (t.m.core c).pwr.gated = true ∧ (t.m.core c).pwr.logic = (if k.dropDepth = 0 then .on else .ret)) ∧
       (∀ a, memByte (t.m.core c).sram a = memByte k.sram a ∧ memByte (t.m.core c).ub a = memByte k.ub a))

/-- SLOT_WAKE where the core's clocks run and no flit woke it (R60, R62): the slot becomes RUNNING, SLOT_WAKE_CAUSE records
the sources that were pending and enabled, and pending bits stay set. SLOT_WAKE on a core whose clocks do not run (R357,
R363): a source that no commit window lost starts the wake, which lasts 4 cc from a gated clock, 120 cc from RET with the
banks ON and 1,200 cc with a bank in RET or OFF, 600 cc more when a field sleep ends; SLOT_WAKE_RETURN ends it, with
CORE_LOGIC and the banks ON, the slot RUNNING, and SLOT_WAKE_CAUSE the sources of the wake event and, where the wake broke a
field sleep off, bit 4. -/
def Obligations.ParkedSlotsWake : Prop :=
  (∀ (s : State) (c : CoreIx) (sl : SlotIx),
     let k := s.m.core c
     (k.slot sl).ctl.st = .parked → (k.slot sl).run.wakeAt = none → k.wakeNow sl ≠ 0 → k.inWindow s.m.cc = false →
     k.pwr.stopped = false → k.clocksRun s.m.cc = true → k.pwr.flitWake = none →
     ∃ t, exec (.slotWake c sl) s = .next t ∧ t.pending = s.pending ∧
       ((t.m.core c).slot sl).ctl =
         { (k.slot sl).ctl with st := .running, wakeCause := BitVec.ofNat 6 (k.wakeNow sl).toNat } ∧
       ((t.m.core c).slot sl).arch = (k.slot sl).arch ∧
       (∀ i : SlotIx, i ≠ sl → (t.m.core c).slot i = k.slot i) ∧
       (∀ a, memByte (t.m.core c).sram a = memByte k.sram a ∧ memByte (t.m.core c).ub a = memByte k.ub a)) ∧
  ((∀ (s : State) (c : CoreIx) (sl : SlotIx),
     let k := s.m.core c
     (k.slot sl).ctl.st = .parked → (k.slot sl).run.wakeAt = none → k.wakeNow sl &&& ~~~ k.lostEdges sl ≠ 0 →
     k.inWindow s.m.cc = false → k.pwr.stopped = false → k.clocksRun s.m.cc = false →
     ∃ t, exec (.slotWake c sl) s = .next t ∧ t.pending = s.pending ∧
       ((t.m.core c).slot sl).run = { (k.slot sl).run with wakeAt := some (s.m.cc + k.wakeTime - 1), wakeSrc := k.wakeNow sl } ∧
       ((t.m.core c).slot sl).ctl = (k.slot sl).ctl) ∧
   (∀ (s : State) (c : CoreIx) (sl : SlotIx) (w : Nat),
     let k := s.m.core c
     (k.slot sl).ctl.st = .parked → (k.slot sl).run.wakeAt = some w → w ≤ s.m.cc →
     ∃ t, exec (.slotWakeReturn c sl) s = .next t ∧ t.pending = s.pending ∧
       ((t.m.core c).slot sl).ctl.st = .running ∧ ((t.m.core c).slot sl).arch = (k.slot sl).arch ∧
       ((t.m.core c).slot sl).ctl.wakeCause =
         BitVec.ofNat 6 ((k.slot sl).run.wakeSrc.toNat + if (k.slot sl).run.aborted then 16 else 0) ∧
       (k.clocksRun s.m.cc = false →
         (t.m.core c).pwr.logic = .on ∧ (t.m.core c).pwr.gated = false ∧ (t.m.core c).pwr.banks = .replicate 6 .on)) ∧
   (∀ k : Core, k.wakeTime =
     (if k.pwr.banks.toList.any (fun b => b != .on) then 1200 else if k.pwr.logic = .on then 4 else 120) +
     (if k.pwr.fsWake = true then 600 else 0)))

/-- SLOT_QUIESCE and SLOT_RESUME (R60, R65): any slot but an EMPTY one becomes QUIESCED and keeps the state it had; at resume
it has that state again, HALTED where a fault was recorded meanwhile, and a PARKED slot with an enabled source pending is
RUNNING. (Choices of the model: log 16.) -/
def Obligations.QuiesceAndResume : Prop :=
  (∀ (s : State) (c : CoreIx) (sl : SlotIx), (s.m.field (fieldOf c)).sleep ≠ .committed →
    ((s.m.core c).slot sl).ctl.st ≠ .empty → ((s.m.core c).slot sl).ctl.st ≠ .quiesced →
    ∃ t, exec (.slotQuiesce c sl) s = .next t ∧ t.pending = s.pending ∧
      ((t.m.core c).slot sl).ctl = { ((s.m.core c).slot sl).ctl with st := .quiesced, block := 10, ready := false } ∧
      ((t.m.core c).slot sl).run.held = some ((s.m.core c).slot sl).ctl.st ∧
      ((t.m.core c).slot sl).run.descs = ((s.m.core c).slot sl).run.descs ∧
      ((t.m.core c).slot sl).arch = ((s.m.core c).slot sl).arch ∧
      (∀ i : SlotIx, i ≠ sl → (t.m.core c).slot i = (s.m.core c).slot i)) ∧
  (∀ (s : State) (c : CoreIx) (sl : SlotIx) (st : SlotSt), ((s.m.core c).slot sl).ctl.st = .quiesced →
    ((s.m.core c).slot sl).run.held = some st → (st = .parked → (s.m.core c).wakeNow sl = 0) →
    ∃ t, exec (.slotResume c sl) s = .next t ∧ t.pending = s.pending ∧
      ((t.m.core c).slot sl).ctl = { ((s.m.core c).slot sl).ctl with st := st } ∧
      ((t.m.core c).slot sl).arch = ((s.m.core c).slot sl).arch) ∧
  (∀ (s : State) (c : CoreIx) (sl : SlotIx), ((s.m.core c).slot sl).ctl.st = .quiesced →
    ((s.m.core c).slot sl).run.held = some .parked → (s.m.core c).wakeNow sl ≠ 0 →
    ∃ t, exec (.slotResume c sl) s = .next t ∧ t.pending = s.pending ∧
      ((t.m.core c).slot sl).ctl.st = .running ∧
      ((t.m.core c).slot sl).ctl.wakeCause = BitVec.ofNat 6 ((s.m.core c).wakeNow sl).toNat)

/-- CORE_WAKE_BY_FLIT and EMPTY_CORE_BRINGUP (R356, R359, R360): a flit that waits for a core that is not OFF brings it up and
is served when the wake time has passed; firmware brings a core at depth 3 to ON, with isolation of CORE_LOGIC and the banks
released; a flit that waits for it is served after that. PWR_ISO_REL_WRITE (R356): isolation is released for the named domains that are ON, and a bit that names one that is
not has no effect. -/
def Obligations.CoresComeUpAndRelease : Prop :=
  ((∀ (s : State) (c : CoreIx),
     let k := s.m.core c
     k.pwr.logic ≠ .off → k.pwr.stopped = false → k.clocksRun s.m.cc = false → k.pwr.flitWake = none →
     k.flitWaits c = true →
     ∃ t, exec (.coreWakeByFlit c) s = .next t ∧ t.pending = s.pending ∧ (t.m.core c).slots = k.slots ∧
       (t.m.core c).pwr.logic = .on ∧ (t.m.core c).pwr.gated = false ∧ (t.m.core c).pwr.banks = .replicate 6 .on ∧
       (t.m.core c).pwr.flitWake = some (s.m.cc + k.wakeTime - 1) ∧ (t.m.core c).router = k.router) ∧
   (∀ (s : State) (c : CoreIx), (s.m.core c).pwr.logic = .off → (s.m.field (fieldOf c)).ring = .on →
     s.m.coreOut c = false →
     exec (.emptyCoreBringup c) s = .next (s.to (s.m.onCore c fun k => { k with pwr := { k.pwr with
       logic := .on, gated := false, banks := .replicate 6 .on, iso := k.pwr.iso &&& 0x80,
       flitWake := if k.flitWaits c = true then some s.m.cc else none } })))) ∧
  (∀ (s : State) (c : CoreIx) (v : BitVec 32),
     ∃ t, exec (.pwrIsoRelWrite c v) s = .next t ∧ t.pending = s.pending ∧
       (∀ i : Fin 8, (t.m.core c).pwr.iso.getLsbD i = ((s.m.core c).pwr.iso.getLsbD i &&
         !(v.getLsbD i && (if i.val = 0 then (s.m.core c).pwr.logic == .on
           else if i.val < 7 then vget (s.m.core c).pwr.banks (i.val - 1) == .on else (s.m.core c).pwr.bankctl == .on)))) ∧
       { (t.m.core c).pwr with iso := 0 } = { (s.m.core c).pwr with iso := 0 } ∧ (t.m.core c).slots = (s.m.core c).slots)

/-- STALL_IDLE_ENTRY, STALL_IDLE_EXIT and THROTTLE_RAMP_STEP (R235, R236, R378): after 2,400 cc of waiting the core enters
stall-idle and lends; a ready slot ends it and starts the ramp, whose steps follow every 1,500 cc until all cycles are back.
TIER_SELF_REFRESH_ENTRY, TIER_WAKE and TIER_TEMPERATURE_CHANGE (R173, R174, R368): a tier without a request for 65,536 cc and
without a vote rests, and BANKCTL with both; a request wakes it, and is served 600 cc later; refresh doubles from 85 °C and
returns to its rate below 82 °C. (Choices of the model: log 44.) -/
def Obligations.CorePowerFollowsItsRules : Prop :=
  ((∀ (s : State) (c : CoreIx) (w : Nat),
     let k := s.m.core c
     k.pwr.logic = .on → k.pwr.stall = false → k.pwr.lendDis = false → k.pwr.waitSince = some w → w + 2400 ≤ s.m.cc →
     exec (.stallIdleEntry c) s = .next (s.to (s.m.onCore c fun k => { k with pwr := { k.pwr with
       stall := true, lending := true, waitSince := none } }))) ∧
   (∀ (s : State) (c : CoreIx), (s.m.core c).pwr.stall = true → ([0, 1, 2, 3].any fun i => (s.m.cycleStart c).blockAt c i == 0) = true →
     exec (.stallIdleExit c) s = .next (s.to ((s.m.countCycle c).2.onCore c fun k => { k with pwr := { k.pwr with
       stall := false, lending := false, ramp := some ((s.m.countCycle c).2.cc, 0) } }))) ∧
   (∀ (s : State) (c : CoreIx) (start step : Nat), (s.m.core c).pwr.ramp = some (start, step) →
     start + 1500 * (step + 1) ≤ s.m.cc →
     exec (.throttleRampStep c) s = .next (s.to (s.m.onCore c fun k => { k with pwr := { k.pwr with
       ramp := if step < 2 then some (start, step + 1) else none } })))) ∧
  ((∀ (s : State) (c : CoreIx) (ti : TierIx),
     let k := s.m.core c
     k.pwr.bankctl = .on → vget k.pwr.sr ti = false → vget k.care.overdue ti = false →
     vget k.pwr.lastReq ti + 65536 ≤ s.m.cc → k.pwr.voteBk = 0 → k.pwr.fwVoteBk = false →
     ∃ t, exec (.tierSelfRefreshEntry c ti) s = .next t ∧ t.pending = s.pending ∧ vget (t.m.core c).pwr.sr ti = true ∧
       (∀ o : TierIx, o ≠ ti → vget (t.m.core c).pwr.sr o = vget k.pwr.sr o ∧
         (t.m.core c).pwr.bankctl = (if vget k.pwr.sr o = true then .ret else .on)) ∧
       (∀ a, memByte (t.m.core c).ub a = memByte k.ub a)) ∧
   (∀ (s : State) (c : CoreIx) (ti : TierIx),
     vget (s.m.core c).pwr.sr ti = true → vget (s.m.field (fieldOf c)).tiers ti = .on →
     ∃ t, exec (.tierWake c ti) s = .next t ∧ t.pending = s.pending ∧ vget (t.m.core c).pwr.sr ti = false ∧
       (t.m.core c).pwr.bankctl = .on ∧ vget (t.m.core c).pwr.lastReq ti = s.m.cc + 600 ∧
       (∀ a, memByte (t.m.core c).ub a = memByte (s.m.core c).ub a)) ∧
   (∀ (s : State) (c : CoreIx) (ti : TierIx) (deg : BitVec 8),
     ∃ t, exec (.tierTemperatureChange c ti deg) s = .next t ∧ t.pending = s.pending ∧
       vget (t.m.core c).care.temp ti = deg ∧
       vget (t.m.core c).care.hot ti = (if 85 ≤ deg.toNat then true else if deg.toNat < 82 then false
         else vget (s.m.core c).care.hot ti) ∧
       (t.m.core c).pwr = (s.m.core c).pwr ∧ (t.m.core c).slots = (s.m.core c).slots))

/-! ## What reaches a core over the mesh -/

/-- MESH_WRITE into scratchpad (R155, R181): each flit's bytes are written at the offset plus 32 per flit before it, every
other byte of the module is as it was, and the WRITE is acknowledged; a WRITE of an offset that does not exist is answered
with an error; a context's WRITE to the under-bank joins those that wait at its controller, which serves what it can (R268).
The bytes of a one-flit WRITE of n bytes (R181): TAG[5:0] holds n - 1, and exactly n bytes from the offset on change. -/
def Obligations.MeshWritesTakeEffect : Prop :=
  (∀ (s : State) (c : CoreIx) (ch : ChanIx) (f : Flit) (fs : List Flit),
     let k := s.m.core c
     k.loMsg ch = some (f, fs) → ch.val < 6 → f.op = 0 → reqSpace f = 0 → k.clocksRun s.m.cc = true →
     s.m.canAnswer c 1 1 f = true → k.validOff 0 (reqOff f) (writeLen fs) = true →
     exec (.meshWrite c ch) s = .next (s.to (((s.m.onCore c fun k => k.loDrop ch).onCore c fun k =>
       (writeParts (reqOff f) fs).foldl (fun k p => k.remoteMem 0 (reqOff f + p.1) p.2) k).finish c f false))) ∧
  (∀ (s : State) (c : CoreIx) (ch : ChanIx) (f : Flit) (fs : List Flit),
     let k := s.m.core c
     k.loMsg ch = some (f, fs) → ch.val < 6 → f.op = 0 → reqSpace f = 0 → k.clocksRun s.m.cc = true →
     s.m.canAnswer c 1 1 f = true → k.validOff 0 (reqOff f) (writeLen fs) = false →
     exec (.meshWrite c ch) s = .next (s.to (((s.m.onCore c fun k => k.loDrop ch).badRequest c).finish c f true))) ∧
  (∀ (s : State) (c : CoreIx) (ch : ChanIx) (f : Flit) (fs : List Flit),
     (s.m.core c).loMsg ch = some (f, fs) → ch.val < 6 → f.op = 0 → reqSpace f = 1 → f.fw = false →
     (s.m.core c).validOff 1 (reqOff f) (writeLen fs) = true →
     let m := s.m.onCore c fun k => { k.loDrop ch with ubWait := (k.loDrop ch).ubWait ++ [(f, fs)] }
     exec (.meshWrite c ch) s = .next (s.to (m.ubRun c (m.core c).ubWait.length))) ∧
  (∀ (k : Core) (f : Flit) (a : Nat), f.tail = true → f.bad = [] → f.tag.toNat % 64 + 1 ≤ 32 →
     let k' := (writeParts a [f]).foldl (fun k p => k.remoteMem 0 (a + p.1) p.2) k
     (∀ i, (h : i < f.tag.toNat % 64 + 1) → memByte k'.sram (a + i) = BitVec.ofNat 8 (f.pay.toNat / 256 ^ i)) ∧
     (∀ x, (x < a ∨ a + (f.tag.toNat % 64 + 1) ≤ x) → memByte k'.sram x = memByte k.sram x) ∧ k'.ub = k.ub ∧
     k'.slots = k.slots)

/-- MESH_READ of scratchpad (R181): the target answers with ⌈length ÷ 32⌉ flits of DATA that echo TAG, on BULK for a mover's
read and on RSP otherwise, and no byte of memory changes; a READ with a length of 0 or above 256, or of an offset that does
not exist, is answered with an error. -/
def Obligations.MeshReadAnswers : Prop :=
  (∀ (s : State) (c : CoreIx) (f : Flit) (fs : List Flit),
    let k := s.m.core c
    let n := readLen f
    let m := s.m.onCore c fun k => k.loDrop 0
    k.loMsg 0 = some (f, fs) → f.op = 1 → reqSpace f = 0 → k.clocksRun s.m.cc = true →
    s.m.canAnswer c (dataChan f) ((n + 31) / 32) f = true → 0 < n → n ≤ 256 → k.validOff 0 (reqOff f) n = true →
    ∃ t, exec (.meshRead ⟨c, []⟩) s = .next t ∧ t.pending = s.pending ∧ t = s.to (m.doRead c f) ∧
      Core.Same (t.m.core c) ((m.answer c (dataChan f) (m.dataFlits c f 0 (reqOff f) n)).core c)) ∧
  (∀ (m : Mach) (c : Nat) (f : Flit) (space off n : Nat), 0 < n →
    (m.dataFlits c f space off n).length = (n + 31) / 32 ∧
    (∀ x ∈ m.dataFlits c f space off n, x.tag = f.tag ∧ x.op = 4 ∧ x.err = false ∧
      x.chan = (if f.tag.toNat % 64 < 32 then 1 else 4) ∧ x.target = BitVec.ofNat 60 (ansTarget f))) ∧
  (∀ (s : State) (c : CoreIx) (f : Flit) (fs : List Flit),
    let k := s.m.core c
    let n := readLen f
    k.loMsg 0 = some (f, fs) → f.op = 1 → reqSpace f = 0 → k.clocksRun s.m.cc = true →
    s.m.canAnswer c 1 1 f = true → (n = 0 ∨ 256 < n ∨ k.validOff 0 (reqOff f) n = false) →
    exec (.meshRead ⟨c, []⟩) s = .next (s.to (((s.m.onCore c fun k => k.loDrop 0).badRequest c).answer c 1
      [errAnswer c f s.m.cc])))

/-- MESH_MSG (R208, R210, R211): the message at the head of its output lands at the end of the queue it names, or, where the
queue has its threshold of messages, is held from this cycle on and nothing else changes. HELD_MESSAGE_LAND, QUEUE_STALL and
HOLDCAP_HALT (R211, R212, R275): a held message lands once its queue has room; after 65,536 cc its context's owner hears of
the stall, once; where the context has HOLDCAP = 1 its slot is then halted with CAUSE 0x07, whether or not the message still
waits, and the queue emptied. (Choices of the
model: log 28.) -/
def Obligations.MessagesLandOrAreHeld : Prop :=
  ((∀ (s : State) (c : CoreIx) (ch : ChanIx) (q : Nat) (f : Flit) (fs : List Flit),
     let k := s.m.core c
     k.loMsg ch = some (f, fs) → (ch.val = 2 ∨ ch.val = 3) → f.op = 2 → aget k.router.heldSince ch = none →
     s.m.landRoom c f = true → msgQueue f = some q → k.inBackstop q = false → k.accepts q s.m.cc = true →
     exec (.meshMsg c ch) s = .next (s.to (s.m.land c ch q f fs))) ∧
   (∀ (s : State) (c : CoreIx) (ch : ChanIx) (q : Nat) (f : Flit) (fs : List Flit),
     let k := s.m.core c
     k.loMsg ch = some (f, fs) → (ch.val = 2 ∨ ch.val = 3) → f.op = 2 → aget k.router.heldSince ch = none →
     s.m.landRoom c f = true → msgQueue f = some q → k.inBackstop q = false → k.accepts q s.m.cc = false →
     exec (.meshMsg c ch) s = .next (s.to (s.m.onCore c fun k => { k with router := { k.router with
       heldSince := aset k.router.heldSince ch s.m.cc } }))) ∧
   (∀ (m : Mach) (c ch q : Nat) (f : Flit) (fs : List Flit), f.marked = false → f.why = .none → f.attach = false → q < 8 →
     ((m.land c ch q f fs).core c).queue q = { (m.core c).queue q with
       msgs := ((m.core c).queue q).msgs ++ [qMsgOf fs f m.cc m.now] } ∧
     (∀ r, r ≠ q → ((m.land c ch q f fs).core c).queue r = (m.core c).queue r))) ∧
  ((∀ (s : State) (c : CoreIx) (ch : ChanIx) (q t : Nat) (f : Flit) (fs : List Flit),
     let k := s.m.core c
     k.loMsg ch = some (f, fs) → msgQueue f = some q → aget k.router.heldSince ch = some t → f.op = 2 →
     s.m.landRoom c f = true → k.inBackstop q = false → k.accepts q s.m.cc = true →
     exec (.heldMessageLand c ch) s = .next (s.to (s.m.land c ch q f fs))) ∧
   (∀ (s : State) (c : CoreIx) (ch : ChanIx) (q t : Nat) (x : Flit × List Flit),
     let k := s.m.core c
     k.loMsg ch = some x → msgQueue x.1 = some q → aget k.router.heldSince ch = some t → t + 65536 ≤ s.m.cc →
     aget k.router.heldSince (ch.val + 16) = none →
     exec (.queueStall c ch) s = .next (s.to ((s.m.onCore c fun k => { k with
       holdDue := (k.holdDue.filter fun x => x != q) ++ [q],
       router := { k.router with heldSince := aset k.router.heldSince (ch.val + 16) q } }).raiseOwner (k.queueCid q)
         (s.m.event 3 (k.queueCid q) (s.m.logical c) (k.queue q).slot.toNat q 0)))) ∧
   (∀ (s : State) (c : CoreIx) (q : QueueIx) (x : Ctx),
     let k := s.m.core c
     k.holdDue.contains q.val = true → s.m.ctx (k.queueCid q) = some x → x.dead.holdcap = true →
     x.st ≠ .resetting → x.st ≠ .destroying → (k.slot (k.queue q).slot.toNat).ctl.st = .running →
     ∃ t, exec (.holdcapHalt c q) s = .next t ∧ t.pending = s.pending ∧
       ((t.m.core c).slot (k.queue q).slot.toNat).ctl.st = .halted ∧
       ((t.m.core c).slot (k.queue q).slot.toNat).ctl.cause = 7 ∧ ((t.m.core c).queue q).msgs = []))

/-- MESH_SIGNAL (R216, R225, R226): a signal of amount 0 does nothing; one that the huddle's ledger holds already is counted
in HUD_DUP and discarded; a retransmission older than FLOOR is not applied and counted in HUD_UNSURE; any other enters the
ledger and is applied. HUDDLE_REPEAT_RELEASE and HUD_WAIT_TIMEOUT (R219, R227): a barrier whose condition still holds releases
again in a later cycle; a HUD.WAIT that has blocked for HUD_WLIMIT ticks sets HUD_WSTAT to its huddle with TIMEOUT, and issues
without passing. -/
def Obligations.SignalsAndReleases : Prop :=
  ((∀ (s : State) (c : CoreIx) (f : Flit) (fs : List Flit),
     let k := s.m.core c
     k.loMsg 5 = some (f, fs) → f.op = 3 → k.clocksRun s.m.cc = true → s.m.canAnswer c 1 1 f = true → reqSpace f = 3 →
     reqOff f < 32 →
     exec (.meshSignal c) s = .next (s.to ((s.m.onCore c fun k => k.loDrop 5).onCore c fun k =>
       k.remoteSig (reqOff f) f s.m.cc s.m.now))) ∧
   (∀ (k : Core) (h : Nat) (f : Flit) (cc : Nat) (now : BitVec 64), fld f.pay.toNat 0 16 = 0 → k.remoteSig h f cc now = k) ∧
   (∀ (k : Core) (h : Nat) (f : Flit) (cc : Nat) (now : BitVec 64), fld f.pay.toNat 0 16 ≠ 0 →
     ((k.huddle h).ledger.any (sameSignal (sigIdent f now))) = true →
     k.remoteSig h f cc now = { k with hudDup := k.hudDup + 1 }) ∧
   (∀ (k : Core) (h : Nat) (f : Flit) (cc : Nat) (now : BitVec 64), h < 32 → fld f.pay.toNat 0 16 ≠ 0 →
     ((k.huddle h).ledger.any (sameSignal (sigIdent f now))) = false → bitOf f.pay.toNat 51 = true → (k.huddle h).floor ≠ 0 →
     fld f.pay.toNat 64 64 ≤ (k.huddle h).floor.toNat →
     (k.remoteSig h f cc now).huddle h = { k.huddle h with unsure := true, unsureAt := some cc } ∧
     (k.remoteSig h f cc now).hudUnsure = k.hudUnsure + 1 ∧ (k.remoteSig h f cc now).slots = k.slots) ∧
   (∀ (k : Core) (h : Nat) (f : Flit) (cc : Nat) (now : BitVec 64), fld f.pay.toNat 0 16 ≠ 0 →
     ((k.huddle h).ledger.any (sameSignal (sigIdent f now))) = false → bitOf f.pay.toNat 51 = false →
     k.remoteSig h f cc now = (k.onHuddle h fun x => x.enter (sigIdent f now)).signal h (fld f.pay.toNat 0 16) cc false) ∧
   (∀ (k : Core) (h amount cc : Nat) (own : Bool), h < 32 → 0 < amount → (k.huddle h).state ≠ 1 →
     (∀ y, (k.huddle h).cyc = some y → y.at_ ≠ cc) →
     let x := (k.signal h amount cc own).huddle h
     x.count.toNat = min ((k.huddle h).count.toNat + amount) 0xFFFFFF ∧ x.target = (k.huddle h).target ∧
     x.phase = (k.huddle h).phase ∧ x.state = (k.huddle h).state ∧
     x.sat = ((k.huddle h).sat || decide (0xFFFFFF < (k.huddle h).count.toNat + amount)))) ∧
  ((∀ (s : State) (c : CoreIx) (h : HudIx),
     let x := (s.m.core c).huddle h
     x.met = true → x.mode = 0 → x.releasedAt ≠ some s.m.cc →
     exec (.huddleRepeatRelease c h) s = .next (s.to (s.m.onCore c fun k => k.hudInput h s.m.cc id)) ∧
     ((∀ y, x.cyc = some y → y.at_ ≠ s.m.cc) → ∃ t, exec (.huddleRepeatRelease c h) s = .next t ∧ t.pending = s.pending ∧
       (t.m.core c).huddle h = { x with count := x.count - x.target, phase := x.phase + 1, releasedAt := some s.m.cc,
                                        passAt := s.m.cc + 1, cyc := some { x.today s.m.cc with woke := true } })) ∧
   (∀ (s : State) (c : CoreIx) (sl : SlotIx) (b w : Nat),
     let v := (s.m.core c).slot sl
     v.ctl.st = .running → v.ali.hlimit ≠ 0 → v.run.tmo = false → v.run.hwSince = some w →
     w + v.ali.hlimit.toNat ≤ s.m.now.toNat → v.bundle = some b →
     ∃ t, exec (.hudWaitTimeout c sl) s = .next t ∧ t.pending = s.pending ∧
       ((t.m.core c).slot sl).ali = { v.ali with hstat := BitVec.ofNat 6 (sImm (bS b) % 32 + 32) } ∧
       ((t.m.core c).slot sl).run.tmo = true ∧ ((t.m.core c).slot sl).ctl = v.ctl ∧ ((t.m.core c).slot sl).arch = v.arch ∧
       (∀ i : SlotIx, i ≠ sl → (t.m.core c).slot i = (s.m.core c).slot i)))

/-- MESH_DATA, MESH_ACK and MESH_NOTE (R59, R85, R163, R179, R181): the value of a load reaches its register and its read ID
is free again; an ACK of a store lowers its slot's count; a NOTE is taken by firmware. -/
def Obligations.ResponsesArrive : Prop :=
  (∀ (s : State) (c : CoreIx) (ch : ChanIx) (f : Flit) (fs : List Flit) (i pc : Nat) (a : PendAcc),
    let k := s.m.core c
    let sl := f.tag.toNat / 64
    let rid := f.tag.toNat % 64
    (ch.val = 1 ∨ ch.val = 4) → k.loMsg ch = some (f, fs) → f.op = 4 → f.why = .store i pc → f.err = false → f.bad = [] →
    sl < 4 → ((k.slot sl).run.accs.find? fun a => a.rid == some rid) = some a →
    ∃ t, exec (.meshData c ch) s = .next t ∧ t.pending = s.pending ∧
      ((t.m.core c).slot sl).arch = (if a.rd < 32 then writeS (k.slot sl).arch a.rd (BitVec.ofNat 64 f.pay.toNat)
        else (k.slot sl).arch) ∧
      rid ∉ ((t.m.core c).slot sl).run.rids ∧ ((t.m.core c).slot sl).ctl = (k.slot sl).ctl ∧
      (∀ x, memByte (t.m.core c).sram x = memByte k.sram x ∧ memByte (t.m.core c).ub x = memByte k.ub x)) ∧
  (∀ (s : State) (c : CoreIx) (f : Flit) (fs : List Flit) (i : SlotIx) (pc : Nat),
    (s.m.core c).loMsg 1 = some (f, fs) → f.op = 5 → f.why = .store i pc → f.err = false →
    exec (.meshAck c) s = .next (s.to ((s.m.onCore c fun k => k.loDrop 1).onSlot c i fun v =>
      { v with run := { v.run with acks := v.run.acks - 1 } }))) ∧
  (∀ (s : State) (c : CoreIx) (f : Flit) (fs : List Flit), (s.m.core c).loMsg 5 = some (f, fs) → f.op = 6 →
    exec (.meshNote c) s = .next (s.to (s.m.onCore c fun k => k.loDrop 5)))

/-! ## The mesh routers -/

/-- FLIT_FORWARD (R182, R187, R203): the unicast flit at the head of an input buffer leaves over the output that grants it; one
whose target's router, or a core before it, cannot take it ends here, a request with an error answer and a response counted
in PROTO; one whose OP is illegal on its channel is discarded; and the way of a flit with no sidestep is along x first and then
along y. A multicast's copy leaves over the output that grants it (R194). A forwarded flit (R187): one that arrives joins its
channel's local output, one that crosses a link with no error enters the neighbour's input buffer for its channel, no earlier
than the next cycle; either way it has left its input buffer. (Choices of the model: log 12, log 14.) -/
def Obligations.FlitsTravel : Prop :=
  ((∀ (s : State) (c : CoreIx) (p : MPort) (ch : ChanIx) (det : Bool) (ev : LinkEv) (f : Flit) (o : Nat) (x : Cand),
     let key := bufKey (portNum p) ch det
     p ≠ .loc → s.m.routerOk c = true → (s.m.field (fieldOf c)).ring = .on → (s.m.core c).headAt key s.m.cc = some f →
     f.mc = false → s.m.nextHop c f ≠ .stop → (s.m.nextHop c f = .arrive → s.m.served c f = true ∧ flitLegal f = true) →
     s.m.grantOf c key = some (o, x) → x.leg = none →
     exec (.flitForward c p ch det ev) s = .next (s.to (s.m.uniForward c o x ev))) ∧
   (∀ (s : State) (c : CoreIx) (p : MPort) (ch : ChanIx) (det : Bool) (ev : LinkEv) (f : Flit),
     let key := bufKey (portNum p) ch det
     p ≠ .loc → s.m.routerOk c = true → (s.m.field (fieldOf c)).ring = .on → (s.m.core c).headAt key s.m.cc = some f →
     f.mc = false → (s.m.nextHop c f = .stop ∨ (s.m.nextHop c f = .arrive ∧ s.m.served c f = false)) →
     s.m.canAnswer c 1 1 f = true →
     exec (.flitForward c p ch det ev) s = .next (s.to (s.m.endFlit c key f))) ∧
   (∀ (s : State) (c : CoreIx) (p : MPort) (ch : ChanIx) (det : Bool) (ev : LinkEv) (f : Flit),
     let key := bufKey (portNum p) ch det
     p ≠ .loc → s.m.routerOk c = true → (s.m.field (fieldOf c)).ring = .on → (s.m.core c).headAt key s.m.cc = some f →
     f.mc = false → s.m.nextHop c f = .arrive → s.m.served c f = true → opLegal f = false →
     exec (.flitForward c p ch det ev) s = .next (s.to ((s.m.onCore c fun k => k.takeFlit key s.m.cc).protoDrop c))) ∧
   (∀ (s : State) (c : CoreIx) (p : MPort) (ch : ChanIx) (det : Bool) (ev : LinkEv) (f : Flit) (o : Nat) (x : Cand)
       (g : Nat × Leg),
     let key := bufKey (portNum p) ch det
     let m := s.m.mcSettle c key f
     p ≠ .loc → s.m.routerOk c = true → (s.m.field (fieldOf c)).ring = .on → (s.m.core c).headAt key s.m.cc = some f →
     f.mc = true → m.grantOf c key = some (o, x) → x.leg = some g →
     exec (.flitForward c p ch det ev) s = .next (s.to (m.mcForward c o x g ev))) ∧
   (∀ (m : Mach) (c key : Nat) (f : Flit), f.tail = true →
     m.endFlit c key f =
       if f.op = 4 ∨ f.op = 5 then (m.onCore c fun k => k.takeFlit key m.cc).onCore c fun k => k.rcount cntProto
       else (m.onCore c fun k => k.takeFlit key m.cc).answer c 1 [errAnswer c f m.cc]) ∧
   (∀ c dest : Nat, (coreX c < coreX dest → wantDir c dest none = 1) ∧ (coreX dest < coreX c → wantDir c dest none = 3) ∧
     (coreX c = coreX dest → coreY c < coreY dest → wantDir c dest none = 2) ∧
     (coreX c = coreX dest → coreY dest < coreY c → wantDir c dest none = 0)) ∧
   (∀ (m : Mach) (c : Nat) (f : Flit), m.nextHop c f = .arrive ↔ c = waCore f.target.toNat)) ∧
  ((∀ (m : Mach) (c : Nat) (x : Cand) (ev : LinkEv),
     ((m.uniForward c 4 x ev).core c).loOut (loKey x.flit) = ((m.core c).loOut (loKey x.flit)) ++ [x.flit]) ∧
   (∀ (m : Mach) (c o : Nat) (x : Cand) (n : Nat),
     let f := x.flit
     let b := bufKey ((o + 2) % 4) f.chan f.det
     nbr c o = some n → n ≠ c → o < 4 → f.chan < 5 → f.purged = false →
     (f.head = true ∨ aget (m.core n).router.rejoin b = none) →
     ((m.core n).inP ((o + 2) % 4)).expect = ((m.core c).outP o).seq →
     ∃ g, ((m.uniForward c o x .good).core n).buf b = (m.core n).buf b ++ [g] ∧ g.pay = f.pay ∧
       g.target = f.target ∧ g.tag = f.tag ∧ g.op = f.op ∧ m.cc < g.front) ∧
   (∀ (k : Core) (key cc : Nat) (f : Flit) (fs : List Flit), k.inBuf key = f :: fs →
     ((k.takeFlit key cc).inBuf key).length = fs.length))

/-- LET and LINK_RETRAIN_DONE (R190, R192): a LET replays the sender's flits from the oldest not received, and the eighth in a
row holds the link for a retrain; the held link returns at the width the retrain gives, its replay going over it, or fenced,
its flits going the detour in their order. A flit sent again that its receiver expects enters its input buffer. (Choices of the
model: log 14, log 85.) -/
def Obligations.LetsAndRetrains : Prop :=
  ((∀ (s : State) (c : CoreIx) (p : MPort) (ev : LinkEv),
     let o := portNum p
     let out := (s.m.core c).outP o
     o < 4 → out.held = false → out.owed ≠ [] → s.m.dirWidth c o ≠ 1 → out.lets < 7 →
     let m := (s.m.onCore c fun k => k.rcount (cntLets o)).resendOver c o ev (2 * dirLatency c o + 2)
     let q := (m.core c).outP o
     exec (.letReplay c p ev) s = .next (s.to (m.onCore c fun k =>
       k.setOut o { q with lets := if q.owed.length = out.owed.length then out.lets + 1 else 0 }))) ∧
   (∀ (s : State) (c : CoreIx) (p : MPort) (ev : LinkEv),
     let o := portNum p
     let out := (s.m.core c).outP o
     o < 4 → out.held = false → out.owed ≠ [] → s.m.dirWidth c o ≠ 1 → 7 ≤ out.lets →
     ∃ t, exec (.letReplay c p ev) s = .next t ∧ t.pending = s.pending ∧
       (t.m.core c).outP o = { out with lets := 8, held := true } ∧
       (∀ d, d ≠ c.val → Core.Same (t.m.core d) (s.m.core d)))) ∧
  ((∀ (s : State) (c : CoreIx) (p : MPort) (w : Fin 4),
     let o := portNum p
     let out := (s.m.core c).outP o
     let l := linkOf c o
     let m : Mach := { s.m with wafer := { s.m.wafer with links := aset s.m.wafer.links (l.1 * 2 + b2n l.2) w.val,
                                                          changed := s.m.wafer.changed || s.m.linkWidth l.1 l.2 != w.val } }
     o < 4 → out.held = true → 1 ≤ w.val → (nbr c o).isSome = true →
     m.linkWidth l.1 l.2 = w.val ∧
     (w.val = 1 → exec (.linkRetrainDone c p w) s = .next (s.to (m.fenceLink c o))) ∧
     (2 ≤ w.val → exec (.linkRetrainDone c p w) s = .next (s.to ((m.onCore c fun k =>
       k.setOut o { out with lets := 0, held := false }).resendOver c o .good 0)))) ∧
   (∀ (m : Mach) (c o n extra : Nat) (f : Flit),
     let b := bufKey ((o + 2) % 4) f.chan f.det
     nbr c o = some n → n ≠ c → ((m.core c).outP o).replay = [f] → f.ackAt = none → f.purged = false → f.head = true →
     ((m.core n).inP ((o + 2) % 4)).expect = f.hseq →
     ((m.resendOver c o .good extra).core n).buf b =
       (m.core n).buf b ++ [{ f with front := m.cc + dirLatency c o + extra, took := [], promoted := false, ackAt := none }] ∧
     (((m.resendOver c o .good extra).core c).outP o).owed = []) ∧
   (∀ (m : Mach) (c o n : Nat) (f : Flit), nbr c o = some n → n ≠ c → f.chan < 8 →
     ((m.core c).outP o).replay = [f] → ((m.core c).outP o).busyIn = [] → f.ackAt = none → f.purged = false → f.mc = false →
     ((m.fenceLink c o).core c).buf (bufKey 6 f.chan f.prior.1) =
       (m.core c).buf (bufKey 6 f.chan f.prior.1) ++ [givenBack f o (m.cc + 1)]))

/-- DETOUR_UPDATE, FLIT_AGE_PROMOTION and ROUTER_SAMPLE (R189, R200, R206): detour entries proved free of cycles replace the
router's, eight at the most, as soon as no flit is on a path that they change, and wait until then; with no such entries the
enabled cores inside the hole are substituted; a head flit that has waited 256 cycles is promoted and counted; the samples of a router's input
occupancies are taken every 1,024 cc. CSR_WRITE (R10, R12): a write by firmware at an offset of a core's page, or one of the
host in a function's BAR0; a mailbox word and INTR take the value; an offset that the map does not give has no effect.
(Choices of the model: log 55.) -/
def Obligations.RegistersAndTablesOfRouters : Prop :=
  ((∀ (s : State) (c : CoreIx) (es : List (BitVec 32)), s.m.wafer.newDetours = [] →
     let l := (es.map detourOf).take 8
     ∃ t, exec (.detourUpdate c es true) s = .next t ∧ t.pending = s.pending ∧
       (s.m.pathsClear c (s.m.detourOuts c l) = true →
         (t.m.core c).router = { (s.m.core c).router with detours := l } ∧ t.m.wafer.newDetours = []) ∧
       (s.m.pathsClear c (s.m.detourOuts c l) = false →
         (t.m.core c).router = (s.m.core c).router ∧ t.m.wafer.newDetours = [(c.val, l)]) ∧
       (∀ d : CoreIx, d ≠ c → Core.Same (t.m.core d) (s.m.core d))) ∧
   (∀ (s : State) (c : CoreIx) (es : List (BitVec 32)), exec (.detourUpdate c es false) s = .next (s.to
     ((s.m.holeCores c).foldl (fun m x => if m.mayRepair x then m.draw.2.failCore x (1 + m.draw.1 % 6) false else m) s.m))) ∧
   (∀ (s : State) (c : CoreIx) (p : MPort) (ch : ChanIx) (det : Bool) (f : Flit) (fs : List Flit),
     let key := bufKey (portNum p) ch det
     p ≠ .loc → (s.m.core c).inBuf key = f :: fs → f.head = true → f.promoted = false → f.front + 256 ≤ s.m.cc →
     ∃ t, exec (.flitAgePromotion c p ch det) s = .next t ∧ t.pending = s.pending ∧
       (t.m.core c).inBuf key = { f with promoted := true } :: fs ∧
       agetD (t.m.core c).router.cnt cntAged 0 = agetD (s.m.core c).router.cnt cntAged 0 + 1 ∧
       (t.m.core c).slots = (s.m.core c).slots) ∧
   (∀ (s : State) (c : CoreIx),
     let k := s.m.core c
     (agetD k.router.cnt cntSampleAt 0).toNat + 1024 ≤ s.m.cc → s.m.routerOk c = true →
     (s.m.field (fieldOf c)).ring = .on → s.m.cc < 2 ^ 64 →
     ∃ t, exec (.routerSample c) s = .next t ∧ t.pending = s.pending ∧
       (∀ i, i < 5 → agetD (t.m.core c).router.cnt (cntDepthSum i) 0 =
         agetD k.router.cnt (cntDepthSum i) 0 + BitVec.ofNat 64 (k.portDepth i)) ∧
       agetD (t.m.core c).router.cnt cntSamples 0 = agetD k.router.cnt cntSamples 0 + 1 ∧
       (agetD (t.m.core c).router.cnt cntSampleAt 0).toNat = s.m.cc ∧
       (t.m.core c).router.bufs = k.router.bufs ∧ (t.m.core c).slots = k.slots)) ∧
  ((∀ (s : State) (c : CoreIx) (sl : SlotIx) (off : BitVec 24) (v : BitVec 64),
     exec (.csrWrite (.core c sl) off v) s = .next (s.to (s.m.fwCsrWrite c sl off.toNat v.toNat))) ∧
   (∀ (s : State) (f : FnIx) (i : Fin 8) (v : BitVec 64), f.val < mgmtFn →
     exec (.csrWrite (.bar0 f) (BitVec.ofNat 24 (0x2000 + 8 * i.val)) v) s = .next (s.to (s.m.onFn f fun y =>
       { y with mbCmd := vset y.mbCmd i.val v }))) ∧
   (∀ (s : State) (f : FnIx) (v : BitVec 64), f.val < mgmtFn →
     exec (.csrWrite (.bar0 f) 0x2090 v) s = .next (s.to (s.m.onFn f fun y => { y with intr := bitOf v.toNat 0 }))) ∧
   (∀ (m : Mach) (c s o x : Nat), (0x800 ≤ o ∧ o < 0x900) ∨ 0xB00 ≤ o → m.fwCsrWrite c s o x = m) ∧
   (∀ (m : Mach) (c s x : Nat), s < 4 → (m.core c).allEmpty = false →
     let w := (m.core c).pwr
     ((m.fwCsrWrite c s 0x924 x).core c).pwr = { w with edepth := BitVec.ofNat 2 x, lendDis := bitOf x 2, nofs := bitOf x 3,
                                                        fwVoteCl := bitOf x 4, fwVoteBk := bitOf x 5 }) ∧
   (∀ (m : Mach) (c s x : Nat), s < 4 → (m.fwCsrWrite c s 0x704 x) = m.onCore c fun k =>
     { k with mem := { k.mem with resident := BitVec.ofNat 6 x } }) ∧
   (∀ (m : Mach) (c s x : Nat), s < 4 →
     let a := ((m.core c).slot s).ali
     (((m.fwCsrWrite c s 0xA00 x).core c).slot s).ali = { a with frac := BitVec.ofNat 3 x, partner := BitVec.ofNat 17 (x / 256) }))

/-! ## Flow mode -/

/-- NODE_FIRE and STEER_FIRE (R243, R248 to R250): the cycle in which the sequencer chooses a plane issues its first fireable
node after the node pointer, whose template's parts take effect with SLOT_PC at 16 times its number; a steering unit whose
queues have messages and whose output has room pops them, marks its plane active and sends the one it steers, which enters the
router at the end of the cycle. A message is true when bit 0 of its first chunk is 1, each kind of unit takes the queues and
the output that its condition selects, and a unit pops only queues of its slot that are bound to the steering port. -/
def Obligations.NodesAndSteeringUnitsFire : Prop :=
  (∀ (s : State) (c : CoreIx) (sl i : Nat) (spare : Bool) (p : Plane),
    let m := (s.m.issueCycle c).2
    let b := (lget p.nodes i).toNat
    (s.m.issueCycle c).1 = some (sl, spare) → m.nextNode c sl = some i → ((m.core c).slot sl).plane = some p →
    m.bundleFault c sl b = none →
    exec (.nodeFire ⟨c, []⟩) s = .next (s.to ((m.onSlot c sl fun v =>
      { v with ctl := { v.ctl with pc := BitVec.ofNat 19 (16 * i) },
               plane := some { p with ptr := i, active := true, fires := inc64 p.fires } }).issues c sl b true spare))) ∧
  (∀ (s : State) (c : CoreIx) (sl : SlotIx) (u : Fin 4) (p : Plane) (pops : List Nat) (q o : Nat),
    let k := s.m.core c
    k.plane sl = some p → k.steerPlan sl (lget p.steer u) s.m.cc = some (pops, some (q, o)) →
    s.m.portRoom c sl o (msgAt k q 0).chunks.length 0 = true → (k.slot sl).ctl.st = .running → k.clocksRun s.m.cc = true →
    aget p.steerAt u ≠ some s.m.cc → aget p.steerOut u = none →
    exec (.steerFire c sl u) s = .next (s.to (s.m.onCore c fun k => (k.popQueues pops s.m.cc).onPlane sl fun p =>
      { p with active := true, steerFires := inc64 p.steerFires, steerAt := aset p.steerAt u s.m.cc,
               steerOut := aset p.steerOut u (k.sendPort sl o, (msgAt k q 0).chunks) }))) ∧
  (∀ (s : State) (c : CoreIx) (sl : SlotIx) (u : Fin 4) (p : Plane) (pops : List Nat),
    let k := s.m.core c
    k.plane sl = some p → k.steerPlan sl (lget p.steer u) s.m.cc = some (pops, none) →
    (k.slot sl).ctl.st = .running → k.clocksRun s.m.cc = true → aget p.steerAt u ≠ some s.m.cc → aget p.steerOut u = none →
    exec (.steerFire c sl u) s = .next (s.to (s.m.onCore c fun k => (k.popQueues pops s.m.cc).onPlane sl fun p =>
      { p with active := true, steerFires := inc64 p.steerFires, steerAt := aset p.steerAt u s.m.cc }))) ∧
  (∀ (m : Mach) (c s u v : Nat) (p : Plane) (chunks : List (BitVec 256)),
    (m.core c).plane s = some p → aget p.steerOut u = some (v, chunks) →
    m.canSend c ((m.core c).slot s).ctl.cid.toNat v (max 1 chunks.length) 0 = true →
    m.steerSend c s u = (m.send c s ((m.core c).slot s).ctl.pc.toNat v chunks).onPlane c s fun p =>
      { p with steerOut := adel p.steerOut u }) ∧
  (∀ (k : Core) (s : Nat) (e : Steer) (cc : Nat),
    let t := isTrue (msgAt k e.qc.toNat 0)
    let has := fun q : BitVec 3 => k.steerQueue s q.toNat = true ∧ k.available q.toNat cc ≠ 0
    (¬ has e.qc → k.steerPlan s e cc = none) ∧
    (has e.qc →
      (e.kind = 1 → has e.qa → k.steerPlan s e cc =
        some ([e.qc.toNat, e.qa.toNat], some (e.qa.toNat, if t then e.ot.toNat else e.off.toNat))) ∧
      (e.kind = 2 → t = true → has e.qa → k.steerPlan s e cc = some ([e.qc.toNat, e.qa.toNat], some (e.qa.toNat, e.ot.toNat))) ∧
      (e.kind = 2 → t = false → has e.qb → k.steerPlan s e cc = some ([e.qc.toNat, e.qb.toNat], some (e.qb.toNat, e.ot.toNat))) ∧
      (e.kind = 3 → t = true → has e.qa → k.steerPlan s e cc = some ([e.qc.toNat, e.qa.toNat], some (e.qa.toNat, e.ot.toNat))) ∧
      (e.kind = 3 → t = false → has e.qa → k.steerPlan s e cc = some ([e.qc.toNat, e.qa.toNat], none))) ∧
    (∀ q : Nat, k.steerQueue s q = true → (k.queue q).port = 5))

/-- The detector at a region's home core (R252, R253): after WINDOW cycles P1 leaves; a circuit that finds the region quiet is
followed by P2, and a second one with a stuck queue by a trace; a lost probe, or one that finds activity, starts a window; a
trace that closes a cycle orders the spill of the queue R253 chooses, and one that closes none starts a window. (Choices of the
model: log 27, log 30.) -/
def Obligations.DeadlockDetectorRuns : Prop :=
  (∀ (s : State) (c : CoreIx) (sl : SlotIx) (p : Plane), (s.m.core c).plane sl = some p → p.phase = .window →
    p.since + p.window ≤ s.m.cc → s.m.isHome c p = true → ((s.m.core c).slot sl).ctl.st = .running →
    exec (.detectorWindow c sl) s = .next (s.to ((s.m.toPhase c sl .probe1).detectorStep c sl))) ∧
  (∀ (s : State) (c : CoreIx) (sl : SlotIx) (p : Plane), (s.m.core c).plane sl = some p → p.phase = .probe1 →
    p.since + s.m.circuitTime p ≤ s.m.cc → s.m.circuitTime p ≤ p.window → (circuit p.rect).length ≤ p.probe.visited →
    exec (.probeReturn c sl false) s = .next (s.to (
      if p.probe.quiet = true then (s.m.toPhase c sl .probe2).detectorStep c sl else s.m.toPhase c sl .window))) ∧
  (∀ (s : State) (c : CoreIx) (sl : SlotIx) (p : Plane), (s.m.core c).plane sl = some p → p.phase = .probe2 →
    p.since + s.m.circuitTime p ≤ s.m.cc → s.m.circuitTime p ≤ p.window → (circuit p.rect).length ≤ p.probe.visited →
    (p.probe.quiet = false ∨ s.m.firstStuck p.probe.stuck = none →
      exec (.probeReturn c sl false) s = .next (s.to (s.m.toPhase c sl .window))) ∧
    (∀ x, p.probe.quiet = true → s.m.firstStuck p.probe.stuck = some x →
      exec (.probeReturn c sl false) s = .next (s.to (((s.m.toPhase c sl .trace { cur := some (x.1, some x.2) }).onPlane c sl
        fun p => { p with detection := p.detection + 1 }).detectorStep c sl)))) ∧
  (∀ (s : State) (c : CoreIx) (sl : SlotIx) (p : Plane), (s.m.core c).plane sl = some p →
    (p.phase = .probe1 ∨ p.phase = .probe2) → p.since + p.window ≤ s.m.cc →
    exec (.probeReturn c sl true) s = .next (s.to (s.m.toPhase c sl .window))) ∧
  (∀ (s : State) (c : CoreIx) (sl : SlotIx) (p : Plane),
    let m := s.m.toPhase c sl .window
    (s.m.core c).plane sl = some p → p.phase = .trace → p.probe.cur = none → p.probe.next ≤ s.m.cc →
    (∀ x, m.chooseSpill p.probe.loop = some x →
      exec (.traceReturn c sl) s = .next (s.to ((m.sendNote c x.1 (m.slotCid c sl)).onPlane c sl fun y =>
        { y with order := some { core := x.1, region := p.region, queue := x.2, detection := y.detection,
                                 at_ := s.m.cc + 2 + hops c x.1 + 3 * seams c x.1 } }))) ∧
    (m.chooseSpill p.probe.loop = none → exec (.traceReturn c sl) s = .next (s.to m)))

/-- The backstop (R253 to R256): a spill order starts the transfer of a stuck queue, of the messages whose records its ring has
space for; at its end the queue is empty and in backstop state, or, where a record finds too little space, the region ends in
FLOW_DEADLOCK; while a queue is in backstop state a message for it is appended to the ring, also while its plane is halted, and
refills bring the oldest record back to the tail of the queue; a ring without room for it ends in FLOW_DEADLOCK. DEPTH_SAMPLE
(R259): every SPERIOD cycles each of a plane's queues adds one to the bin its count falls in, an empty queue to bin 0 and a
full or spilled one to bin 15, and the plane's sample count rises by one. (Choices of the model: log 57.) -/
def Obligations.BackstopAndQueueDepths : Prop :=
  ((∀ (s : State) (c : CoreIx) (q : QueueIx) (home : Nat × Nat) (homes : List (Nat × Nat)),
     let m := s.m.onPlane home.1 home.2 fun p => { p with order := none }
     let sl := ((m.core c).queue q).slot.toNat
     s.m.orderHomes c q = home :: homes →
     (m.isStuck c q = false → exec (.spillOrder c q) s = .next (s.to m)) ∧
     (∀ p, m.isStuck c q = true → (m.core c).plane sl = some p → p.bsSize = 0 →
       exec (.spillOrder c q) s = .next (s.to (m.flowDeadlock c sl q))) ∧
     (∀ p, m.isStuck c q = true → (m.core c).plane sl = some p → p.bsSize ≠ 0 →
       let n := ((fitting (ringSize p - (agetD p.rings q.val {}).occ) ((m.core c).queue q).msgs).map recBytes).sum
       exec (.spillOrder c q) s = .next (s.to (m.onCore c fun k =>
         (k.onPlane sl fun p => { p with rings := aset p.rings q { agetD p.rings q.val {} with spilling := true } }).addXfer
           { kind := 0, queue := q, slot := sl, left := n / 32 } s.m.cc)))) ∧
   (∀ (s : State) (c : CoreIx) (q : QueueIx) (x : Xfer) (p : Plane),
     let k := s.m.core c
     let fit := fitting (ringSize p - (agetD p.rings q.val {}).occ) (k.queue q).msgs
     k.xferDone 0 q = some x → k.plane (k.queue q).slot.toNat = some p →
     (fit.length = (k.queue q).msgs.length →
       ∃ t, exec (.spill c q) s = .next t ∧ t.pending = s.pending ∧ ((t.m.core c).queue q).msgs = [] ∧
         (∀ r, r ≠ q.val → (t.m.core c).queue r = k.queue r) ∧ (t.m.core c).xfers = (k.nextXfer s.m.cc).xfers ∧
         (∀ d, d ≠ c.val → Core.Same (t.m.core d) (s.m.core d))) ∧
     (fit.length < (k.queue q).msgs.length →
       exec (.spill c q) s = .next (s.to (((s.m.onCore c fun k =>
         (fit.foldl (fun k y => k.ringPut x.slot q y) k).nextXfer s.m.cc).onPlane c x.slot fun p =>
           { p with rings := aset p.rings q { agetD p.rings q.val {} with active := false, spilling := false } }).flowDeadlock
             c x.slot q)))) ∧
   (∀ (s : State) (c : CoreIx) (ch : ChanIx) (f : Flit) (fs : List Flit) (q : Nat) (p : Plane),
     let k := s.m.core c
     let sl := (k.queue q).slot.toNat
     let r := agetD p.rings q {}
     let x := qMsgOf fs f s.m.cc s.m.now
     k.loMsg ch = some (f, fs) → (ch.val = 2 ∨ ch.val = 3) → f.op = 2 → msgQueue f = some q → k.plane sl = some p →
     r.active = true → k.hasRoom 4 1 1 = true → k.clocksRun s.m.cc = true →
     (r.occ + recBytes x ≤ ringSize p → exec (.append c ch) s = .next (s.to (
       ((s.m.onCore c fun k => ((k.loDrop ch).ringPut sl q x).addXfer
         { kind := 1, queue := q, slot := sl, left := recBytes x / 32 } s.m.cc).markLanding f).finish c f false))) ∧
     (ringSize p < r.occ + recBytes x → (k.slot sl).ctl.st = .running →
       (c.val, sl) ∈ s.m.regionPlanes (s.m.slotCid c sl) p.region →
       exec (.append c ch) s = .next (s.to (s.m.flowDeadlock c sl q)))) ∧
   (∀ (s : State) (c : CoreIx) (q : QueueIx) (p : Plane) (e : RingRec) (es : List RingRec) (x : Xfer),
     let k := s.m.core c
     let sl := (k.queue q).slot.toNat
     k.plane sl = some p → (agetD p.rings q.val {}).recs = e :: es → k.xferDone 2 q = some x →
     ∃ t, exec (.refill c q) s = .next t ∧ t.pending = s.pending ∧
       ((t.m.core c).queue q).msgs = (k.queue q).msgs ++
         [{ chunks := e.chunks, token := e.token, landed := s.m.cc, src := e.src, time := e.time }]) ∧
   (∀ (s : State) (c : CoreIx) (q : QueueIx) (p : Plane) (e : RingRec) (es : List RingRec),
     let k := s.m.core c
     let sl := (k.queue q).slot.toNat
     k.plane sl = some p → (agetD p.rings q.val {}).recs = e :: es → (agetD p.rings q.val {}).active = true → k.xfers = [] →
     (k.queue q).msgs.length < (k.queue q).thresh.toNat →
     exec (.refill c q) s = .next (s.to (s.m.onCore c fun k => k.addXfer
       { kind := 2, queue := q, slot := sl, left := 1 + e.chunks.length } s.m.cc)))) ∧
  ((∀ (s : State) (c : CoreIx) (sl : SlotIx) (p : Plane),
     let k := s.m.core c
     k.plane sl = some p → p.speriod ≠ 0 → p.lastSample + p.speriod ≤ s.m.cc → (k.slot sl).ctl.st = .running →
     exec (.depthSample c sl) s = .next (s.to (s.m.onPlane c sl fun p =>
       let qs := (List.range 8).filter fun q => (k.queue q).valid && (k.queue q).slot.toNat == sl.val
       { p with lastSample := s.m.cc, samples := sat32 p.samples,
                hist := qs.foldl (fun h q => aset h (q * 16 + depthBin k q) (sat32 (agetD h (q * 16 + depthBin k q) 0)))
                  p.hist }))) ∧
   (∀ (k : Core) (q : Nat), 0 < (k.queue q).thresh.toNat → (k.ring q).active = false →
     ((k.queue q).msgs = [] → depthBin k q = 0) ∧
     ((k.queue q).thresh.toNat ≤ (k.queue q).msgs.length → depthBin k q = 15) ∧
     (0 < (k.queue q).msgs.length → (k.queue q).msgs.length < (k.queue q).thresh.toNat →
       1 ≤ depthBin k q ∧ depthBin k q ≤ 14)))

/-! ## Contexts -/

/-- CTX_CREATE and CTX_CONFIGURE (R261, R263, R269): a new context takes the lowest free CID, which RES0 reports; a
configuration that admission finds room for is installed, once no line is on its way into a cache that it changes (R140), and
a refused one leaves the old in force with the status and the detail of its first failure. (Choices of the model: log 60.) -/
def Obligations.ContextsAreCreatedAndConfigured : Prop :=
  (∀ (s : State) (f : FnIx) (tag : BitVec 16) (x : Cmd) (cid : Nat), s.m.Turn f tag.toNat 0x0100 x →
    (∀ c, c < cid → (s.m.ctx c).isSome = true) → cid < 1024 → s.m.ctx cid = none → s.m.boot.life ≠ .retired →
    (s.m.boot.life = .manufacture → bitOf (le x.arg 0 1) 0 = true) →
    exec (.ctxCreate f tag) s = .next (s.to (((s.m.begun x).setCtx cid
      { owner := if f.val = mgmtFn then 0 else f.val, dbg := bitOf (le x.arg 0 1) 0 }).done x 0 cid))) ∧
  (∀ (s : State) (f : FnIx) (tag : BitVec 16) (x : Cmd), s.m.Turn f tag.toNat 0x0100 x →
    (∀ c, c < 1024 → (s.m.ctx c).isSome = true) →
    exec (.ctxCreate f tag) s = .next (s.to ((s.m.begun x).done x 0x0201))) ∧
  (∀ (s : State) (f : FnIx) (tag : BitVec 16) (x : Cmd) (y : Ctx) (b : Bytes),
    let c := (readBlock (padTo b x.len)).merge
    s.m.Turn f tag.toNat 0x0101 x → s.m.ctx x.cid = some y → (y.st = .created ∨ y.st = .admitted) →
    s.m.ctxIdle x.cid = true → x.fn ≠ mgmtFn →
    let cores := ((y.slots ++ c.slots).map fun s => s.core).eraseDups
    ((s.m.begun x).admission x.cid y.dbg c = none →
      exec (.ctxConfigure f tag (some b)) s = .next (s.to (
        if (s.m.begun x).partitionWaits ((s.m.begun x).otherSlots x.cid) c.slots cores = true then s.m
        else ((s.m.begun x).install x.cid y c).done x 0))) ∧
    (∀ r, (s.m.begun x).admission x.cid y.dbg c = some r →
      exec (.ctxConfigure f tag (some b)) s = .next (s.to ((s.m.begun x).done x r.status r.res0 r.detail)))) ∧
  (∀ (s : State) (f : FnIx) (tag : BitVec 16) (x : Cmd) (y : Ctx) (data : Option Bytes),
    s.m.Turn f tag.toNat 0x0101 x → s.m.ctx x.cid = some y → (y.st = .created ∨ y.st = .admitted) →
    s.m.ctxIdle x.cid = false →
    exec (.ctxConfigure f tag data) s = .next (s.to ((s.m.begun x).done x 0x0402)))

/-- CTX_RESET and CTX_DESTROY (R261, R278, R279): a reset of an ADMITTED context clears its work on every core, abandons its
other commands, fills its buckets and leaves it RESETTING until its completion is delivered; every slot of the context is then
LOADED with its queues empty and its huddles at zero. A destroy releases all it holds, once no line is on its way into a cache that it changes (R140); during a
reset it is held. (Choices of
the model: log 60.) -/
def Obligations.ContextsAreResetAndDestroyed : Prop :=
  (∀ (s : State) (f : FnIx) (tag : BitVec 16) (x : Cmd) (y : Ctx),
    s.m.Turn f tag.toNat 0x0102 x → s.m.moving f tag.toNat 0x0102 = false → s.m.ctx x.cid = some y → y.st = .admitted →
    le x.arg 0 1 ≤ 7 →
    exec (.ctxReset f tag) s = .next (s.to ((((((s.m.begun x).abandon x.cid).resetWork x.cid (le x.arg 0 1)).fillBuckets
      x.cid y.tags).onCtx x.cid fun y => { y with st := .resetting }).done x 0))) ∧
  (∀ (s : State) (f : FnIx) (tag : BitVec 16) (x : Cmd) (y : Ctx),
    s.m.Turn f tag.toNat 0x0103 x → s.m.moving f tag.toNat 0x0103 = false → s.m.ctx x.cid = some y →
    (y.st = .admitted ∨ y.st = .created) →
    s.m.partitionWaits (s.m.otherSlots x.cid) [] ((y.slots.map fun z => z.core).eraseDups) = false →
    exec (.ctxDestroy f tag) s = .next (s.to ((s.m.destroyCtx x.cid).done x 0))) ∧
  (∀ (s : State) (f : FnIx) (tag : BitVec 16) (x : Cmd) (y : Ctx),
    s.m.Turn f tag.toNat 0x0103 x → s.m.moving f tag.toNat 0x0103 = false → s.m.ctx x.cid = some y → y.st = .resetting →
    y.heldDestroy = none →
    exec (.ctxDestroy f tag) s = .next (s.to ((s.m.onCtx x.cid fun y =>
      { y with heldDestroy := some (f, tag.toNat) }).onCmd x.order fun z => { z with started := true }))) ∧
  (∀ (k : Core) (cid opts cc i : Nat), i ∈ k.slotsOf cid → i < 4 →
    ((resetCore k cid opts cc).slot i).ctl.st = .loaded ∧ ((resetCore k cid opts cc).slot i).ctl.cause = 0 ∧
    ((resetCore k cid opts cc).slot i).ctl.cid = (k.slot i).ctl.cid ∧
    (∀ q, q < 8 → (k.queue q).valid = true → (k.queue q).slot.toNat = i →
      ((resetCore k cid opts cc).queue q).msgs = [] ∧ ((resetCore k cid opts cc).queue q).valid = true)) ∧
  (∀ (k : Core) (cid opts cc i : Nat), i < 4 → i ∉ k.slotsOf cid →
    (resetCore k cid opts cc).slot i = k.slot i)

/-- BUCKET_REFILL, REACH_RECOMPUTE, REPLACE_REQUIRED_REPEAT and HANG_LIMIT (R265, R266, R280): a bucket gains its rate at the
end of its period, what it owes paid first, and never holds more than twice its rate; a reach recomputed sets the segments that exceed their capacity
and the event goes to the owner for each, again every ten seconds; a context that has made no progress for its HANG limit is
halted with CAUSE 7 and its owner hears of it. (Choices of the model: log 24, log 31.) -/
def Obligations.BucketsReachAndHangLimit : Prop :=
  (∀ (s : State) (b : BucketName) (x : Bucket), aget s.m.buckets (bucketKey b).1 = some x → x.at_ + (bucketKey b).2 ≤ s.m.cc →
    let y := { x with tokens := min (2 * x.rate) (x.tokens + (x.rate - x.owed)), owed := x.owed - x.rate,
                      at_ := x.at_ + (bucketKey b).2 }
    exec (.bucketRefill b) s = .next (s.to { s.m with buckets := aset s.m.buckets (bucketKey b).1 y })) ∧
  (∀ (s : State) (cid : BitVec 10) (x : Ctx), s.m.ctx cid.toNat = some x → x.st = .admitted →
    s.m.overSegsOf cid.toNat x = [] →
    exec (.reachRecompute cid) s = .next (s.to (s.m.setCtx cid.toNat
      { x with overSegs := [], lowered := false, replaceAt := none }).setRates)) ∧
  (∀ (s : State) (cid : BitVec 10) (x : Ctx) (g : Nat) (gs : List Nat), s.m.ctx cid.toNat = some x → x.st = .admitted →
    s.m.overSegsOf cid.toNat x = g :: gs →
    exec (.reachRecompute cid) s = .next (s.to ((g :: gs).foldl (fun m g => m.replaceEvent cid.toNat g)
      (s.m.setCtx cid.toNat { x with overSegs := g :: gs, lowered := true, replaceAt := some s.m.cc }).setRates))) ∧
  (∀ (s : State) (cid : BitVec 10) (x : Ctx) (t : Nat), s.m.ctx cid.toNat = some x → x.replaceAt = some t →
    t + 12000000000 ≤ s.m.cc → x.overSegs ≠ [] → (∀ g ∈ x.overSegs, g ∈ s.m.ctxReach x) →
    exec (.replaceRequiredRepeat cid) s = .next (s.to (x.overSegs.foldl (fun m g => m.replaceEvent cid.toNat g)
      (s.m.setCtx cid.toNat { x with lowered := true, replaceAt := some s.m.cc })))) ∧
  (∀ (s : State) (cid : BitVec 10) (x : Ctx), s.m.ctx cid.toNat = some x → x.st = .admitted → x.dead.hang ≠ 0 →
    x.dead.hang * 1200000 ≤ x.clock → s.m.ctxLive cid.toNat = true →
    let m := (s.m.haltCtx cid.toNat 7).onCtx cid.toNat fun x =>
      { x with clock := 0, prog := { x.prog with hangs := x.prog.hangs + 1 } }
    exec (.hangLimit cid) s = .next (s.to ((m.logRec 0x0F 0xFFFF cid.toNat).raiseOwner cid.toNat
      (m.event 2 cid.toNat 0 0 0 0))))

/-! ## Rings, doorbells, the mailbox, completions and events -/

/-- RING_CREATE, RING_DESTROY, DB_CMD_TAIL_WRITE and DB_CPL_HEAD_WRITE (R330, R334, R335, R339): a ring whose arguments are in
range is created, events kept for the function going to an event ring at once, and one with none of its commands waiting is
destroyed; a tail written submits the entries up to it in order, which wait while the completion ring has no free entry, a
head written frees entries, lets kept ones be written and
the ring be consumed again; a doorbell for a ring that does not exist, or out of its range, is answered with an entry of TAG
0xFFFF and changes no ring register. MB_DOORBELL, MB_STATUS_READ and BAR0_RESERVED_WRITE (R336, R337, R339): a doorbell with
GO = 1 submits the entry in MB_CMD and sets BUSY, or, while BUSY, is a violation and sets VIOL; a read of MB_STATUS answers
BUSY, DONE and VIOL and clears the last two, but for a bit set in that cycle, which it does not show (R11); a write at a reserved offset is a violation that is counted, logged and reported.
(Choices of the model: log 26, log 61.) -/
def Obligations.CommandsAreTaken : Prop :=
  ((∀ (s : State) (f : FnIx) (tag : BitVec 16) (x : Cmd),
     let n := le x.arg 1 1
     let v := le x.arg 2 2
     s.m.Turn f tag.toNat 0x0001 x → aget (s.m.fn f).rings (le x.arg 0 1) = none → 4 ≤ n → n ≤ 16 → 1 ≤ v → v ≤ 2047 →
     le x.arg 5 1 = 0 → le x.arg 6 2 ≤ 1000 → le x.arg 8 8 % 4096 = 0 → le x.arg 16 8 % 4096 = 0 → f.val ≠ mgmtFn →
     s.m.ringsTaken < 4096 →
     let y : Ring := { cmdBase := le x.arg 8 8, cplBase := le x.arg 16 8, n := n, vector := v, icount := le x.arg 4 1,
                       itime := le x.arg 6 2, events := false }
     exec (.ringCreate f tag) s = .next (s.to ((((s.m.begun x).onFn f fun z =>
       { z with rings := aset z.rings (le x.arg 0 1) y }).flushEvents f 300).done x 0))) ∧
   (∀ (s : State) (f : FnIx) (tag : BitVec 16) (x : Cmd) (y : Ring),
     let r := le x.arg 0 1
     s.m.Turn f tag.toNat 0x0002 x → aget (s.m.fn f).rings r = some y → x.via ≠ .ring r → y.kept = [] →
     (∀ z ∈ s.m.host.cmds, z.fn = f.val → z.via = .ring r → z.order = x.order) →
     exec (.ringDestroy f tag) s = .next (s.to ((s.m.onFn f fun z => { z with rings := adel z.rings r }).done x 0))) ∧
   (∀ (s : State) (f : FnIx) (r : BitVec 8) (v : BitVec 64) (es : List Bytes) (y : Ring),
     let t := v.toNat % 65536
     let n := (t + y.size - y.tail) % y.size
     f.val < mgmtFn → s.m.hostUp (portOf f) = true → aget (s.m.fn f).rings r.toNat = some y → t < y.size →
     (y.free = true → y.kept = [] →
       exec (.dbCmdTailWrite f r v (some es)) s = .next (s.to (((es.take n).foldl (fun m e => m.submit f (.ring r.toNat) e [] false)
         (s.m.onRing f r.toNat fun y => { y with tail := t })).onRing f r.toNat fun y =>
           { y with head := (y.head + min n es.length) % y.size }))) ∧
     (y.free = false →
       exec (.dbCmdTailWrite f r v (some es)) s = .next (s.to ((es.take n).foldl (fun m e => m.submit f (.ring r.toNat) e [] true)
         (s.m.onRing f r.toNat fun y => { y with tail := t }))))) ∧
   (∀ (s : State) (f : FnIx) (r : BitVec 8) (v : BitVec 64) (y : Ring),
     let h := v.toNat % 65536
     let used := (h + y.size - y.cplHead) % y.size
     f.val < mgmtFn → s.m.hostUp (portOf f) = true → aget (s.m.fn f).rings r.toNat = some y → h < y.size → used ≤ y.unread →
     exec (.dbCplHeadWrite f r v) s = .next (s.to (((((s.m.onRing f r.toNat fun y =>
       { y with cplHead := h, pendingInt := y.pendingInt - used,
                oldest := if used = y.unread then none else y.oldest }).flushKept f r.toNat 65536).flushEvents f 300).resume f
         r.toNat)))) ∧
   (∀ (s : State) (f : FnIx) (r : BitVec 8) (v : BitVec 64) (es : Option (List Bytes)),
     f.val < mgmtFn → s.m.hostUp (portOf f) = true →
     (aget (s.m.fn f).rings r.toNat = none ∨ ∃ y, aget (s.m.fn f).rings r.toNat = some y ∧ y.size ≤ v.toNat % 65536) →
     exec (.dbCmdTailWrite f r v es) s = .next (s.to (s.m.badDoorbell f r.toNat)) ∧
     exec (.dbCplHeadWrite f r v) s = .next (s.to (s.m.badDoorbell f r.toNat)))) ∧
  ((∀ (s : State) (f : FnIx) (v : BitVec 64), v.toNat % 2 = 1 → f.val < mgmtFn → s.m.hostUp (portOf f) = true →
     (s.m.fn f).busy = false →
     exec (.mbDoorbell f v) s = .next (s.to ((s.m.onFn f fun x => { x with busy := true }).submit f .mailbox
       (s.m.fn f).mbEntry [] false))) ∧
   (∀ (s : State) (f : FnIx) (v : BitVec 64), v.toNat % 2 = 1 → f.val < mgmtFn → s.m.hostUp (portOf f) = true →
     (s.m.fn f).busy = true →
     exec (.mbDoorbell f v) s = .next (s.to ((s.m.onFn f fun x =>
       { x with viol := true, violAt := some s.m.cc }).violation f 0x2080 true))) ∧
   (∀ (s : State) (f : FnIx),
     let x := s.m.fn f
     let done := x.done && x.doneAt != some s.m.cc
     let viol := x.viol && x.violAt != some s.m.cc
     ∃ t, exec (.mbStatusRead f) s = .next t ∧ t.pending = s.pending ∧
       t.m.fn f = { x with readValue := BitVec.ofNat 64 (b2n x.busy + 2 * b2n done + 4 * b2n viol), done := x.done && !done,
                           viol := x.viol && !viol } ∧
       (∀ g, g ≠ f.val → t.m.fn g = s.m.fn g) ∧ (∀ c, Core.Same (t.m.core c) (s.m.core c))) ∧
   (∀ (s : State) (f : FnIx) (off : BitVec 24), bar0Reserved off.toNat = true → f.val < mgmtFn →
     ∃ t, exec (.bar0ReservedWrite f off) s = .next t ∧ t.pending = s.pending ∧ (t.m.fn f).viols = (s.m.fn f).viols + 1 ∧
       (t.m.fn f).rings = (s.m.fn f).rings ∧ (∀ c, Core.Same (t.m.core c) (s.m.core c))))

/-- What firmware answers to an entry before it carries anything out (R338 to R340, R345), in the order of log 25; an entry
that passes every check becomes a command in progress that COMMAND_COMPLETION answers later. -/
def Obligations.EntriesAreChecked : Prop :=
  (∀ (m : Mach) (x : Cmd) (e : Bytes), malformed x e = true → m.entryStatus x e = some 0x0107) ∧
  (∀ (m : Mach) (x : Cmd) (e : Bytes), malformed x e = false → (∃ y ∈ m.host.cmds, y.fn = x.fn ∧ y.tag = x.tag) →
    m.entryStatus x e = some 0x0108) ∧
  (∀ (m : Mach) (x : Cmd) (e : Bytes), malformed x e = false → (∀ y ∈ m.host.cmds, ¬ (y.fn = x.fn ∧ y.tag = x.tag)) →
    (argLen x.opcode x.arg = none → m.entryStatus x e = some 0x0101) ∧
    ((argLen x.opcode x.arg).isSome = true → x.opcode ≠ 0x0183 → m.boot.ready = false → earlyOp x.opcode = false →
      m.entryStatus x e = some 0x0404) ∧
    ((argLen x.opcode x.arg).isSome = true → x.opcode ≠ 0x0183 → m.boot.ready = true → m.boot.minimal = false →
      2 < m.boot.stage → m.boot.life ≠ .retired →
      (pfOnly x = true → isPf x.fn = false → m.entryStatus x e = some 0x0502) ∧
      (pfOnly x = false → namesCtx x = true → x.opcode ≠ 0x0132 → m.ctx (x.cid % 1024) = none →
        m.entryStatus x e = some 0x0103) ∧
      (pfOnly x = false → namesCtx x = false → badVariant x = true → m.entryStatus x e = some 0x0102) ∧
      (pfOnly x = false → namesCtx x = false → badVariant x = false → m.entryStatus x e = none))) ∧
  (∀ (m : Mach) (f : Nat) (via : Via) (e data : Bytes) (w : Bool), m.entryStatus (parseCmd f via e m.now data) e = none →
    let x := { parseCmd f via e m.now data with order := m.host.nextOrder, waiting := w, result := none }
    m.submit f via e data w = { m with host := { m.host with cmds := m.host.cmds ++ [x], nextOrder := m.host.nextOrder + 1 } })

/-- COMMAND_COMPLETION, EVENT_POST and INTERRUPT_COALESCE (R333, R335 to R337, R349 to R351): a command with a result leaves
the commands in progress and its entry is written to its ring, or kept where the ring has no free entry, or into MB_CPL with
DONE; the oldest raised event is written to the function's event ring, or kept; the vector of a ring is raised ITIME after its
oldest unread completion. The 32 bytes of an entry hold TAG, STATUS, SQHEAD, PHASE, EVENT, RES0 and RES1. (Choices of the
model: log 61.) -/
def Obligations.CompletionsAndEventsAreDelivered : Prop :=
  (∀ (s : State) (f : FnIx) (tag : BitVec 16) (x : Cmd) (e : Cpl) (r : Nat),
    s.m.settleLoads.host.cmds.find? (fun x => x.fn == f.val && x.tag == tag.toNat && x.result.isSome && !x.waiting) = some x →
    x.result = some e → x.via = .ring r →
    exec (.commandCompletion f tag true) s = .next (s.to (((s.m.settleLoads.dropCmd x.order).afterCompletion x).putEntry f r e
      (bitOf x.flags.toNat 0)))) ∧
  (∀ (s : State) (f : FnIx) (tag : BitVec 16) (x : Cmd) (e : Cpl) (ok : Bool),
    let m := (s.m.settleLoads.dropCmd x.order).afterCompletion x
    s.m.settleLoads.host.cmds.find? (fun x => x.fn == f.val && x.tag == tag.toNat && x.result.isSome && !x.waiting) = some x →
    x.result = some e → x.via = .mailbox → (m.fn f).intr = false →
    exec (.commandCompletion f tag ok) s = .next (s.to (m.onFn f fun y =>
      { y with busy := false, done := true, doneAt := some m.cc, mbCpl := BitVec.ofNat 256 (ofBytes (cplBytes e 0 true)) }))) ∧
  (∀ (m : Mach) (f r : Nat) (e : Cpl) (now : Bool) (y : Ring), aget (m.fn f).rings r = some y →
    (y.free = true → y.kept = [] → m.putEntry f r e now = m.writeEntry f r e now) ∧
    (y.free = false → m.putEntry f r e now = m.onRing f r fun y => { y with kept := y.kept ++ [e] })) ∧
  (∀ (e : Cpl) (sq : Nat) (ph : Bool), sq < 65536 →
    let b := cplBytes e sq ph
    b.length = 32 ∧ le b 0 2 = e.tag.toNat ∧ le b 2 2 = e.status.toNat ∧ le b 4 2 = sq ∧
    le b 6 2 = b2n ph + 2 * b2n e.event ∧ le b 8 8 = e.res0.toNat ∧ le b 16 16 = e.res1.toNat) ∧
  (∀ (s : State) (f : FnIx) (e : Cpl) (es : List Cpl) (r : Nat) (y : Ring), (s.m.fn f).raised = e :: es →
    (s.m.fn f).eventRing = some r → aget (s.m.fn f).rings r = some y → y.free = true → y.kept = [] → (s.m.fn f).kept = [] →
    s.m.hostUp (portOf f) = true → s.m.viaMgmt f = false →
    exec (.eventPost f) s = .next (s.to ((s.m.onFn f fun x => { x with raised := es }).writeEntry f r e false))) ∧
  (∀ (s : State) (f : FnIx) (e : Cpl) (es : List Cpl), (s.m.fn f).raised = e :: es → (s.m.fn f).eventRing = none →
    s.m.viaMgmt f = false →
    exec (.eventPost f) s = .next (s.to ((s.m.onFn f fun x => { x with raised := es }).onFn f fun x => x.keep e))) ∧
  (∀ (s : State) (f : FnIx) (r : BitVec 8) (y : Ring) (t : Nat), aget (s.m.fn f).rings r.toNat = some y → y.icount ≠ 0 →
    y.unread ≠ 0 → y.oldest = some t → t + usCc y.itime ≤ s.m.cc →
    exec (.interruptCoalesce f r) s = .next (s.to ((s.m.interrupt f y.vector).onRing f r.toNat fun y =>
      { y with oldest := none })))

/-! ## Loads, launches, steps, checkpoints and logs -/

/-- LOAD of memory and of a message (R343, R344): the bytes of the host buffer go to the slot's window on the core named, and
bytes of a window to the host buffer; a range outside the window is answered WINDOW; a message enters the router of the core
named for the queue named, and is answered once it has landed. (Choices of the model: log 42.) -/
def Obligations.LoadsMoveBytes : Prop :=
  (∀ (s : State) (f : FnIx) (tag : BitVec 16) (x : Cmd) (y : Ctx) (b : Bytes) (q : Place),
    let core := le x.arg 1 4
    let sl := le x.arg 5 1
    let space := le x.arg 6 1
    s.m.Turn f tag.toNat 0x0110 x → le x.arg 0 1 = 0 → s.m.ctx x.cid = some y → y.st = .admitted → x.fn ≠ mgmtFn →
    0 < x.len → space ≤ 1 → (y.entry core sl).isSome = true → le x.arg 15 2 = 0 → le x.arg 17 2 = 0 →
    s.m.loadPlace core sl space (le x.arg 7 8) x.len true = some q →
    exec (.loadHostToMemory f tag (some b)) s = .next (s.to ((((s.m.begun x).fwReach (s.m.runs core) space q.off).onCore
      (((s.m.begun x).runs core)) fun k => k.writeMem space q.off (padTo b x.len)).done x 0))) ∧
  (∀ (s : State) (f : FnIx) (tag : BitVec 16) (x : Cmd) (y : Ctx) (b : Option Bytes),
    let core := le x.arg 1 4
    let sl := le x.arg 5 1
    let space := le x.arg 6 1
    s.m.Turn f tag.toNat 0x0110 x → le x.arg 0 1 = 0 → s.m.ctx x.cid = some y → y.st = .admitted →
    0 < x.len → space ≤ 1 → (y.entry core sl).isSome = true → le x.arg 15 2 = 0 → le x.arg 17 2 = 0 →
    s.m.loadPlace core sl space (le x.arg 7 8) x.len true = none →
    exec (.loadHostToMemory f tag b) s = .next (s.to ((s.m.begun x).done x 0x0104))) ∧
  (∀ (s : State) (f : FnIx) (tag : BitVec 16) (x : Cmd) (y : Ctx) (q : Place),
    let core := le x.arg 1 4
    let sl := le x.arg 5 1
    let space := le x.arg 6 1
    let m := (s.m.begun x).fwReach (s.m.runs core) space q.off
    s.m.Turn f tag.toNat 0x0110 x → le x.arg 0 1 = 1 → s.m.ctx x.cid = some y → y.st = .admitted → x.fn ≠ mgmtFn →
    0 < x.len → space ≤ 1 → (y.entry core sl).isSome = true →
    s.m.loadPlace core sl space (le x.arg 7 8) x.len false = some q →
    exec (.loadMemoryToHost f tag true) s = .next (s.to ((m.hostPut x.addr
      ((m.core (m.runs core)).readMem space q.off x.len)).done x 0))) ∧
  (∀ (s : State) (f : FnIx) (tag : BitVec 16) (x : Cmd) (y : Ctx) (b : Bytes),
    let core := le x.arg 1 4
    let q := le x.arg 5 1
    let m := s.m.begun x
    s.m.Turn f tag.toNat 0x0110 x → le x.arg 0 1 = 3 → s.m.ctx x.cid = some y → y.st = .admitted → x.fn ≠ mgmtFn →
    x.len ≤ 256 → q < 8 → (y.slots.any fun e => e.core == core && bitOf e.qmask.toNat q) = true →
    bitOf x.flags.toNat 1 = false → s.m.loadMsgRoom x = true →
    let w : InReq := { id := m.fabric.inNext, need := 1, logDone := true, lseq := none, host := some x.order }
    exec (.loadMessage f tag (some b)) s = .next (s.to ({ m with fabric := { m.fabric with
      ins := m.fabric.ins ++ [w], inNext := m.fabric.inNext + 1 } }.onCore (m.runs core) fun k =>
        k.enqueue 4 2 (loadFlits (m.runs core) q x.cid m.fabric.inNext s.m.cc false (padTo b x.len)))))

/-- LOAD of a flow region and LAUNCH (R238 to R243, R341): every descriptor is checked before any plane is installed; a launch
makes the slots it names RUNNING at the PC given, or at their own, and leaves a slot that is neither LOADED nor HALTED as it
was, and the bins and counters of a plane start at zero (R259); a list with a wrong entry, or a region with no plane, is
refused whole. (Choices of the model: log 57, log 58.) -/
def Obligations.RegionsLoadAndSlotsLaunch : Prop :=
  (∀ (s : State) (f : FnIx) (tag : BitVec 16) (x : Cmd) (y : Ctx),
    let pc := le x.arg 2 4
    let m := s.m.begun x
    s.m.Turn f tag.toNat 0x0111 x → le x.arg 0 1 = 0 → s.m.ctx x.cid = some y → y.st = .admitted →
    (pc < 2 ^ 19 ∨ pc = 0xFFFFFFFF) →
    exec (.launchAll f tag) s = .next (s.to (((y.slots.filter fun e =>
      canLaunch ((m.core (m.runs e.core)).slot e.slot)).foldl (fun m e => m.launchAt (m.runs e.core) e.slot (pcArg pc))
        (m.newLaunch x.cid)).done x 0))) ∧
  (∀ (s : State) (f : FnIx) (tag : BitVec 16) (x : Cmd) (y : Ctx) (b : Bytes) (es : List (Nat × Nat × Nat)),
    let m := s.m.begun x
    s.m.Turn f tag.toNat 0x0111 x → le x.arg 0 1 = 1 → s.m.ctx x.cid = some y → y.st = .admitted → x.fn ≠ mgmtFn →
    x.len % 8 = 0 → launchEntries y (x.len / 8) (padTo b x.len) = some es →
    (∀ e ∈ es, canLaunch ((m.core (m.runs e.1)).slot e.2.1) = true) →
    exec (.launchList f tag (some b)) s = .next (s.to ((es.foldl (fun m e => m.launchAt (m.runs e.1) e.2.1 (pcArg e.2.2))
      (m.newLaunch x.cid)).done x 0))) ∧
  (∀ (s : State) (f : FnIx) (tag : BitVec 16) (x : Cmd) (y : Ctx),
    let m := s.m.begun x
    let ps := m.regionPlanes x.cid (le x.arg 1 1)
    s.m.Turn f tag.toNat 0x0111 x → le x.arg 0 1 = 2 → s.m.ctx x.cid = some y → y.st = .admitted → ps ≠ [] →
    (∀ p ∈ ps, canLaunch ((m.core p.1).slot p.2) = true) →
    exec (.launchRegion f tag) s = .next (s.to ((ps.foldl (fun m p => m.launchAt p.1 p.2 (some 0))
      (m.newLaunch x.cid)).done x 0))) ∧
  (∀ (v : Slot) (cc : Nat), (∀ a, (launchSlot v (some a) cc).ctl.pc = BitVec.ofNat 19 (a / 16 * 16)) ∧
    (launchSlot v none cc).ctl.pc = v.ctl.pc ∧ (∀ pc, (launchSlot v pc cc).ctl.st = .running ∧
      (launchSlot v pc cc).ctl.cause = 0 ∧ (launchSlot v pc cc).arch = v.arch ∧ (launchSlot v pc cc).ali = v.ali) ∧
    (∀ pc p, v.plane = some p → ∃ q, (launchSlot v pc cc).plane = some q ∧ q.hist = [] ∧ q.samples = 0 ∧ q.fires = 0 ∧
      q.steerFires = 0 ∧ q.spills = 0 ∧ q.active = false ∧ q.nodes = p.nodes ∧ q.rings = p.rings)) ∧
  (∀ (s : State) (f : FnIx) (tag : BitVec 16) (x : Cmd) (y : Ctx) (b : Bytes),
    let g := le x.arg 1 1
    let v := le x.arg 2 8
    let rect := (fld v 0 9, fld v 9 9, fld v 18 9, fld v 27 9)
    let cores := rectCores rect
    let m := s.m.begun x
    let core := fun c => m.core (m.runs c)
    let ds := cutPlanes cores (padTo b x.len)
    s.m.Turn f tag.toNat 0x0110 x → le x.arg 0 1 = 2 → s.m.ctx x.cid = some y → y.st = .admitted → x.fn ≠ mgmtFn →
    g ≤ 15 → rectOk rect = true → v / 2 ^ 36 = 0 →
    (∀ c ∈ cores, m.coreEnabled c = true ∧ ((core c).planeSlot x.cid g).isSome = true) →
    (∀ p ∈ m.regionPlanes x.cid g, ∃ c ∈ cores, m.runs c = p.1) →
    (∀ d ∈ ds, ∀ sl, (core d.1).planeSlot x.cid g = some sl → descOk (core d.1) sl g d.2 = true) →
    (∀ d ∈ ds, ((core d.1).planeSlot x.cid g).isSome = true) →
    exec (.loadFlowRegion f tag (some b)) s = .next (s.to ((ds.foldl (fun m d => match (core d.1).planeSlot x.cid g with
      | some sl => (m.bringUp (m.runs d.1)).onCore (m.runs d.1) fun k => installPlane k sl d.1 m.cc rect d.2
      | none => m) m).done x 0)))

/-- STEP_WAIT and the checkpoints (R341, R346, R347): a wait answers at once, or later, as its context's STEP count, its
halted slots and the limit say, and otherwise waits on; a save quiesces the context, and once its flits have landed writes the
image and lets the slots go on; a restore of an image that is whole and fits the context puts its sections back. (Choices of
the model: log 64.) -/
def Obligations.StepsAndCheckpoints : Prop :=
  (∀ (s : State) (f : FnIx) (tag : BitVec 16) (x : Cmd) (y : Ctx) (r : Nat × Nat),
    s.m.Turn f tag.toNat 0x0112 x → s.m.ctx x.cid = some y → y.st = .admitted →
    (s.m.begun x).stepAnswer { x with since := s.m.cc } y = some r →
    exec (.stepWait f tag) s = .next (s.to ((s.m.begun x).done x r.1 r.2))) ∧
  (∀ (s : State) (f : FnIx) (tag : BitVec 16) (x : Cmd) (y : Ctx),
    s.m.Turn f tag.toNat 0x0112 x → s.m.ctx x.cid = some y → y.st = .admitted →
    (s.m.begun x).stepAnswer { x with since := s.m.cc } y = none →
    exec (.stepWait f tag) s = .next (s.to (s.m.begun x))) ∧
  (∀ (s : State) (f : FnIx) (tag : BitVec 16) (x : Cmd) (y : Ctx) (r : Nat × Nat),
    s.m.cmdFor f tag.toNat 0x0112 = some x → x.started = true → s.m.ctx x.cid = some y → s.m.stepAnswer x y = some r →
    exec (.stepWaitDone f tag) s = .next (s.to (s.m.done x r.1 r.2))) ∧
  (∀ (m : Mach) (x : Cmd) (y : Ctx),
    let d := y.prog.steps - BitVec.ofNat 32 (le x.arg 0 4)
    (d.toNat < 2 ^ 31 → m.stepAnswer x y = some (0, y.prog.steps.toNat)) ∧
    (2 ^ 31 ≤ d.toNat → m.allHalted y = true → m.stepAnswer x y = some (0x0406, y.firstCause.toNat)) ∧
    (2 ^ 31 ≤ d.toNat → m.allHalted y = false → le x.arg 4 4 ≠ 0 → x.since + usCc (le x.arg 4 4) ≤ m.cc →
      m.stepAnswer x y = some (0x0405, y.prog.steps.toNat)) ∧
    (2 ^ 31 ≤ d.toNat → m.allHalted y = false → le x.arg 4 4 = 0 → m.stepAnswer x y = none)) ∧
  (∀ (s : State) (f : FnIx) (tag : BitVec 16) (x : Cmd) (y : Ctx),
    let m := (s.m.begun x).quiesceCtx x.cid
    s.m.Turn f tag.toNat 0x0120 x → le x.arg 0 1 = 0 → s.m.moving f tag.toNat 0x0120 = false → s.m.ctx x.cid = some y →
    y.st = .admitted → m.drained x.cid = true →
    ∀ ok, exec (.ckptSaveHost f tag ok) s = .next (s.to ((m.resumeCtx x.cid).doneIfFits x ok (m.image x.cid y)))) ∧
  (∀ (s : State) (f : FnIx) (tag : BitVec 16) (x : Cmd) (y : Ctx) (t : BitVec 16),
    let m := (s.m.begun x).quiesceCtx x.cid
    let n := m.resumeCtx x.cid
    let dst := le x.arg 2 4
    s.m.Turn f tag.toNat 0x0120 x → le x.arg 0 1 = 1 → s.m.moving f tag.toNat 0x0120 = false → s.m.ctx x.cid = some y →
    y.st = .admitted → m.drained x.cid = true → y.tags[le x.arg 1 1]? = some t → n.coordOk dst = true → dst < 2 ^ 25 →
    dst ≠ n.fabric.coord.toNat → n.route dst ≠ .unreachable →
    exec (.ckptSaveFabric f tag) s = .next (s.to ((n.writePeer t.toNat dst (le x.arg 6 4) ((m.image x.cid y).length + 1) 0
      (m.image x.cid y)).done x 0 (m.image x.cid y).length))) ∧
  (∀ (s : State) (f : FnIx) (tag : BitVec 16) (x : Cmd) (y : Ctx) (d : Bytes) (l : List Sect),
    let b := padTo d x.len
    let body := (b.take (le b 8 8)).drop 64
    let m := (s.m.begun x).dropLines x.cid y
    s.m.Turn f tag.toNat 0x0121 x → s.m.ctx x.cid = some y → y.st = .admitted → s.m.ctxIdle x.cid = true → x.fn ≠ mgmtFn →
    64 ≤ le b 8 8 → le b 8 8 ≤ b.length → le b 0 2 = 1 → le b 2 2 = siliconStep → le b 0x3C 4 = crc32 body →
    readSects (le b 6 2) body = some l → (∀ z ∈ l, sectOk y z = true) →
    exec (.ckptRestore f tag (some d)) s = .next (s.to (((l.filter fun z => z.type == 6).foldl
      (fun m z => m.restoreDescs (m.runs z.core) z.slot z.body) (l.foldl (fun m z => m.restoreSect x.cid z) m)).done x 0)))

/-- The input log (R319 to R323): a log opens with the twin's agreement, gives up the records up to an LSEQ, and closes; the
twin answers the records it keeps from an LSEQ on, and takes a record with the next LSEQ. (Choices of the model: log 63.) -/
def Obligations.InputLogsOpenAndClose : Prop :=
  (∀ (s : State) (f : FnIx) (tag : BitVec 16) (x : Cmd) (y : Ctx) (n : Nat),
    s.m.Turn f tag.toNat 0x0130 x → s.m.ctx x.cid = some y → y.st = .admitted → y.logOpen = false → 24 ≤ n → n ≤ 32 →
    le x.arg 0 8 = 2 ^ n → le x.arg 12 1 ≤ 1 → s.m.portUp 8 = true →
    exec (.logOpen f tag .opened) s = .next (s.to (((s.m.begun x).onCtx x.cid fun y => { y with
      logOpen := true, logPolicy := le x.arg 12 1, logNext := 0, logSize := 2 ^ n, logKept := [], unloggedAt := none }).done x 0)) ∧
    exec (.logOpen f tag .noMemory) s = .next (s.to ((s.m.begun x).done x 0x0208)) ∧
    exec (.logOpen f tag .noUnits) s = .next (s.to ((s.m.begun x).done x 0x0301 0 4))) ∧
  (∀ (s : State) (f : FnIx) (tag : BitVec 16) (x : Cmd) (y : Ctx),
    s.m.Turn f tag.toNat 0x0131 x → s.m.ctx x.cid = some y → y.st = .admitted → y.logOpen = true →
    exec (.logTrim f tag) s = .next (s.to (((s.m.begun x).onCtx x.cid fun y => { y with
      logKept := y.logKept.filter fun e => le x.arg 0 8 < e.1 }).done x 0))) ∧
  (∀ (s : State) (f : FnIx) (tag : BitVec 16) (x : Cmd) (y : Ctx),
    s.m.Turn f tag.toNat 0x0133 x → s.m.ctx x.cid = some y → y.st = .admitted → y.logOpen = true →
    exec (.logClose f tag) s = .next (s.to (((s.m.begun x).onCtx x.cid fun y => { y with
      logOpen := false, logPolicy := 0, logNext := 0, logSize := 0, logKept := [] }).done x 0))) ∧
  (∀ (s : State) (f : FnIx) (tag : BitVec 16) (x : Cmd) (t : TwinLog),
    let y := fitRecs (t.recs.filter fun r => le x.arg 0 8 ≤ r.lseq.toNat) x.len (le x.arg 0 8)
    s.m.Turn f tag.toNat 0x0132 x → aget s.m.fabric.twin x.cid = some t → x.fn ≠ mgmtFn → 0 < x.len →
    exec (.logRead f tag true) s = .next (s.to (((s.m.begun x).hostPut x.addr y.1).done x 0 y.2))) ∧
  (∀ (s : State) (cid : BitVec 10) (queue srcc : BitVec 32) (jobtag : BitVec 16) (time : BitVec 64) (data : Bytes),
    let t := agetD s.m.fabric.twin cid.toNat {}
    data.length ≤ 256 → s.m.portUp 8 = true →
    ∃ u, exec (.logWrite cid queue srcc jobtag time data) s = .next u ∧ u.pending = s.pending ∧
      aget u.m.fabric.twin cid.toNat = some { t with next := t.next + 1, recs := t.recs ++
        [{ lseq := t.next, time := time, cid := cid, mlen := data.length, queue := queue, srcc := srcc, jobtag := jobtag,
           data := data }] } ∧
      (∀ c, c ≠ cid.toNat → aget u.m.fabric.twin c = aget s.m.fabric.twin c))

/-! ## The floor plan, telemetry and the power commands -/

/-- FLOORPLAN_CHANGE, FLOORPLAN_GET, TELEM_READ, PWR_CAP_SET and PWR_GET (R38, R45, R46, R207, R260, R281, R317, R375, R380):
changes to what the plan shows raise its generation by one and every function hears of it; each record read goes whole to the host
buffer, its length in RES0, and a buffer too small gets LEN_SMALL with the length needed; a cap in range and not below the
fixed and protected draw is in force. (Choices of the model: log 43, log 65.) -/
def Obligations.RecordsAreReadAndCapsSet : Prop :=
  (∀ s : State, s.m.planStale = true →
    ∃ t, exec .floorplanChange s = .next t ∧ t.pending = s.pending ∧
      t.m.wafer = { s.m.wafer with gen := s.m.wafer.gen + 1, genTime := s.m.now, changed := false, shown := some s.m.planView } ∧
      (∀ c, Core.Same (t.m.core c) (s.m.core c))) ∧
  (∀ (s : State) (f : FnIx) (tag : BitVec 16) (x : Cmd),
    let m := floorplanChangeAt (s.m.begun x)
    s.m.Turn f tag.toNat 0x0140 x →
    (x.len < 647488 → ∀ ok, exec (.floorplanGet f tag ok) s = .next (s.to (m.done x 0x0105 647488))) ∧
    (647488 ≤ x.len → x.fn ≠ mgmtFn →
      exec (.floorplanGet f tag true) s = .next (s.to ((m.hostPut x.addr m.planRecord).done x 0 647488)))) ∧
  (∀ (s : State) (f : FnIx) (tag : BitVec 16) (x : Cmd),
    let v := le x.arg 1 8
    let r := (fld v 0 9, fld v 9 9, fld v 18 9, fld v 27 9)
    let cs := rectCores r
    let n := 32 + 528 * cs.length
    let hdr := toBytes 2 1 ++ toBytes 2 528 ++ toBytes 4 cs.length ++ toBytes 8 s.m.now.toNat ++ toBytes 8 v ++ toBytes 8 0
    let m := s.m.begun x
    s.m.Turn f tag.toNat 0x0150 x → le x.arg 0 1 = 1 → v / 2 ^ 36 = 0 → rectOk r = true →
    (x.len < n → ∀ ok, exec (.telemReadRouters f tag ok) s = .next (s.to (m.done x 0x0105 n))) ∧
    (n ≤ x.len → x.fn ≠ mgmtFn → exec (.telemReadRouters f tag true) s = .next (s.to (((cs.foldl (fun m c =>
      if m.routerOk c then m.onCore c fun k => { k with router := clearDepthMax k.router } else m) m).hostPut x.addr
        (hdr ++ (cs.map m.routerEntry).flatten)).done x 0 n)))) ∧
  (∀ (s : State) (f : FnIx) (tag : BitVec 16) (x : Cmd) (y : Ctx),
    s.m.Turn f tag.toNat 0x0150 x → le x.arg 0 1 = 2 → s.m.ctx x.cid = some y → y.st = .admitted → ∀ ok,
    exec (.telemReadProgress f tag ok) s = .next (s.to ((s.m.begun x).doneIfFits x ok (progressBytes x.cid y)))) ∧
  (∀ (s : State) (f : FnIx) (tag : BitVec 16) (x : Cmd) (y : Ctx),
    let one := fun e : CtxSlot => match ((s.m.core (s.m.runs e.core)).slot e.slot).plane with
      | some p => planeBytes e.core p
      | none => []
    s.m.Turn f tag.toNat 0x0150 x → le x.arg 0 1 = 3 → s.m.ctx x.cid = some y → y.st = .admitted → ∀ ok,
    exec (.telemReadFlow f tag ok) s = .next (s.to ((s.m.begun x).doneIfFits x ok ((y.imageSlots.map one).flatten)))) ∧
  (∀ (s : State) (f : FnIx) (tag : BitVec 16) (x : Cmd),
    let v := le x.arg 1 8
    let ps := if v = 15 then List.range 9 else [v]
    let m := s.m.begun x
    s.m.Turn f tag.toNat 0x0150 x → le x.arg 0 1 = 5 → (v ≤ 8 ∨ v = 15) → ∀ ok,
    exec (.telemReadPorts f tag ok) s = .next (s.to (m.doneIfFits x ok (toBytes 2 1 ++ toBytes 2 256 ++ toBytes 4 ps.length ++
      toBytes 8 s.m.now.toNat ++ toBytes 16 0 ++ (ps.map m.portEntry).flatten)))) ∧
  (∀ (s : State) (f : FnIx) (tag : BitVec 16) (x : Cmd),
    let w := le x.arg 0 4
    let m := s.m.begun x
    s.m.Turn f tag.toNat 0x0160 x → 18000 ≤ w → w ≤ 36000 → w % 100 = 0 → s.m.boot.ac = false →
    (s.m.power.fixed + s.m.power.prot ≤ w →
      exec (.pwrCapSet f tag) s = .next (s.to ({ m with power := { m.power with cap := w } }.done x 0))) ∧
    (w < s.m.power.fixed + s.m.power.prot →
      exec (.pwrCapSet f tag) s = .next (s.to (m.done x 0x0102 s.m.power.lowest)))) ∧
  (∀ (s : State) (f : FnIx) (tag : BitVec 16) (x : Cmd), s.m.Turn f tag.toNat 0x0161 x → ∀ ok,
    exec (.pwrGet f tag ok) s = .next (s.to ((s.m.begun x).doneIfFits x ok (s.m.begun x).powerRecord)))

/-! ## The optical fabric -/

/-- FABRIC_NEIGHBOURS, FABRIC_ASSIGN, FABRIC_SET and FABRIC_JOBTAG (R292, R295, R300, R303, R305, R308, R316, R324): a
coordinate and sizes that R292 allows are in force and kept in the life log while no job-table entry stands; each setting in
its range takes effect; detour entries are all installed or none; a job-table entry joins the context's list at its end.
(Choices of the model: log 52, log 53.) -/
def Obligations.FabricSettingsTakeEffect : Prop :=
  (∀ (s : State) (f : FnIx) (tag : BitVec 16) (x : Cmd), s.m.Turn f tag.toNat 0x0170 x → ∀ ok,
    exec (.fabricNeighbours f tag ok) s = .next (s.to ((s.m.begun x).doneIfFits x ok
      ((List.range 56).map fun e => padTo ((s.m.eng e).ident.getD []) 28).flatten))) ∧
  (∀ (s : State) (f : FnIx) (tag : BitVec 16) (x : Cmd),
    let co := le x.arg 0 4
    let sz := le x.arg 4 4
    let m := (s.m.begun x).assign (BitVec.ofNat 25 co) (BitVec.ofNat 24 sz)
    s.m.Turn f tag.toNat 0x0171 x → assignOk co sz = true →
    (s.m.fabric.jobs = [] → exec (.fabricAssign f tag) s = .next (s.to
      ({ m with log := { m.log with place := some (BitVec.ofNat 25 co, BitVec.ofNat 24 sz) } }.done x 0))) ∧
    (s.m.fabric.jobs ≠ [] → exec (.fabricAssign f tag) s = .next (s.to ((s.m.begun x).done x 0x0408)))) ∧
  (∀ (s : State) (f : FnIx) (tag : BitVec 16) (x : Cmd),
    let v := le x.arg 1 8
    let m := s.m.begun x
    s.m.Turn f tag.toNat 0x0172 x →
    (le x.arg 0 1 = 1 → 1 ≤ v → v ≤ 1000 → exec (.fabricSetFtimeout f tag) s = .next (s.to
      ({ m with fabric := { m.fabric with ftimeout := v } }.done x 0))) ∧
    (le x.arg 0 1 = 2 → 1 ≤ v → v ≤ 65535 → exec (.fabricSetFoulMax f tag) s = .next (s.to
      ({ m with fabric := { m.fabric with foulMax := v } }.done x 0))) ∧
    (le x.arg 0 1 = 3 → v ≤ 16000 → exec (.fabricSetTransitShare f tag) s = .next (s.to
      ({ m with fabric := { m.fabric with ports := m.fabric.ports.map fun (p : FPort) => { p with share := v } } }.setRates.done
        x 0))) ∧
    (le x.arg 0 1 = 4 → v < 2 ^ 25 → s.m.coordOk v = true → exec (.fabricSetTimeMaster f tag) s = .next (s.to
      ({ m with clk := { m.clk with master := BitVec.ofNat 25 v } }.done x 0)))) ∧
  (∀ (s : State) (f : FnIx) (tag : BitVec 16) (x : Cmd) (b : Bytes),
    let v := le x.arg 1 8
    let es := (List.range v).map fun i => ((padTo b x.len).drop (8 * i)).take 8
    s.m.Turn f tag.toNat 0x0172 x → le x.arg 0 1 = 5 → 1 ≤ v → v ≤ 128 → 8 * v ≤ x.len → x.fn ≠ mgmtFn →
    ((∀ e ∈ es, s.m.detourOk e = true) → exec (.fabricSetDetours f tag (some b)) s = .next (s.to ((es.foldl (fun m e =>
      m.onPort (le e 4 1) fun p => { p with detours := if le e 6 1 = 0 then adel p.detours (le e 5 1)
                                                       else aset p.detours (le e 5 1) (le e 0 4, le e 6 1) })
      (s.m.begun x)).done x 0))) ∧
    (∀ e ∈ es, s.m.detourOk e = false →
      exec (.fabricSetDetours f tag (some b)) s = .next (s.to ((s.m.begun x).done x 0x0102)))) ∧
  (∀ (s : State) (f : FnIx) (tag : BitVec 16) (x : Cmd) (y : Ctx) (b : Bytes),
    let e := tagEntry ((padTo b (max x.len 32)).take 32)
    let m := s.m.begun x
    s.m.Turn f tag.toNat 0x0174 x → s.m.ctx x.cid = some y → y.st = .admitted → x.fn ≠ mgmtFn →
    le x.arg 0 1 = y.tags.length → y.tags.length < 16 → s.m.fabric.jobs.length < 1024 → e.2 = false →
    (∀ j ∈ s.m.fabric.jobs, j.tag ≠ e.1.tag) → tagOk y.slots e.1 = true →
    ∃ t, exec (.fabricJobtag f tag (some b)) s = .next t ∧ t.pending = s.pending ∧
      t.m.fabric.jobs = m.fabric.jobs ++ [{ e.1 with cid := BitVec.ofNat 10 x.cid }] ∧
      (t.m.ctx x.cid).map (fun z => z.tags) = some (y.tags ++ [e.1.tag]) ∧
      (∀ c, Core.Same (t.m.core c) (s.m.core c)))

/-- FABRIC_LINK (R309, R310, R313, R316): on an engine that serves the port named and is in ACTIVE, a HOLD frame goes out, or
the engine asks its partner for a retrain, to leave the port's set, or to join it; a port leaves quarantine with its foul
count at zero. (Choices of the model: log 53, log 54.) -/
def Obligations.FabricLinkActions : Prop :=
  (∀ (s : State) (f : FnIx) (tag : BitVec 16) (x : Cmd) (e : Nat),
    let p := le x.arg 0 1
    let i := le x.arg 1 1
    let v := le x.arg 3 4
    let m := s.m.begun x
    s.m.Turn f tag.toNat 0x0173 x → p ≤ 8 → s.m.engAt p i = some e → (s.m.eng e).st = .active →
    (le x.arg 2 1 = 1 → fld v 6 10 = 0 → bitOf v 4 = false →
      exec (.fabricLinkHold f tag) s = .next (s.to ((m.sendLink e 10 (toBytes 4 v)).done x 0))) ∧
    (le x.arg 2 1 = 2 →
      exec (.fabricLinkRetrain f tag) s = .next (s.to ((m.ask e (s.m.eng e).retrainWhat).done x 0))) ∧
    (le x.arg 2 1 = 3 → bitOf (s.m.port p).active.toNat i = true →
      exec (.fabricLinkLeave f tag) s = .next (s.to ((m.ask e 3).done x 0))) ∧
    (le x.arg 2 1 = 4 → bitOf (s.m.port p).active.toNat i = false → (s.m.eng e).miscabled = false →
      exec (.fabricLinkJoin f tag) s = .next (s.to ((m.ask e 4).done x 0)))) ∧
  (∀ (s : State) (f : FnIx) (tag : BitVec 16) (x : Cmd), s.m.Turn f tag.toNat 0x0173 x → le x.arg 2 1 = 5 →
    le x.arg 0 1 ≤ 8 →
    exec (.fabricLinkUnquarantine f tag) s = .next (s.to (((s.m.begun x).onPort (le x.arg 0 1) fun q =>
      { q with quarantined := false, fouls := [] }).done x 0))) ∧
  (∀ (s : State) (f : FnIx) (tag : BitVec 16) (x : Cmd), s.m.Turn f tag.toNat 0x0173 x →
    (le x.arg 2 1 = 2 → le x.arg 0 1 ≤ 8 → s.m.engAt (le x.arg 0 1) (le x.arg 1 1) = none →
      exec (.fabricLinkRetrain f tag) s = .next (s.to ((s.m.begun x).done x 0x0102))))

/-- Frames (R30, R285, R289, R295 to R303): a good frame that is next in order and no foul is taken in, its buffer freed when
its message goes on; one of a message in transit goes out on the opposite port with its data unchanged, and keeps its buffer until then; an ordinary frame that
is not next leaves its acknowledgement, and a LET where it is no duplicate. The attachment of an anchor sends the answer of a request that is done, or a
message that is whole; a request unanswered for FTIMEOUT faults its mover; a message that has waited 1 ms for its onward port
is answered as unreachable. (Choices of the model: log 51.) -/
def Obligations.FramesArriveAndLeave : Prop :=
  (∀ (s : State) (e : FieldIx) (fr : Bytes), s.m.takes e fr = true → ordinary (frChan fr) = true → s.m.isTransit e fr = false →
    (s.m.rxAck e fr).outOfOrder e fr = true →
    ((s.m.rxAck e fr).isDup e fr = true → exec (.fabricMessageReceive e fr) s = .next (s.to (s.m.rxAck e fr))) ∧
    ((s.m.rxAck e fr).isDup e fr = false →
      exec (.fabricMessageReceive e fr) s = .next (s.to ((s.m.rxAck e fr).frameBad e 3 (frChan fr))))) ∧
  (∀ (s : State) (e : FieldIx) (fr : Bytes),
    let m := s.m.rxAck e fr
    let r : RxMsg := { op := frOp fr, tag := frTag fr, err := frErr fr, chan := frChan fr, vc := frVc fr,
                       hdr := (frPay fr).take 20, data := (frPay fr).drop 20, n := 1 }
    let key := frChan fr * 2 + frVc fr
    s.m.takes e fr = true → ordinary (frChan fr) = true → s.m.isTransit e fr = false → m.outOfOrder e fr = false →
    m.quarantineDrop e fr = false → frHead fr = true →
    (frTail fr = true → exec (.fabricMessageReceive e fr) s = .next (s.to
      (((m.takeFrame e fr).onEng e fun g => { g with rx := adel g.rx key }).wholeMsg e r))) ∧
    (frTail fr = false → exec (.fabricMessageReceive e fr) s = .next (s.to
      ((m.takeFrame e fr).onEng e fun g => { g with rx := aset g.rx key r })))) ∧
  (∀ (s : State) (e : FieldIx) (fr : Bytes) (e' vc : Nat),
    let key := frChan fr * 2 + frVc fr
    s.m.takes e fr = true → s.m.isTransit e fr = true → s.m.outOfOrder e fr = false → s.m.quarantineDrop e fr = false →
    frHead fr = true → frTail fr = true → s.m.transitTo e (frVc fr) = some (e', vc) →
    let m := (((s.m.rxAck e fr).takeFrame e fr).portCount e 0xA0).onEng e fun g => { g with rx := adel g.rx key }
    exec (.frameTransit e fr) s = .next (s.to (m.sendFrames e' (transitSrc + e) [reFrame fr vc] (m.cc + transitCc)
      (some (e.val, poolOf (frChan fr) (frVc fr)))))) ∧
  (∀ (s : State) (c : CoreIx) (q : InReq), isAnchor c = true →
    s.m.fabric.ins.find? (fun q => q.anchor == c.val && q.host.isNone && q.meshDone && q.logDone) = some q →
    exec (.fabricAttachmentSend c) s = .next (s.to (s.m.respondOut c q))) ∧
  (∀ (s : State) (c : CoreIx) (key : Nat) (f : Flit) (fs : List Flit),
    let e := fieldOf c
    let y := ((s.m.core c).loDrop key).gather f fs
    isAnchor c = true →
    s.m.fabric.ins.find? (fun q => q.anchor == c.val && q.host.isNone && q.meshDone && q.logDone) = none →
    (s.m.core c).attachIn = some (key, f, fs) → (s.m.port (s.m.engPort e)).pendingSet = none →
    (∀ z ∈ (s.m.eng e).queue, frChan z.f = fabChan f.chan → transitSrc ≤ z.src) → y.2.whole = true →
    (s.m.activeSet (s.m.engPort e)).contains (s.m.engIndex e) = true → s.m.portUp (s.m.engPort e) = true →
    exec (.fabricAttachmentSend c) s = .next (s.to ((s.m.setCore c y.1).launchMsg e y.2))) ∧
  (∀ (s : State) (id : Nat) (q : FReq), s.m.fabric.reqs.find? (fun q => q.id == id) = some q → q.read = true →
    q.start + usCc (1000 * s.m.fabric.ftimeout) ≤ s.m.cc →
    let m := { s.m with fabric := { s.m.fabric with reqs := s.m.fabric.reqs.filter fun x => x.id != id } }
    exec (.fabricTimeout id) s = .next (s.to ((m.onSlot q.core q.slot fun v =>
      { v with run := { v.run with rids := v.run.rids.filter (· != q.rid) } }).mvUnreachable q.core q.slot q.serial))) ∧
  (∀ (s : State) (p : PortIx) (w : TransitMsg) (ws : List TransitMsg), (s.m.port p).waiting = w :: ws → w.since + usCc 1000 ≤ s.m.cc →
    exec (.onwardLinkWaitExpiry p) s = .next (s.to ((s.m.onPort p fun q => { q with waiting := ws }).unreachable w.eng w.msg)))

/-- The LINK frames, frames in error and fouls (R288 to R290, R309, R314 to R316): a CREDIT frame advances the credits of
every pool and what waited for them goes; a LET has the frames from its FSEQ on sent again, in order; an ordinary frame in error starts a
discard and a LET, and the frame expected stays; a corrected codeword is only counted; a HOLD stops its channels until its time has passed; a foul is counted at
its code and its frame discarded; a FOUL frame is only counted. Retrains, engine sets and IDENT (R306, R307, R310 to R313,
R397): an engine in ACTIVE that has a cause, or whose partner asks, goes through asking, training and qualification; REQ is
sent again every 10 µs and the engine goes down after eight unanswered; fewer than 15 good lanes take the engine down, and so
does a failed qualification; a drained port has its new set; the partner's IDENT is held and checked, and this engine's goes
out every 1 ms until the partner has seen it. (Choices of the model: log 53, log 54, log 59.) -/
def Obligations.LinkFramesRetrainsAndIdents : Prop :=
  ((∀ (s : State) (e : FieldIx) (pay : Bytes), pay.length = 20 → (s.m.eng e).st ≠ .idle →
     let count := fun (g : LightEng) (p : Nat) =>
       lget poolSize p + advance16 (lget g.granted p - lget poolSize p) (le pay (2 * p) 2)
     exec (.credit e pay) s = .next (s.to ((s.m.onEng e fun g => { g with granted := (List.range 10).map (count g) }).pump e))) ∧
   (∀ old new : Nat, new < 65536 → (advance16 old new) % 65536 = new ∧ old ≤ advance16 old new ∧
     advance16 old new < old + 65536) ∧
   (∀ (s : State) (e : FieldIx) (pay : Bytes) (i : Nat),
     let seq := le pay 0 2
     let g := s.m.eng e
     pay.length = 4 → g.carries = true → seq < 4096 → g.replay.findIdx? (fun f => frSeq f == seq) = some i →
     exec (.fabricLet e pay) s = .next (s.to (((s.m.portCount e 0x70).onEng e fun x =>
       { x with again := g.replay.drop i, letRun := if g.letSeq.toNat = seq ∧ g.letRun ≠ 0 then g.letRun + 1 else 1,
                letSeq := BitVec.ofNat 12 seq }).pump e))) ∧
   (∀ (s : State) (e : FieldIx) (ch : BitVec 3), (s.m.eng e).carries = true →
     exec (.frameError e 0 ch) s = .next (s.to (s.m.portCount e 0x78))) ∧
   (∀ (s : State) (e : FieldIx) (cause : Fin 4) (ch : BitVec 3), (s.m.eng e).carries = true → 1 ≤ cause.val → ch.toNat < 6 →
     (s.m.eng e).probation = none →
     exec (.frameError e cause ch) s = .next (s.to (s.m.frameBad e cause ch.toNat))) ∧
   (∀ (m : Mach) (e cause chan : Nat), chan < 4 → e < 56 → ¬ ((m.eng e).discard = true ∧ cause = 3) →
     ((m.frameBad e cause chan).eng e).discard = true ∧ ((m.frameBad e cause chan).eng e).outLets = (m.eng e).outLets + 1 ∧
     ((m.frameBad e cause chan).eng e).rxSeq = (m.eng e).rxSeq) ∧
   (∀ (s : State) (e : FieldIx) (v : BitVec 32), (s.m.eng e).carries = true → fld v.toNat 6 10 = 0 → bitOf v.toNat 4 = false →
     v.toNat / 2 ^ 16 ≠ 0 →
     let held := fun (g : LightEng) => ([0, 1, 2, 3, 5].filter fun ch => bitOf v.toNat ch).foldl
       (fun h ch => aset h ch (s.m.cc + v.toNat / 2 ^ 16 % 2 ^ 16 * 64 * 12 / 10)) g.holds
     exec (.hold e v) s = .next (s.to ((s.m.onEng e fun g => { g with holds := held g }).pump e))) ∧
   (∀ (s : State) (e : FieldIx) (ch : Fin 6) (t : Nat), aget (s.m.eng e).holds ch = some t → t ≤ s.m.cc →
     exec (.holdExpiry e ch) s = .next (s.to ((s.m.onEng e fun g => { g with holds := adel g.holds ch }).pump e))) ∧
   (∀ (s : State) (e : FieldIx) (code : Fin 10) (fr : Bytes), s.m.listens e (frChan fr) = true → frGood fr = true →
     s.m.foulOf e fr = some code.val → (code.val = 2 ∨ code.val = 3) →
     exec (.foul e code fr) s = .next (s.to ((s.m.rxAck e fr).countFoul e code fr))) ∧
   (∀ (s : State) (e : FieldIx) (pay : Bytes), pay.length = 24 → (s.m.eng e).st ≠ .idle →
     exec (.foulFrameReceive e pay) s = .next (s.to (s.m.portCount e 0x1000)))) ∧
  ((∀ (s : State) (e : FieldIx) (v : BitVec 32), fld v.toNat 0 4 = 1 → 1 ≤ fld v.toNat 4 4 → fld v.toNat 4 4 ≤ 4 →
     (s.m.eng e).st = .active →
     exec (.retrain e v) s = .next (s.to (s.m.follow e v.toNat))) ∧
   (∀ (s : State) (e : FieldIx) (v : BitVec 32), fld v.toNat 0 4 = 3 → 1 ≤ fld v.toNat 4 4 → fld v.toNat 4 4 ≤ 4 →
     ((s.m.eng e).st = .leading ∨ (s.m.eng e).st = .following) → fld v.toNat 8 8 = (s.m.eng e).rnum.toNat →
     exec (.retrain e v) s = .next (s.to (s.m.begin e))) ∧
   (∀ (s : State) (e : FieldIx) (cause : RetrainCause), (s.m.eng e).st = .active → (cause = .lets → 8 ≤ (s.m.eng e).letRun) →
     exec (.retrainLocalCause e cause) s = .next (s.to (s.m.ask e (s.m.eng e).retrainWhat))) ∧
   (∀ (s : State) (e : FieldIx), (s.m.eng e).st = .asking → (s.m.eng e).reqAt + usCc 10 ≤ s.m.cc →
     ((s.m.eng e).reqs < 8 → exec (.retrainReqResend e) s = .next (s.to ((s.m.onEng e fun g =>
       { g with reqs := g.reqs + 1, reqAt := s.m.cc }).sendRetrain e 1))) ∧
     (8 ≤ (s.m.eng e).reqs → exec (.retrainReqResend e) s = .next (s.to (s.m.engDown e)))) ∧
   (∀ (s : State) (e : FieldIx) (lanes : BitVec 16), (s.m.eng e).st = .train →
     (s.m.eng e).reqAt + usCc (trainUs (s.m.eng e).what) ≤ s.m.cc →
     (laneCount lanes < 15 → exec (.engineTrainDone e lanes) s = .next (s.to (s.m.engDown e))) ∧
     (15 ≤ laneCount lanes → exec (.engineTrainDone e lanes) s = .next (s.to (s.m.onEng e fun g =>
       { g with st := .qualify, lanes := lanes, saved := true, reqAt := s.m.cc })))) ∧
   (∀ (s : State) (e : FieldIx) (ovr : BitVec 16), (s.m.eng e).st = .qualify →
     exec (.engineQualifyDone e true ovr) s = .next (s.to (s.m.engDown e)) ∧
     ((s.m.eng e).leader = true → ovr = 0 → exec (.engineQualifyDone e false ovr) s = .next (s.to
       (((s.m.onEng e fun g => { g with lanes := (s.m.eng e).lanes }).sendRetrain e 4).backActive e (s.m.eng e).lanes)))) ∧
   (∀ (s : State) (p : PortIx) (set_ : BitVec 8), (s.m.port p).pendingSet = some set_ →
     (∀ e ∈ s.m.portEngs p, (s.m.eng e).replay = [] ∧ (s.m.eng e).opened = []) →
     (∀ e, s.m.engPort e = p.val → (s.m.eng e).st ≠ .drain) →
     exec (.engineSetDrainDone p) s = .next (s.to (s.m.newSet p set_).planChanged) ∧
     ((s.m.newSet p set_).port p).active = set_ ∧ ((s.m.newSet p set_).port p).pendingSet = none) ∧
   (∀ (s : State) (e : FieldIx) (pay : Bytes), (s.m.eng e).st = .active → s.m.engPort e < 9 → pay.length = 28 →
     exec (.ident e pay) s = .next (s.to ((s.m.onEng e fun g =>
       { g with ident := some pay, peerSeen := g.peerSeen || bitOf (le pay 10 1) 0 }).checkIdent e))) ∧
   (∀ (s : State) (e : FieldIx), (s.m.eng e).st = .active → s.m.engPort e < 9 → (s.m.eng e).peerSeen = false →
     (s.m.eng e).identAt + usCc 1000 ≤ s.m.cc →
     exec (.identSend e) s = .next (s.to (s.m.sendIdent e))))

/-- TIME_SYNC and SYNC_LOST (R324, R325): the first good exchange after an assignment steps the counter by the offset, in
whole ticks of 10 ns, and every later one sets the slew; 100 ms without one loses synchronisation, and the PFs hear of it
once. (Choices of the model: log 67.) -/
def Obligations.TimeIsSynchronised : Prop :=
  (∀ (s : State) (t1 t2 t3 t4 : Int),
    let d := offsetTicks (((t2 - t1) - (t4 - t3)) / 2)
    let c := { s.m.clk with synced := true, syncLost := false, lastGood := s.m.clk.cc }
    s.m.fabric.assigned = true → s.m.clk.locked = true → s.m.fabric.coord ≠ s.m.clk.master → s.m.parentPort.isSome = true →
    (s.m.clk.stepped = true → exec (.timeSync t1 t2 t3 t4) s = .next (s.to { s.m with clk := { c with slew := d } })) ∧
    (s.m.clk.stepped = false → exec (.timeSync t1 t2 t3 t4) s = .next (s.to { s.m with
      clk := { c with stepped := true, slew := 0, tclk := BitVec.ofInt 64 ((s.m.clk.tclk.toNat : Int) + d) } }))) ∧
  (∀ off : Int, 640 * offsetTicks off - 320 ≤ off ∧ off < 640 * offsetTicks off + 320) ∧
  (∀ s : State, s.m.fabric.assigned = true → s.m.fabric.coord ≠ s.m.clk.master → s.m.clk.syncLost = false →
    s.m.clk.lastGood + usCc 100000 ≤ s.m.cc →
    ∃ t, exec .syncLost s = .next t ∧ t.pending = s.pending ∧ t.m.clk = { s.m.clk with synced := false, syncLost := true } ∧
      (∀ c, Core.Same (t.m.core c) (s.m.core c)))

/-! ## Debugging, tracing and the life of the device -/

/-- DEBUG_HALT, DEBUG_HUD_SET and DEBUG_READ (R237, R341, R344): for a context created with DBG = 1, a slot is halted with
CAUSE 8, a huddle's COUNT written among what its cycle brings to the huddle, and bytes of a window or of a slot's register
block read, with the effect that the read has on the registers; for any other context the command is refused and nothing changes. (Choices of the model: log 66.) -/
def Obligations.DebugCommandsActOnDebugContexts : Prop :=
  (∀ (s : State) (f : FnIx) (tag : BitVec 16) (x : Cmd) (y : Ctx), s.m.Turn f tag.toNat 0x0180 x → s.m.ctx x.cid = some y →
    y.st = .admitted →
    (y.dbg = true → (y.entry (le x.arg 0 4) (le x.arg 4 1)).isSome = true → exec (.debugHalt f tag) s = .next (s.to
      (((s.m.begun x).forceHaltAt (s.m.runs (le x.arg 0 4)) (le x.arg 4 1) 8).done x 0))) ∧
    (y.dbg = false → exec (.debugHalt f tag) s = .next (s.to ((s.m.begun x).done x 0x0501)))) ∧
  (∀ (s : State) (f : FnIx) (tag : BitVec 16) (x : Cmd) (y : Ctx),
    let core := le x.arg 0 4
    let h := le x.arg 4 1
    let n := le x.arg 5 4
    let c := s.m.runs core
    s.m.Turn f tag.toNat 0x0181 x → s.m.ctx x.cid = some y → y.st = .admitted → n ≤ 0xFFFFFF → h ≤ 31 → core < nCores →
    (y.dbg = true → ((s.m.core c).huddle h).owner = some (BitVec.ofNat 10 x.cid) →
      ∃ t, exec (.debugHudSet f tag) s = .next t ∧ t.pending = s.pending ∧
        Core.Same (t.m.core c) ((s.m.core c).hudInput h s.m.cc fun z => { z with write := some (BitVec.ofNat 24 n) }) ∧ (∀ d, d ≠ c → Core.Same (t.m.core d) (s.m.core d))) ∧
    (y.dbg = false → exec (.debugHudSet f tag) s = .next (s.to ((s.m.begun x).done x 0x0501)))) ∧
  (∀ (s : State) (f : FnIx) (tag : BitVec 16) (x : Cmd) (y : Ctx),
    let core := le x.arg 0 4
    let sl := le x.arg 4 1
    let space := le x.arg 5 1
    let off := le x.arg 6 8
    let c := s.m.runs core
    s.m.Turn f tag.toNat 0x0182 x → s.m.ctx x.cid = some y → y.st = .admitted → y.dbg = true → 0 < x.len →
    (y.entry core sl).isSome = true → x.fn ≠ mgmtFn →
    (space = 0xF → ∀ b, (s.m.begun x).slotBytes c sl off x.len = some b →
      exec (.debugRead f tag true) s = .next (s.to ((((s.m.begun x).slotBytesRead c sl off x.len).hostPut x.addr b).done x 0))) ∧
    (space ≤ 1 → ∀ q, s.m.loadPlace core sl space off x.len false = some q →
      let m := (s.m.begun x).fwReach c space q.off
      exec (.debugRead f tag true) s = .next (s.to ((m.hostPut x.addr ((m.core c).readMem space q.off x.len)).done x 0))))

/-- DEBUG_TRACE, TRACE_SAMPLE and TRACE_REARM (R437 to R442, R456): a unit takes an allowed configuration and is idle; the
oldest event that waits at it is stored where the command names it, one in a cycle; armed, it fills its depth before the trigger; a trigger's capture ends with the samples after it, is kept with the last four, newest
first, and can be read; disarmed, it is idle with no samples. (Choices of the model: log 66.) -/
def Obligations.TraceUnitsCapture : Prop :=
  (∀ (s : State) (f : FnIx) (tag : BitVec 16) (x : Cmd),
    let fd := le x.arg 0 1
    let m := s.m.begun x
    s.m.Turn f tag.toNat 0x0183 x → fd ≤ 55 →
    (∀ b, le x.arg 1 1 = 1 → x.fn ≠ mgmtFn → 180 ≤ x.len → traceCfgOk (padTo b x.len) = true →
      let c := padTo b x.len
      exec (.debugTraceConfigure f tag (some b)) s = .next (s.to ((m.setTrace fd fun t =>
        { caps := t.caps, lastCc := t.lastCc, src := (List.range 4).map fun i => BitVec.ofNat 32 (le c (4 * i) 4),
          pre := le c 16 2, auto := le c 18 1 == 1,
          conds := (List.range 8).map fun i => condOf (c.drop (20 + 20 * i)) }).done x 0))) ∧
    (le x.arg 1 1 = 2 → exec (.debugTraceArm f tag) s = .next (s.to ((m.setTrace fd fun t =>
      if t.st = .idle then t.fill else t).done x 0))) ∧
    (le x.arg 1 1 = 3 → exec (.debugTraceDisarm f tag) s = .next (s.to ((m.setTrace fd fun t =>
      { t with st := .idle, samples := [], waiting := [], postLeft := 0 }).done x 0))) ∧
    (∀ c, le x.arg 1 1 = 4 → le x.arg 2 1 ≤ 3 → (s.m.field fd).trace.caps[le x.arg 2 1]? = some c →
      exec (.debugTraceRead f tag) s = .next (s.to (m.doneWith x true (captureBytes c) (captureBytes c).length)))) ∧
  (∀ (s : State) (f : FieldIx) (src : Fin 4) (e : TEvent) (rest : List TEvent), (s.m.field f).trace.waiting = e :: rest →
    (s.m.field f).trace.lastCc ≤ s.m.cc → e.src = src →
    exec (.traceSample f src e.mark e.data) s = .next (s.to (s.m.setTrace f fun t => t.take e rest s.m.cc))) ∧
  (∀ (s : State) (f : FieldIx) (src : Fin 4) (mark : Bool) (data : Bytes),
    ((s.m.field f).trace.waiting = [] ∨ s.m.cc < (s.m.field f).trace.lastCc ∨
      ∃ e rest, (s.m.field f).trace.waiting = e :: rest ∧ (e.src ≠ src ∨ e.mark ≠ mark ∨ e.data ≠ data)) →
    exec (.traceSample f src mark data) s = .next s) ∧
  (∀ (s : State) (f : FieldIx),
    let t := (s.m.field f).trace
    let c : Capture := { number := t.number, mask := t.mask, preReq := t.pre, preGot := t.preGot, time := t.time,
                         missed := t.conds.map fun c => c.missed, dropped := t.dropped, samples := t.samples }
    t.st = .rearm → t.since + usCc 1000 ≤ s.m.cc →
    ∃ u, exec (.traceRearm f) s = .next u ∧ u.pending = s.pending ∧ (u.m.field f).trace.caps = (c :: t.caps).take 4 ∧
      (t.auto = false → (u.m.field f).trace.st = .idle) ∧
      (t.auto = true → (u.m.field f).trace.st = if t.pre = 0 then .armed else .filling) ∧
      (∀ c, Core.Same (u.m.core c) (s.m.core c))) ∧
  (∀ (t : Trace) (mask cc : Nat) (x : TSample),
    (t.st = .armed → mask = 0 → t.samples.length = t.pre → (t.store mask cc x).samples.length = t.pre) ∧
    (t.st = .armed → mask ≠ 0 → (t.store mask cc x).st = (if t.pre < 8191 then .post else .rearm) ∧ (t.store mask cc x).samples = t.samples ++ [x] ∧
      (t.store mask cc x).postLeft = 8192 - t.pre - 1) ∧
    (t.st = .post → t.postLeft ≤ 1 → (t.store mask cc x).st = .rearm ∧ (t.store mask cc x).samples = t.samples ++ [x]))

/-- LIFECYCLE_GET, LIFECYCLE_SET, the restart request, LIFECYCLE_IMAGE and LIFECYCLE_SERVICE (R385 to R388, R403, R407, R408,
R436): only the transitions of R407 are made, with no context alive, and a device RETIRED stays so; an image that passes goes
to the slot not in use, which the next start uses; a core is retired with REASON 6; a deep BIST leaves the field's memories at
zero and fences what failed; the summary and the newest records are read. (Choices of the model: log 48, log 70.) -/
def Obligations.LifecycleCommands : Prop :=
  (∀ (s : State) (f : FnIx) (tag : BitVec 16) (x : Cmd), s.m.Turn f tag.toNat 0x0190 x → x.fn ≠ mgmtFn → 4096 ≤ x.len →
    let recs := s.m.log.recs.take ((x.len - 4096) / 64)
    let r := (s.m.begun x).lifeImage
    exec (.lifecycleGet f tag true) s = .next (s.to ((r.2.hostPut x.addr (r.1 ++ (recs.map LifeRec.bytes).flatten)).done x 0
      recs.length))) ∧
  (∀ (s : State) (f : FnIx) (tag : BitVec 16) (x : Cmd) (l : Life), s.m.Turn f tag.toNat 0x0191 x → s.m.isRestart x = false →
    s.m.boot.life ≠ .retired → le x.arg 1 1 < 2 → lifeOf (le x.arg 0 1) = some l →
    (s.m.boot.life.next l = true → s.m.ctxs = [] → l ≠ .retired →
      ∃ t, exec (.lifecycleSet f tag) s = .next t ∧ t.pending = s.pending ∧ t.m.boot.life = l ∧
        (∀ c, Core.Same (t.m.core c) (s.m.core c))) ∧
    (s.m.boot.life.next l = true → s.m.ctxs ≠ [] →
      exec (.lifecycleSet f tag) s = .next (s.to ((s.m.begun x).done x 0x0401))) ∧
    (s.m.boot.life.next l = false → exec (.lifecycleSet f tag) s = .next (s.to ((s.m.begun x).done x 0x0503)))) ∧
  (∀ b : Life, Life.next .retired b = false) ∧
  (∀ (s : State) (f : FnIx) (tag : BitVec 16) (x : Cmd), s.m.Turn f tag.toNat 0x0191 x → s.m.isRestart x = true →
    9 ≤ s.m.boot.stage → s.m.boot.recovering = false → s.m.boot.going = true →
    exec (.restartRequest f tag) s = .next (s.to (((completionAt f tag.toNat true ((s.m.begun x).done x 0)).afresh 2 true).pins
      fun b => { b with fails := 0 }))) ∧
  (∀ (s : State) (f : FnIx) (tag : BitVec 16) (x : Cmd) (d : Bytes),
    let b := padTo d x.len
    let i := imageFrom b
    s.m.Turn f tag.toNat 0x0192 x → x.fn ≠ mgmtFn → 256 ≤ x.len → le b 0 4 = 1 → s.m.imageOk i = true →
    ∃ t, exec (.lifecycleImage f tag (some d) .good) s = .next t ∧ t.pending = s.pending ∧
      t.m.boot.activeB = !s.m.boot.activeB ∧ (if s.m.boot.activeB then t.m.boot.imgA else t.m.boot.imgB) = i ∧
      (if s.m.boot.activeB then t.m.boot.imgB else t.m.boot.imgA) =
        (if s.m.boot.activeB then s.m.boot.imgB else s.m.boot.imgA)) ∧
  (∀ (s : State) (f : FnIx) (tag : BitVec 16) (x : Cmd),
    let c := le x.arg 4 4
    s.m.Turn f tag.toNat 0x0193 x → le x.arg 0 1 = 1 → s.m.boot.life = .service → c < nCores → s.m.coreOut c = false →
    isAnchor c = false →
    exec (.lifecycleServiceRetire f tag) s = .next (s.to (((s.m.begun x).failCore c 6 false).done x 0))) ∧
  (∀ (s : State) (f : FnIx) (tag : BitVec 16) (x : Cmd),
    let g := le x.arg 4 4
    s.m.Turn f tag.toNat 0x0193 x → le x.arg 0 1 = 2 → s.m.boot.life = .service → g < 56 → s.m.boot.minimal = false →
    s.m.holdsField g = false →
    ∃ t, exec (.lifecycleServiceDeepBist f tag ⟨[], []⟩) s = .next t ∧ t.pending = s.pending ∧
      (∀ c a, fieldOf c = g → memByte (t.m.core c).ub a = 0 ∧ memByte (t.m.core c).sram a = 0))

/-- Margins (R431 to R434): a reading of an ON field is kept for an hour and taken into its lowest of the day and of the life;
the third slack reading in a row below 40 ps retires the core with REASON 4, or, where firmware may not act on the core yet,
a later one does; a day's lowest readings go to the life log of
every field and a new day begins; the record has 128 bytes per field. (Choices of the model: log 39, log 72.) -/
def Obligations.MarginsAreKept : Prop :=
  (∀ (s : State) (c : CoreIx) (ps : Nat), 3 ≤ s.m.boot.stage → (s.m.field (fieldOf c)).ring = .on → 40 ≤ ps →
    ∃ t, exec (.marginReading (.slack c ps)) s = .next t ∧ t.pending = s.pending ∧ (t.m.core c).lowSlack = 0 ∧
      (t.m.core c).lastSlack = some ps ∧ (∀ d, d ≠ c.val → Core.Same (t.m.core d) (s.m.core d)) ∧
      (t.m.field (fieldOf c)).margins = (s.m.field (fieldOf c)).margins.take s.m.cc 1 c ps) ∧
  (∀ (s : State) (c : CoreIx) (ps : Nat), 3 ≤ s.m.boot.stage → (s.m.field (fieldOf c)).ring = .on → ps < 40 →
    2 ≤ (s.m.core c).lowSlack →
    let taken := fun n => (((s.m.onField (fieldOf c) fun x => { x with margins := x.margins.take s.m.cc 1 c ps }).onCore c fun k =>
      { k with lowSlack := n, lastSlack := some ps }).marginRec (fieldOf c) 1 c ps)
    (s.m.mayRepair c = true → exec (.marginReading (.slack c ps)) s = .next (s.to ((taken 0).failCore c 4 false))) ∧
    (s.m.mayRepair c = false → exec (.marginReading (.slack c ps)) s = .next (s.to (taken ((s.m.core c).lowSlack + 1))))) ∧
  (∀ (x : Margins) (cc kind unit_ : Nat) (v : Int), ({ at_ := cc, kind := kind, value := v, unit_ := unit_ } : Reading) ∈
      (x.take cc kind unit_ v).readings ∧
    (∀ r ∈ (x.take cc kind unit_ v).readings, cc < r.at_ + hourCc) ∧
    (kind = 1 → ∀ d, x.day.slack = some d → (x.take cc kind unit_ v).day.slack = some (min d v))) ∧
  (∀ s : State, 3 ≤ s.m.boot.stage → s.m.boot.dayAt + dayCc ≤ s.m.cc →
    ∃ t, exec .dailyMarginRecord s = .next t ∧ t.pending = s.pending ∧ t.m.boot.dayAt = s.m.cc ∧
      (∀ f, f < 56 → (t.m.field f).margins.day = {} ∧ (t.m.field f).margins.last = (s.m.field f).margins.day) ∧
      (∀ c, Core.Same (t.m.core c) (s.m.core c))) ∧
  (∀ (s : State) (f : FnIx) (tag : BitVec 16) (x : Cmd), s.m.Turn f tag.toNat 0x0150 x → le x.arg 0 1 = 4 →
    (x.len < 7232 → ∀ ok, exec (.telemReadMargins f tag ok) s = .next (s.to ((s.m.begun x).done x 0x0105 7232))) ∧
    (7232 ≤ x.len → ∀ ok, ∃ (b : Bytes) (m : Mach), exec (.telemReadMargins f tag ok) s = .next (s.to (m.doneIfFits x ok b)) ∧
      b.length = 7232 ∧ ∃ n, m = { s.m.begun x with free := n }))

/-! ## The module's ports, power and cooling -/

/-- The ports (R327, R355, R447, R454 to R456): a host link that goes down drops its rings and passes its contexts to the
other port's PF; one that comes up is served; a reset of a function destroys its contexts once none is being moved, and
PERST_N resets every function of its port; an idle port goes to retention and the management port returns at a signal; the
SMBus answers its block reads, and a wrong key, code or PEC is only counted; a datagram that is authentic is a command with PF
rights, and one that is not is counted and discarded; the TAP takes an instruction it accepts, else BYPASS. (Choices of the
model: log 62, log 73.) -/
def Obligations.PortsServeCommands : Prop :=
  (∀ (s : State) (p : Fin 2), s.m.hostUp p = true →
    exec (.hostLinkDown p) s = .next (s.to (s.m.linkDown p))) ∧
  (∀ (s : State) (p : Fin 2), s.m.hostUp p = false → s.m.hostUp (1 - p.val) = true → s.m.host.dom p ≠ .off → 2 ≤ s.m.boot.stage →
    let h := s.m.host.setDom p .on
    exec (.hostLinkUp p) s = .next (s.to { s.m with host := { h with portUp := vset h.portUp p true } })) ∧
  (∀ (s : State) (f : FnIx), f.val < mgmtFn → (∀ e ∈ s.m.ctxs, e.2.owner = f.val → s.m.ctxMoving e.2 = false) →
    exec (.functionLevelReset f) s = .next (s.to (s.m.resetFn f))) ∧
  (∀ (s : State) (p : Fin 2), (∀ e ∈ s.m.ctxs, portOf e.2.owner = p.val → s.m.ctxMoving e.2 = false) →
    exec (.perstN p) s = .next (s.to ((fnsOf p).foldl Mach.resetFn s.m))) ∧
  (∀ s : State, (s.m.host.host0 = .on → s.m.hostUp 0 = false →
      exec (.hostPortIdle .host0) s = .next (s.to { s.m with host := { s.m.host with host0 := .ret } })) ∧
    (s.m.host.host1 = .on → s.m.hostUp 1 = false →
      exec (.hostPortIdle .host1) s = .next (s.to { s.m with host := { s.m.host with host1 := .ret } })) ∧
    (s.m.host.mgmt = .on →
      exec (.hostPortIdle .mgmt) s = .next (s.to { s.m with host := { s.m.host with mgmt := .ret, mgmtUp := false } })) ∧
    (s.m.host.mgmt = .ret →
      exec .mgmtSignalDetect s = .next (s.to { s.m with host := { s.m.host with mgmt := .on, mgmtUp := true } }))) ∧
  (∀ s : State, s.m.smbusUp = true →
    exec .smbusStatus s = .next (s.to { s.m with host := { s.m.host with smbusOut := toBytes 6 s.m.stState } }) ∧
    exec .smbusPower s = .next (s.to { s.m with host := { s.m.host with
      smbusOut := toBytes 2 s.m.power.vin ++ toBytes 2 (s.m.power.draw / 10) ++ toBytes 2 (s.m.power.effective / 10) } }) ∧
    (∃ t, exec .smbusThermal s = .next t ∧ t.pending = s.pending ∧ t.m.host.smbusOut.length = 6 ∧
      t.m.host.smbusOut.drop 4 = toBytes 2 s.m.power.flow ∧ (∀ c, Core.Same (t.m.core c) (s.m.core c))) ∧
    ((s.m.boot.ready = true ∨ s.m.boot.minimal = true) → exec (.smbusRecover 0xA5) s = .next (s.to s.m.needRecovery)) ∧
    (∀ key, key ≠ 0xA5 → exec (.smbusRecover key) s = .next (s.to s.m.smbusRefuse)) ∧
    (s.m.boot.off = false → exec (.smbusReset 0x5A) s = .next (s.to ((s.m.afresh 2 true).pins fun b =>
      { b with fails := 0, off := false, hotOff := false, noImage := false }))) ∧
    (∀ key, key ≠ 0x5A → exec (.smbusReset key) s = .next (s.to s.m.smbusRefuse)) ∧
    (∀ v, 8 ≤ v.toNat → exec (.smbusPorts v) s = .next (s.to s.m.smbusRefuse)) ∧
    (∀ v, v.toNat < 8 → bitOf v.toNat 2 = true →
      let m := (s.m.portBit 0 (bitOf v.toNat 0)).portBit 1 (bitOf v.toNat 1)
      exec (.smbusPorts v) s = .next (s.to { m with host := { m.host with mgmt := .off, mgmtUp := false } })) ∧
    exec .smbusAlertResponse s = .next (s.to { s.m with boot := { s.m.boot with alert := false } }) ∧
    exec .smbusUnacknowledged s = .next (s.to { s.m with host := { s.m.host with smbusNack := s.m.host.smbusNack + 1 } })) ∧
  (∀ (s : State) (seq : BitVec 32) (entry data : Bytes), 2 ≤ s.m.boot.stage → s.m.host.mgmt = .on → data.length ≤ 1024 →
    exec (.mgmtDatagram seq entry data true) s = .next (s.to ({ s.m with host := { s.m.host with mgmtSeen := true,
                                                                                                 mgmtUp := true } }.submit mgmtFn
      (.mgmt seq) entry data false)) ∧
    exec (.mgmtDatagram seq entry data false) s = .next (s.to { s.m with host := { s.m.host with
      mgmtBad := s.m.host.mgmtBad + 1, mgmtUp := true } })) ∧
  (∀ (s : State) (i : TapIns), ∃ t, exec (.tapInstruction i) s = .next t ∧ t.pending = s.pending ∧
    t.m.host.tapIns = (if s.m.tapAccepts i then i else .bypass) ∧ (∀ c, Core.Same (t.m.core c) (s.m.core c)))

/-- Field sleep (R369 to R373): a field whose cores have been idle for 1 ms and whose port holds no reservation is asked; a
core that agrees stops, and one that does not gives its code; when all agree the field's banks and tiers go to retention, and
on any refusal its stopped cores go on and the refusals are counted and recorded; a wake event brings a sleeping field back.
(Choices of the model: log 68.) -/
def Obligations.FieldsSleepAndWake : Prop :=
  (∀ (s : State) (f : FieldIx), (s.m.field f).sleep = .awake → (s.m.field f).ring = .on → s.m.boot.stage = 9 →
    s.m.boot.recovering = false → (s.m.field f).fcHung = false → (s.m.field f).fcFenced = false → (s.m.field f).abortAt = none →
    s.m.portReserved f = false →
    (∀ e ∈ s.m.coresOf f, e.2.quiet s.m.cc = true ∧ e.2.pwr.busyAt + usCc 1000 ≤ s.m.cc) →
    exec (.fieldSleepStart f) s = .next (s.to (((s.m.fieldHold f 500).onField f fun x =>
      { x with sleep := .preparing, prepared := s.m.cc, answers := [] }).fcEvent f 2))) ∧
  (∀ (s : State) (c : CoreIx),
    let f := fieldOf c
    let k := s.m.core c
    (s.m.field f).sleep = .preparing → aget (s.m.field f).answers c.val = none → k.inWindow s.m.cc = false →
    s.m.coreEnabled c = true →
    (k.refusal = 0 → exec (.prepare c true) s = .next (s.to ((s.m.onField f fun x =>
      { x with answers := aset x.answers c.val 0 }).onCore c fun k =>
        { k with pwr := { k.pwr with stopped := true, park := none } }))) ∧
    (k.refusal ≠ 0 → exec (.prepare c true) s = .next (s.to (s.m.onField f fun x =>
      { x with answers := aset x.answers c.val k.refusal })))) ∧
  (∀ (s : State) (f : FieldIx), (s.m.field f).sleep = .preparing → s.m.refusers f = [] →
    (∀ c ∈ fieldCores f, s.m.coreEnabled c = true → aget (s.m.field f).answers c = some 0) →
    ∃ t, exec (.fieldSleepCommit f) s = .next t ∧ t.pending = s.pending ∧ (t.m.field f).sleep = .committed ∧
      (∀ c, (fieldOf c ≠ f.val → Core.Same (t.m.core c) (s.m.core c)) ∧
        (fieldOf c = f.val → c ∈ s.m.cores.map (·.1) → (s.m.core c).pwr.bankctl = .on →
          (t.m.core c).pwr.bankctl = .ret ∧ (t.m.core c).pwr.fsleep = true ∧ (t.m.core c).slots = (s.m.core c).slots))) ∧
  (∀ (s : State) (f : FieldIx), (s.m.field f).sleep = .preparing → s.m.refusers f ≠ [] →
    ∃ t, exec (.fieldSleepAbort f) s = .next t ∧ t.pending = s.pending ∧ (t.m.field f).sleep = .awake ∧
      (t.m.field f).answers = [] ∧ (t.m.field f).abortAt = some s.m.cc ∧
      (∀ c, fieldOf c = f.val → (t.m.core c).pwr.stopped = false)) ∧
  (∀ (s : State) (f : FieldIx), (s.m.field f).sleep = .committed →
    (∃ e ∈ s.m.coresOf f, e.2.wakeEvent e.1 = true ∨ e.2.ubWaits e.1 = true) →
    exec (.fieldWake f) s = .next (s.to (s.m.wakeField f)))

/-- The budget, the input monitors, the reference and the coolant (R354, R376, R377, R379, R449 to R452): the levels of a
field's cores move by one step at most towards its budget, its unprotected cores first; input out of range is recorded and,
past its limits, takes the device off; a reference lost for ten seconds ends all work, and its return is followed by a
recovery; the limits of R451 follow the readings, and a device switched off by heat starts again below 85 °C. (Choices of the
model: log 44, log 68.) -/
def Obligations.PowerAndCoolingActOnLimits : Prop :=
  (∀ (s : State) (fixed draw prot : Nat) (ds : List Nat), 3 ≤ s.m.boot.stage → s.m.power.budgetAt + usCc 1000 ≤ s.m.cc →
    ∃ t, exec (.budgetCompute fixed draw prot ds) s = .next t ∧ t.pending = s.pending ∧ t.m.power.fixed = fixed ∧
      t.m.power.prot = prot ∧ t.m.power.draw = draw ∧ t.m.power.budgetAt = s.m.cc ∧
      t.m.power.capReached = decide (s.m.power.effective * 99 ≤ draw * 100) ∧
      (∀ f, f < 56 → (t.m.field f).draw = lget ds f ∧
        (t.m.field f).budget = s.m.baseBudget f fixed - (t.m.field f).lent + (t.m.field f).loan) ∧
      (∀ c, Core.Same (t.m.core c) (s.m.core c))) ∧
  (∀ (s : State) (f : FieldIx) (draw : Nat), (s.m.field f).ring = .on → (s.m.field f).fcHung = false → 0 < s.m.power.budgetAt →
    ∃ t, exec (.throttleAdjust f draw) s = .next t ∧ t.pending = s.pending ∧ (t.m.field f).draw = draw ∧
      (∀ c, (s.m.core c).pwr.level ≤ 14 → (t.m.core c).pwr.level ≤ 14 ∧
        (t.m.core c).pwr.level ≤ (s.m.core c).pwr.level + 1 ∧ (s.m.core c).pwr.level ≤ (t.m.core c).pwr.level + 1) ∧
      (∀ c, fieldOf c ≠ f → (t.m.core c).pwr.level = (s.m.core c).pwr.level) ∧
      (∀ c, fieldOf c = f → (s.m.field f).budget < draw → (∃ e ∈ s.m.coresOf f, s.m.protectedCore e.2 = false ∧
        e.2.pwr.logic ≠ .off ∧ e.2.pwr.level < 14) → s.m.protectedCore (s.m.core c) = true →
        (t.m.core c).pwr.level = (s.m.core c).pwr.level - 1)) ∧
  (∀ (s : State) (mv : Nat), 0 < s.m.boot.stage →
    (38000 ≤ mv → mv ≤ 40000 → s.m.power.inputLow = false → ∃ t, exec (.inputLow mv) s = .next t ∧ t.pending = s.pending ∧
      t.m.power.inputLow = true ∧ t.m.power.vin = mv ∧ (∀ c, Core.Same (t.m.core c) (s.m.core c))) ∧
    (mv < 38000 → exec (.inputUndervoltage mv) s = .next (s.to ({ ((s.m.setVin mv).powerRec 0).logCount 0x88 with power :=
      { (((s.m.setVin mv).powerRec 0).logCount 0x88).power with inputLow := false, inputHigh := false } }.powerDown s.m.boot.hotOff))) ∧
    (60000 < mv → mv ≤ 63000 → s.m.power.inputHigh = false → ∃ t, exec (.inputHigh mv) s = .next t ∧ t.pending = s.pending ∧
      t.m.power.inputHigh = true ∧ t.m.power.vin = mv ∧ (∀ c, Core.Same (t.m.core c) (s.m.core c))) ∧
    (63000 < mv → exec (.inputOvervoltage mv) s = .next (s.to ({ ((s.m.setVin mv).powerRec 6).logCount 0x88 with power :=
      { (((s.m.setVin mv).powerRec 6).logCount 0x88).power with inputLow := false, inputHigh := false } }.powerDown true))) ∧
    (40000 < mv → mv ≤ 60000 → exec (.inputRestored mv) s = .next (s.to { s.m with power := { s.m.power with
      vin := mv, inputLow := false, inputHigh := false } }))) ∧
  (∀ s : State,
    (s.m.clk.refPresent = true → s.m.clk.locked = true → 0 < s.m.boot.stage → exec .referenceLoss s = .next (s.to
      ({ s.m with clk := { s.m.clk with refPresent := false, holdover := some s.m.cc } }.powerEvent 7))) ∧
    (∀ t, s.m.clk.holdover = some t → t + 12000000000 ≤ s.m.cc → s.m.clk.holdoverOut = false →
      exec .holdoverTimeout s = .next (s.to (({ s.m with clk := { s.m.clk with
        holdoverOut := true } }).faultPins.stopWork.failCmds))) ∧
    (s.m.clk.refPresent = false → s.m.clk.holdoverOut = true → 9 ≤ s.m.boot.stage → exec .referenceReturn s = .next (s.to
      ({ s.m with clk := { s.m.clk with refPresent := true, holdover := none, holdoverOut := false } }.needRecovery))) ∧
    (s.m.boot.stage = 1 → s.m.clk.refPresent = false → s.m.boot.since + 12000000000 ≤ s.m.cc →
      ∃ t, exec .startReferenceAbsent s = .next t ∧ t.pending = s.pending ∧ t.m.boot.fault = true)) ∧
  (∀ (s : State) (inlet outlet : Int) (flow : Nat) (logic tier : Int), 0 < s.m.boot.stage → s.m.boot.off = false →
    ∃ t, exec (.thermalLimit inlet outlet flow logic tier) s = .next t ∧ t.pending = s.pending ∧
      t.m.power = s.m.power.limits inlet outlet flow logic tier ∧
      t.m.boot.therm = (s.m.power.limits inlet outlet flow logic tier).thermNow ∧ (∀ c, Core.Same (t.m.core c) (s.m.core c))) ∧
  (∀ (s : State) (logic tier : Int), (105 ≤ logic ∨ 100 ≤ tier) → 0 < s.m.boot.stage → s.m.boot.off = false →
    exec (.thermalShutdown logic tier) s = .next (s.to (({ (s.m.logRec 0x09 0xFFFF 0xFFFF (toBytes 1 6)).logCount 0x84 with
      power := { ((s.m.logRec 0x09 0xFFFF 0xFFFF (toBytes 1 6)).logCount 0x84).power with
        logicT := logic, tierT := tier } }.powerDown true).pins fun b => { b with therm := true, hotOff := true }))) ∧
  (∀ (s : State) (hottest inlet : Int) (flow : Nat), s.m.boot.hotOff = true → hottest < 85 → inlet ≤ 320 → 600 ≤ flow →
    ∃ t, exec (.thermalRestart hottest inlet flow) s = .next t ∧ t.pending = s.pending ∧ t.m.boot.off = false ∧
      t.m.boot.hotOff = false ∧ t.m.boot.stage = 1 ∧ t.m.boot.since = s.m.cc ∧ t.m.boot.fails = s.m.boot.fails)

/-! ## Start, recovery, and the life of the silicon -/

/-- The stages of a start (R381 to R400, R445): input power in range, the root PLL and the ports, the ACTIVE image, eight
waves that bring up their own fields and no other, the start BIST, the tiers' training, which loses exactly the contents of
the tiers trained in full, the links' training and qualification, and READY; the heartbeat and the status page's time are
kept. (Choices of the model: log 37, log 69.) -/
def Obligations.StartGoesThroughItsStages : Prop :=
  (∀ (s : State) (mv : Nat), s.m.boot.stage = 0 → s.m.boot.off = false → 40000 < mv → mv ≤ 63000 →
    ∃ t, exec (.powerGood mv) s = .next t ∧ t.pending = s.pending ∧ t.m.boot.stage = 1 ∧ t.m.boot.since = s.m.cc ∧
      t.m.power.vin = mv ∧ (∀ c, Core.Same (t.m.core c) (s.m.core c))) ∧
  (∀ (s : State), s.m.boot.stage = 1 → s.m.boot.going = true → s.m.clk.refPresent = true →
    (∃ t, exec (.rootPllLock true) s = .next t ∧ t.pending = s.pending ∧ t.m.boot.stage = 2 ∧ t.m.clk.locked = true ∧
      t.m.host.host0 = .on ∧ t.m.host.host1 = .on ∧ t.m.host.mgmt = .on ∧ (∀ c, Core.Same (t.m.core c) (s.m.core c))) ∧
    (∃ t, exec (.rootPllLock false) s = .next t ∧ t.pending = s.pending ∧ t.m.boot.stage = 1 ∧ t.m.boot.held = true ∧
      t.m.boot.fault = true ∧ t.m.host = s.m.host)) ∧
  (∀ (s : State), s.m.boot.stage = 2 → s.m.boot.going = true →
    ∀ ok, (s.m.imageOk s.m.activeImage = true → ∃ t, exec (.boot ⟨.good, ok⟩) s = .next t ∧ t.pending = s.pending ∧ t.m.boot.stage = 3 ∧
      t.m.boot.running = b2n s.m.boot.activeB ∧ t.m.boot.loaded = s.m.activeImage ∧
      t.m.boot.cold = !(s.m.boot.settingsOk && ok) ∧ t.m.boot.wave = 0) ∧
    exec (.boot ⟨.flashError, ok⟩) s = .next (s.to (s.m.failStart 0x0204)) ∧
    exec (.boot ⟨.badSignature, ok⟩) s = .next (s.to (s.m.failStart 0x0201))) ∧
  (∀ (s : State) (k : Fin 8), s.m.boot.stage = 3 → s.m.boot.going = true → s.m.boot.minimal = false → s.m.boot.wave = k.val →
    s.m.boot.since + usCc (50000 * k.val) ≤ s.m.cc →
    exec (.kickoffWave k false) s = .next (s.to (s.m.failStart 0x0301)) ∧
    ∃ t, exec (.kickoffWave k true) s = .next t ∧ t.pending = s.pending ∧ t.m.boot.wave = k.val + 1 ∧
      t.m.boot.stage = (if k.val = 7 then 4 else 3) ∧
      (∀ f, f < 56 → f % 8 = k.val → (t.m.field f).ring = .on ∧ (t.m.field f).tiers = .replicate 2 .on) ∧
      (∀ c : CoreIx,
        (fieldOf c % 8 = k.val → s.m.coreOut c = false → (t.m.core c).pwr.logic = .on ∧ (t.m.core c).pwr.bankctl = .on ∧
          (t.m.core c).pwr.banks = .replicate 6 .on ∧ (t.m.core c).slots = (s.m.core c).slots) ∧
        (fieldOf c % 8 ≠ k.val ∨ s.m.coreOut c = true → Core.Same (t.m.core c) (s.m.core c)))) ∧
  (∀ (s : State) (fcBad ringBad : List FieldIx) (pllOk : Bool) (coreBad : List CoreIx) (subBad : List (CoreIx × TierIx × Fin 16))
      (thermBad loopBad : List FieldIx), s.m.boot.stage = 4 → s.m.boot.going = true → s.m.boot.minimal = false →
    let run := exec (.startBist fcBad ringBad pllOk ⟨⟨coreBad, subBad⟩, thermBad, loopBad⟩) s
    (∀ f l, fcBad = f :: l → run = .next (s.to (s.m.failStart 0x0401 f))) ∧
    (∀ f l, fcBad = [] → ringBad = f :: l → run = .next (s.to (s.m.failStart 0x0402 f))) ∧
    (fcBad = [] → ringBad = [] → pllOk = false → run = .next (s.to (s.m.failStart 0x0403))) ∧
    (fcBad = [] → ringBad = [] → pllOk = true → ∃ t, run = .next t ∧ t.pending = s.pending ∧ t.m.boot.stage = 5 ∧
      (∀ c ∈ coreBad, s.m.coreOut c = false → c.val ∈ t.m.boot.relabel) ∧
      (subBad = [] → ∀ c : Nat, c ∈ t.m.boot.relabel → c ∈ coreBad.map (fun x => x.val) ∧ s.m.coreOut c = false) ∧
      (∀ e : FieldIx, (t.m.eng e).fenced = loopBad.contains e) ∧
      (∀ f ∈ thermBad, (t.m.field f).sensorBad = true ∧ (t.m.field f).cut = true))) ∧
  (∀ (s : State) (inFull failed : List (CoreIx × TierIx)) (domainBad : List (FieldIx × TierIx)), s.m.boot.stage = 5 →
    s.m.boot.going = true →
    (∀ d l, domainBad = d :: l →
      exec (.dramTraining inFull failed domainBad) s = .next (s.to (s.m.failStart 0x0501 d.1))) ∧
    (domainBad = [] → ∃ t, exec (.dramTraining inFull failed domainBad) s = .next t ∧ t.pending = s.pending ∧
      t.m.boot.stage = 6 ∧
      (∀ (c : CoreIx) (i : TierIx), c.val ∈ s.m.cores.map (·.1) → s.m.coreOut c = false →
        ((s.m.boot.cold = true ∨ (c, i) ∈ inFull ∨ (s.m.core c).tierEntryOk i = false) → ∀ a, i.val * 0xC00000 ≤ a → a < (i.val + 1) * 0xC00000 →
          memByte (t.m.core c).ub a = 0) ∧
        (s.m.boot.cold = false → (c, i) ∉ inFull → (s.m.core c).tierEntryOk i = true → vget (t.m.core c).care.trained i = true ∧
          ∀ a, i.val * 0xC00000 ≤ a → a < (i.val + 1) * 0xC00000 → memByte (t.m.core c).ub a = memByte (s.m.core c).ub a)))) ∧
  (∀ (s : State) (trained : List (FieldIx × BitVec 16)), s.m.boot.stage = 6 → s.m.boot.going = true → s.m.log.place = none →
    ∃ t, exec (.linkTraining trained) s = .next t ∧ t.pending = s.pending ∧ t.m.boot.stage = 7 ∧
      (∀ (e : FieldIx) (l : BitVec 16), (trained.find? fun x => x.1 == e) = some (e, l) → roleOf e ≠ 5 →
        (s.m.eng e).fenced = false →
        (15 ≤ laneCount l → (t.m.eng e).st = .qualify ∧ (t.m.eng e).lanes = l ∧ (t.m.field e).light = .on) ∧
        (laneCount l < 15 → (t.m.eng e).st = .down ∧ (t.m.eng e).fenced = true ∧ (t.m.field e).light = .off)) ∧
      (∀ e : FieldIx, (trained.find? fun x => x.1 == e) = none → (t.m.eng e).lanes = 0 ∧
        (t.m.eng e).st = if (s.m.eng e).fenced then .down else .idle)) ∧
  (∀ (s : State) (outcome : List (FieldIx × Bool × BitVec 16)), s.m.boot.stage = 7 → s.m.boot.going = true →
    ∃ t, exec (.linkQualification outcome) s = .next t ∧ t.pending = s.pending ∧ t.m.boot.stage = 8 ∧
      (∀ (e : FieldIx) (u : Bool) (o l : BitVec 16), (s.m.eng e).st = .qualify →
        (outcome.find? fun x => x.1 == e) = some (e, u, o) →
        (qualified (s.m.eng e).lanes u o = some l → (t.m.eng e).st = .active ∧ (t.m.eng e).lanes = l) ∧
        (qualified (s.m.eng e).lanes u o = none → (t.m.eng e).st = .down ∧ (t.m.eng e).fenced = true)) ∧
      (∀ e : FieldIx, (s.m.eng e).st ≠ .qualify → t.m.eng e = s.m.eng e)) ∧
  (∀ (s : State), s.m.boot.stage = 8 → s.m.boot.going = true →
    exec (.readyStage false) s = .next (s.to (s.m.failStart 0x0801)) ∧
    ∃ t, exec (.readyStage true) s = .next t ∧ t.pending = s.pending ∧ t.m.boot.stage = 9 ∧ t.m.boot.ready = true ∧
      t.m.boot.fault = false ∧ t.m.boot.fails = 0 ∧ t.m.boot.settingsOk = true ∧ t.m.wafer.gen = s.m.wafer.gen + 1 ∧
      t.m.boot.loaded.confirmed = true ∧
      t.m.boot.rollback.toNat = max s.m.boot.rollback.toNat s.m.boot.loaded.rollback.toNat ∧
      (s.m.boot.running = 1 → s.m.boot.imgB = s.m.boot.loaded → t.m.boot.imgB.confirmed = true) ∧
      (s.m.boot.running ≠ 1 → s.m.boot.imgA = s.m.boot.loaded → t.m.boot.imgA.confirmed = true)) ∧
  (∀ s : State, 3 ≤ s.m.boot.stage →
    (s.m.boot.beatAt + usCc 10000 ≤ s.m.cc → exec .stHeartbeatTick s = .next (s.to { s.m with boot :=
      { s.m.boot with heartbeat := inc64 s.m.boot.heartbeat, beatAt := s.m.cc } })) ∧
    exec .stTimeUpdate s = .next (s.to { s.m with host := { s.m.host with stTime := s.m.now } })) ∧
  (∀ (s : State) (f : FieldIx), s.m.boot.stage = 9 → (s.m.eng f).st = .idle → (s.m.eng f).fenced = false →
    s.m.engPort f < 9 → (s.m.field f).light = .ret →
    ∃ t, exec (.lightSignalDetect f) s = .next t ∧ t.pending = s.pending ∧ (t.m.eng f).st = .train ∧
      (t.m.eng f).leader = true ∧ (t.m.field f).light = .on ∧ (∀ e : FieldIx, e ≠ f → t.m.eng e = s.m.eng e))

/-- Failed starts and recoveries (R16, R381, R389, R401 to R405, R445): each stage has its limit and its REASON; a failed
start is kept, and tried again after a second, the third in a row in minimal mode; a recovery halts every slot with CAUSE 6
and comes back READY, or is a failed start with REASON 0x0901; the watchdog starts the WC again; and with the input power goes
all that flash does not hold. (Choices of the model: log 32, log 48, log 69.) -/
def Obligations.StartFailuresAndRecovery : Prop :=
  (∀ (s : State) (st ms r : Nat), (st, ms, r) ∈ [(2, 10000, 0x0205), (3, 1000, 0x0302), (4, 60000, 0x0404), (5, 150000, 0x0502),
      (8, 5000, 0x0802)] → s.m.boot.stage = st → s.m.boot.going = true → s.m.boot.minimal = false →
    s.m.boot.since + usCc (ms * 1000) < s.m.cc → exec .stageTimeout s = .next (s.to (s.m.failStart r))) ∧
  (∀ (s : State) (r : Nat), s.m.boot.failed = some r →
    (s.m.boot.fails < 2 → ∃ t, exec .startFailure s = .next t ∧ t.pending = s.pending ∧ t.m.boot.failed = none ∧
      t.m.boot.failedAt = some s.m.cc ∧ t.m.boot.fails = s.m.boot.fails + 1 ∧ t.m.boot.failStage = r / 256 ∧
      t.m.boot.failReason = BitVec.ofNat 16 r ∧ t.m.boot.ready = false ∧ t.m.boot.stage = s.m.boot.stage ∧
      (∀ c, Core.Same (t.m.core c) (s.m.core c))) ∧
    (r / 256 = 2 → r ≠ 0x0205 → s.m.imageOk (if s.m.boot.activeB then s.m.boot.imgA else s.m.boot.imgB) = false →
      ∃ t, exec .startFailure s = .next t ∧ t.pending = s.pending ∧ t.m.boot.noImage = true ∧ t.m.boot.fault = true ∧
        t.m.boot.activeB = s.m.boot.activeB) ∧
    (r / 256 = 2 → s.m.imageOk (if s.m.boot.activeB then s.m.boot.imgA else s.m.boot.imgB) = true → s.m.boot.fails < 2 →
      ∃ t, exec .startFailure s = .next t ∧ t.pending = s.pending ∧ t.m.boot.activeB = !s.m.boot.activeB ∧
        t.m.boot.noImage = false) ∧
    (2 ≤ s.m.boot.fails → r / 256 ≠ 2 → ∃ t, exec .startFailure s = .next t ∧ t.pending = s.pending ∧ t.m.boot.minimal = true ∧
      t.m.boot.stage = 3 ∧ t.m.boot.ready = false ∧ t.m.boot.fault = true ∧ t.m.ctxs = [])) ∧
  (∀ (s : State) (t : Nat), s.m.boot.failedAt = some t → t + usCc 1000000 ≤ s.m.cc → s.m.boot.noImage = false →
    exec .startRetry s = .next (s.to (s.m.afresh 2 true))) ∧
  (∀ (s : State) (inFull : List (CoreIx × TierIx)), s.m.boot.going = true → s.m.boot.stage = 9 → s.m.boot.ready = true →
    (∃ t, exec (.wholeDeviceRecovery inFull true) s = .next t ∧ t.pending = s.pending ∧ t.m.boot.stage = 9 ∧
      t.m.boot.ready = true ∧ t.m.boot.recovering = false ∧ t.m.boot.fails = s.m.boot.fails ∧
      t.m.wafer.gen = s.m.wafer.gen + 1 ∧
      (∀ (c : CoreIx) (i : Nat), i < 4 → c.val ∈ s.m.cores.map (·.1) → s.m.coreOut c = false →
        let v := (s.m.core c).slot i
        let w := (t.m.core c).slot i
        (v.ctl.st ≠ .empty → w.ctl.st = .halted ∧ w.ctl.cause = 6 ∧ w.ctl.cid = v.ctl.cid ∧ w.ctl.win = v.ctl.win ∧
          w.arch = ({} : Slot).arch) ∧
        (v.ctl.st = .empty → w.ctl.st = .empty))) ∧
    (∃ t, exec (.wholeDeviceRecovery inFull false) s = .next t ∧ t.pending = s.pending ∧ t.m.boot.failed = some 0x0901 ∧
      t.m.boot.ready = false)) ∧
  (∀ s : State, 3 ≤ s.m.boot.stage → s.m.boot.beatAt + usCc 500000 ≤ s.m.cc →
    ∃ t, exec .wcWatchdogExpiry s = .next t ∧ t.pending = s.pending ∧ t.m.boot.stage = 2 ∧ t.m.boot.ready = false ∧
      t.m.boot.fault = true ∧ t.m.ctxs = [] ∧ t.m.clk = { s.m.clk with synced := false, slew := 0, holdoverOut := false,
                                                                        syncLost := false, lastGood := 0, master := 0 }) ∧
  (∀ s : State, ∃ t, exec .inputPowerLoss s = .next t ∧ t.pending = s.pending ∧ t.m.boot.stage = 0 ∧ t.m.boot.ready = false ∧
    t.m.ctxs = [] ∧ t.m.clk.tclk = 0 ∧ t.m.clk.locked = false ∧ t.m.boot.life = s.m.boot.life ∧
    t.m.boot.imgA = s.m.boot.imgA ∧ t.m.boot.imgB = s.m.boot.imgB ∧ t.m.boot.rollback = s.m.boot.rollback ∧
    t.m.log.recs = s.m.log.recs ∧ t.m.power.cap = s.m.power.cap ∧
    (∀ c a, memByte (t.m.core c).sram a = 0 ∧ memByte (t.m.core c).ub a = 0) ∧
    (∀ a, memByte t.m.host.mem a = memByte s.m.host.mem a))

/-- Tests and repairs in service (R166 to R172, R409 to R413, R420): a slice that passes is noted and counted; a core that
fails its slice is fenced with REASON 2, at once where nothing runs on it; a failing sub-array takes a spare column, then a
spare row (which column or row is a free value, log 36); a check that fails acts on what it checked; a bench engine tests
itself and stands in for a fenced one; the scrubber reads the next codeword, counts what it finds and marks what it cannot
correct; a declared bit line and a row with more than two cell faults are repaired. (Choices of the model: log 71.) -/
def Obligations.SlicesAndRepairs : Prop :=
  (∀ (s : State) (c : CoreIx), s.m.mayTest (fieldOf c) = true → (s.m.coreEnabled c = true ∨ s.m.coreBench c = true) →
    s.m.inMove c = false →
    (∃ t, exec (.rotationSlice (.core c) true) s = .next t ∧ t.pending = s.pending ∧ (t.m.core c).lastPass = s.m.now ∧
      (t.m.field (fieldOf c)).slicesRun = inc64 (s.m.field (fieldOf c)).slicesRun ∧
      (t.m.field (fieldOf c)).slicesFailed = (s.m.field (fieldOf c)).slicesFailed ∧
      (∀ i, i < 4 → ((t.m.core c).slot i).arch = ((s.m.core c).slot i).arch)) ∧
    (s.m.workAt (s.m.indexOf c) = [] → (s.m.coreBench c = true ∨ s.m.indexOf c = c) →
      ∃ t, exec (.rotationSlice (.core c) false) s = .next t ∧ t.pending = s.pending ∧ (t.m.fpCore c).state = 2 ∧
        (t.m.fpCore c).reason = 2 ∧ (t.m.core c).pwr.logic = .off) ∧
    (∀ i sa, exec (.rotationSlice (.sub c i sa) true) s = .next (s.to (
      ((((s.m.wakeField (fieldOf c)).fcEvent (fieldOf c) 3).sliceDone (fieldOf c) true 1 (c.val + 2 ^ 17 * (i.val * 16 + sa.val))).onCore c fun k =>
        { k with care := { k.care with subPass := aset k.care.subPass (i.val * 16 + sa.val) s.m.now } })))) ∧
    (∀ (i : TierIx) (sa : Fin 16), (s.m.core c).colsUsed i sa < 64 →
      ∃ t col, exec (.rotationSlice (.sub c i sa) false) s = .next t ∧ t.pending = s.pending ∧ col < 9216 ∧
        (t.m.core c).care.cols = (s.m.core c).care.cols ++ [(i.val, sa.val, col)] ∧
        (t.m.field (fieldOf c)).slicesFailed = inc64 (s.m.field (fieldOf c)).slicesFailed) ∧
    (∀ (i : TierIx) (sa : Fin 16), 64 ≤ (s.m.core c).colsUsed i sa → (s.m.core c).rowsUsed i sa < 128 →
      ∃ t row, exec (.rotationSlice (.sub c i sa) false) s = .next t ∧ t.pending = s.pending ∧ row < 768 ∧
        (t.m.core c).care.rows = (s.m.core c).care.rows ++ [(i.val, sa.val, row)])) ∧
  (∀ (s : State) (f : FieldIx) (cores : List CoreIx), s.m.mayTest f = true →
    (∀ k, exec (.analogueCheck f k true cores) s = .next (s.to (s.m.sliceDone f true 2 f))) ∧
    (∃ t, exec (.analogueCheck f .thermalRef false cores) s = .next t ∧ t.pending = s.pending ∧
      (t.m.field f).sensorBad = true ∧ (t.m.field f).cut = true ∧ (∀ c, Core.Same (t.m.core c) (s.m.core c))) ∧
    ((s.m.eng f).fenced = false → ∃ t, exec (.analogueCheck f .meshLoopback false cores) s = .next t ∧ t.pending = s.pending ∧
      (t.m.eng f).st = .down ∧ (t.m.eng f).fenced = true) ∧
    (s.m.benchIdle f = true → exec (.benchEngineLoopback f true) s = .next (s.to (s.m.sliceDone f true 3 f)) ∧
      ∃ t, exec (.benchEngineLoopback f false) s = .next t ∧ t.pending = s.pending ∧ (t.m.eng f).fenced = true)) ∧
  (∀ (s : State) (f : FieldIx) (b : Nat), benchOf (roleOf f) = some b → s.m.boot.stage = 9 → (s.m.eng f).fenced = true →
    roleOf f < 4 → s.m.benchIdle b = true → (∀ g ∈ s.m.fabric.engs.toList, g.standsFor ≠ some f.val) →
    ∀ lanes, (15 ≤ laneCount lanes → ∃ t, exec (.benchEngineStandIn f lanes) s = .next t ∧ t.pending = s.pending ∧
      (t.m.eng b).st = .active ∧ (t.m.eng b).standsFor = some f.val ∧ (t.m.eng b).lanes = lanes ∧ (t.m.field b).light = .on) ∧
    (laneCount lanes < 15 → exec (.benchEngineStandIn f lanes) s = .next (s.to (s.m.engDown b)))) ∧
  (∀ (s : State) (c : CoreIx) (i : TierIx),
    let k := s.m.core c
    let pos := vget k.care.pos i
    let off := cellOff i (pos / subWords) (pos % subWords / 32) (pos % 32 / 4) (pos % 4)
    k.pwr.bankctl = .on → vget k.pwr.sr i = false → vget (s.m.field (fieldOf c)).tiers i = .on → s.m.tierServed c i = true →
    pos + 1 < tierWords →
    k.poisonU.contains (off / 32) = false →
    (∃ t, exec (.scrubCodeword c i .clean) s = .next t ∧ t.pending = s.pending ∧
      (let k' := k.scrubRead i (pos / subWords) (pos % subWords / 32) (pos % 32 / 4 * 1152 + pos % 4 * 288) (off / 32)
       t.m.core c = { k' with care := { k'.care with pos := vset k'.care.pos i (pos + 1) } }) ∧
      (∀ d, d ≠ c.val → Core.Same (t.m.core d) (s.m.core d))) ∧
    (∀ sym err, err ≠ 0 → aget k.soft (off / 32) = none → ∃ t, exec (.scrubCodeword c i (.corrected sym err)) s = .next t ∧
      t.pending = s.pending ∧ (t.m.core c).mem.eccCorr = inc64 k.mem.eccCorr ∧ (t.m.core c).poisonU = k.poisonU ∧
      aget (t.m.core c).soft (off / 32) = none ∧
      (t.m.core c).care.errs.length = k.care.errs.length + ((List.range 8).filter (bitOf err.toNat)).length) ∧
    (∃ t, exec (.scrubCodeword c i .uncorrectable) s = .next t ∧ t.pending = s.pending ∧
      (t.m.core c).mem.eccUncorr = inc64 k.mem.eccUncorr ∧ off / 32 ∈ (t.m.core c).poisonU ∧
      (∀ w, w ≠ off / 32 → (w ∈ (t.m.core c).poisonU ↔ w ∈ k.poisonU)) ∧
      (∀ a, memByte (t.m.core c).ub a = memByte k.ub a))) ∧
  (∀ (s : State) (c : CoreIx) (i : TierIx), s.m.boot.stage = 9 → (s.m.core c).pwr.bankctl ≠ .off →
    vget (s.m.core c).care.overdue i = false →
    vget (s.m.core c).care.passStart i + 48 * 3600 * 1200000000 ≤ s.m.cc →
    ∃ t, exec (.scrubOverdue c i) s = .next t ∧ t.pending = s.pending ∧ vget (t.m.core c).care.overdue i = true ∧
      (t.m.core c).pwr.bankctl = .on ∧ vget (t.m.core c).pwr.sr i = false) ∧
  (∀ (s : State) (c : CoreIx) (i : TierIx) (sa : Fin 16) (col : Fin 9216), s.m.mayTest (fieldOf c) = true →
    (s.m.core c).care.declared.contains (i.val, sa.val, col.val) = true →
    ((s.m.core c).colsUsed i sa < 64 → exec (.bitLineRepair c i sa col) s = .next (s.to (s.m.repairCol c i sa col))) ∧
    (64 ≤ (s.m.core c).colsUsed i sa → exec (.bitLineRepair c i sa col) s = .next (s.to (s.m.failCore c 4 false)))) ∧
  (∀ (s : State) (c : CoreIx) (i : TierIx) (sa : Fin 16) (row : Fin 768), s.m.mayTest (fieldOf c) = true →
    2 < ((s.m.core c).care.cells.filter fun e => e.1 == i.val && e.2.1 == sa.val && e.2.2.1 == row.val).length →
    ((s.m.core c).rowsUsed i sa < 128 → exec (.rowRepair c i sa row) s = .next (s.to (s.m.repairRow c i sa row))) ∧
    (128 ≤ (s.m.core c).rowsUsed i sa → ∃ t, exec (.rowRepair c i sa row) s = .next t ∧ t.pending = s.pending ∧
      (∀ d, Core.Same (t.m.core d) (s.m.core d))))

/-- Substitution and loss (R413, R416 to R419): a core without work is fenced; the work of a failed core with an intact memory
path passes to the bench core chosen, with its registers and its scratchpad; one whose path is lost halts its slots with CAUSE
6; and an entry that no context refers to is invalidated, its original core fenced. (Choices of the model: log 34, log 70.) -/
def Obligations.SubstitutionsAndLosses : Prop :=
  (∀ (s : State) (c : CoreIx) (reason : BitVec 4),
    let idx := s.m.indexOf c
    s.m.mayRepair c = true → 0 < reason.toNat → reason.toNat < 7 → s.m.coreOut c = false →
    (s.m.workAt idx = [] → (s.m.coreBench c = true ∨ idx = c) →
      exec (.substitution c reason) s = .next (s.to (s.m.fenceCore c reason.toNat false))) ∧
    (∀ i b, s.m.coreBench c = false → s.m.workAt idx ≠ [] → isAnchor c = false → s.m.substSlot idx = some i →
      s.m.chooseBench c false = some b →
      s.m.inFlightTo c idx = false → (s.m.field (fieldOf c)).sleep ≠ .committed → (s.m.field (fieldOf b)).sleep ≠ .committed →
      (∀ j, j < 6 → vget (s.m.core c).pwr.banks j ≠ .off) →
      ∃ t, exec (.substitution c reason) s = .next t ∧ t.pending = s.pending ∧
        vget t.m.wafer.subst i = { orig := idx, stand := b, valid := true } ∧
        (t.m.fpCore b).state = 0 ∧ t.m.coreOut c = true ∧
        (∀ j, j < 4 → ((t.m.core b).slot j).arch = ((s.m.core c).slot j).arch) ∧
        (∀ a, memByte (t.m.core b).sram a = memByte (s.m.core c).sram a))) ∧
  (∀ (s : State) (c : CoreIx) (reason : BitVec 4),
    s.m.mayRepair c = true → 0 < reason.toNat → reason.toNat < 7 → s.m.coreEnabled c = true →
    s.m.workAt (s.m.indexOf c) ≠ [] →
    ∀ lost, ∃ t, exec (.lostCore c reason ⟨true, lost⟩) s = .next t ∧ t.pending = s.pending ∧ (t.m.fpCore c).state = 2 ∧
      (t.m.fpCore c).reason = 5 ∧ (t.m.fpCore c).mem = 3 ∧ (t.m.fpCore c).routerOk = ((s.m.fpCore c).routerOk && !lost) ∧
      (∀ i, i < 4 → s.m.resetting c i = false → (((s.m.core c).slot i).ctl.st = .running ∨ ((s.m.core c).slot i).ctl.st = .parked) →
        ((t.m.core c).slot i).ctl.st = .halted ∧ ((t.m.core c).slot i).ctl.cause = 6 ∧
        ((t.m.core c).slot i).ctl.imprecise = true)) ∧
  (∀ (s : State) (i : Fin 64),
    let e := vget s.m.wafer.subst i
    e.valid = true → e.holding = false → (∀ x ∈ s.m.ctxs, s.m.refersTo x.1 x.2 e.orig = false) → e.orig ≠ e.stand →
    ∃ t, exec (.substEntryInvalidate i) s = .next t ∧ t.pending = s.pending ∧ vget t.m.wafer.subst i = {} ∧
      (t.m.fpCore e.orig).state = 2 ∧ (t.m.fpCore e.orig).alt = e.orig ∧ (t.m.fpCore e.stand).alt = e.stand ∧
      (t.m.fpCore e.stand).state = (s.m.fpCore e.stand).state)

/-- The sentry beyond its sampling, and the field controllers (R424 to R429, R443, R444): a packet re-executed alike leaves no
mismatch and one re-executed otherwise leaves one; the referee's result is put on the oldest mismatch without one; a verdict
follows from the three results; heartbeats are taken, 5 ms without one is a hang, and a restart ends it unless it is the third
of the day or the controller stays silent. (Choices of the model: log 49, log 50.) -/
def Obligations.SentryAndFieldControllers : Prop :=
  (∀ (s : State) (c : CoreIx) (delta : BitVec 32) (p : SenPkt) (rest : List SenPkt) (sl : Nat) (spare : Bool) (live : List Nat)
      (m : Mach),
    let k := s.m.core c
    k.packets = p :: rest → (k.slotsOf p.cid.toNat).head? = some sl → k.clocksRun s.m.cc = true → k.lastIssue ≠ some s.m.cc →
    cycleRemoved k.pwr s.m.cc = false → (p.kind = 1 ∨ busyIn k.eng.busyTo s.m.cc = false) → s.m.countCycle c = (live, m) →
    (m.core c).seq.choose (sl :: live) = some (sl, spare) →
    ∃ t, exec (.sentryPacket c delta) s = .next t ∧ t.pending = s.pending ∧ (t.m.core c).packets = rest ∧
      t.m.mismatches = (if p.expect + delta = p.crc then s.m.mismatches
        else s.m.mismatches ++ [{ pkt := p, partnerCrc := p.expect + delta }])) ∧
  (∀ (s : State) (delta : BitVec 32) (i r : Nat),
    let x := lget s.m.mismatches i
    (s.m.mismatches.findIdx? fun x => x.refereeCrc.isNone) = some i → s.m.refereeOf x.pkt = some r →
    (s.m.core r).refereeAt = none →
    ∃ t, exec (.refereeRun delta) s = .next t ∧ t.pending = s.pending ∧ (t.m.core r).refereeAt = some s.m.cc ∧
      t.m.mismatches = s.m.mismatches.set i { x with referee := some r, refereeCrc := some (x.pkt.expect + delta) }) ∧
  (∀ (s : State) (ok : Bool) (x : Mismatch) (rest : List Mismatch), s.m.mismatches = x :: rest → x.refereeCrc.isSome = true →
    s.m.mayAct x = true → ∃ t, exec (.verdict ok) s = .next t ∧ t.pending = s.pending ∧ t.m.mismatches = rest ∧
      (x.refereeCrc ≠ some x.partnerCrc → x.refereeCrc ≠ some x.pkt.crc →
        ∀ d, (t.m.fpCore d).state = (s.m.fpCore d).state ∧
          ∀ a, memByte (t.m.core d).sram a = memByte (s.m.core d).sram a)) ∧
  (∀ (s : State) (f : FieldIx), (s.m.field f).ring = .on → (s.m.field f).fcHung = false →
    exec (.fcHeartbeat f) s = .next (s.to ((s.m.onField f fun x => { x with lastBeat := s.m.cc }).fcEvent f 5)) ∧
    (s.m.boot.stage = 9 → (s.m.field f).lastBeat + usCc 5000 ≤ s.m.cc →
      ∃ t, exec (.fcHang f) s = .next t ∧ t.pending = s.pending ∧ (t.m.field f).fcHung = true ∧
        (t.m.field f).hangs.head? = some s.m.cc ∧ (∀ c, Core.Same (t.m.core c) (s.m.core c)))) ∧
  (∀ (s : State) (f : FieldIx), (s.m.field f).fcHung = true →
    ((s.m.field f).hangs.length < 3 → ∃ t, exec (.fcRestart f true) s = .next t ∧ t.pending = s.pending ∧
      (t.m.field f).fcHung = false ∧ (t.m.field f).lastBeat = s.m.cc ∧ t.m.boot.recovering = s.m.boot.recovering) ∧
    (3 ≤ (s.m.field f).hangs.length → ∀ b, ∃ t, exec (.fcRestart f b) s = .next t ∧ t.pending = s.pending ∧
      t.m.boot.recovering = true ∧ t.m.boot.ready = false) ∧
    (∃ t, exec (.fcRestart f false) s = .next t ∧ t.pending = s.pending ∧ t.m.boot.recovering = true ∧ t.m.boot.ready = false))

/-! ## Registers, special values, huddles, conditions and coordinates -/

/-- Scalar registers and predicates (R48, R86): a register reads what was last written to it, and no write reaches another
one; p0 always reads 1, and a write to it changes nothing. -/
def Obligations.RegistersHoldWhatIsWritten : Prop :=
  (∀ (a : SlotArch) (n k : Nat) (v : BitVec 64), n < 32 → k < 32 →
    readS (writeS a n v) k = (if k = n then v else readS a k) ∧ (writeS a n v).p = a.p ∧ (writeS a n v).v = a.v) ∧
  (∀ (a : SlotArch) (n k : Nat) (v : Bool), n < 8 → k < 8 →
    readP (writeP a n v) k = (if k = 0 then true else if k = n then v else readP a k) ∧ (writeP a n v).s = a.s ∧
    (n = 0 → writeP a n v = a))

/-- Special values of the vector comparison and selection instructions, and OVF in the integer ones (R117), element by element
of the image that the V part writes. What a NaN result is (R95): the positive canonical NaN of the destination format,
whichever NaN an input was, and it is a NaN of that format again. -/
def Obligations.SpecialValuesAndNaNs : Prop :=
  ((∀ (subn : Bool) (w a b c a1 b1 x i : Nat) (g : Gens), vFmt w ∈ [0xA, 4, 9, 0xB, 2, 3] → i < fmtCount (vFmt w) →
     let f := vFmt w
     let out := elem (vcompute subn w a b c a1 b1 x g).1 (fmtWidth f) i
     let p := elem a (fmtWidth f) i
     let q := elem b (fmtWidth f) i
     (fmtIsInt f = false → (vOp w = 5 ∨ vOp w = 6) →
       ((fdecode f p = .nan ∨ fdecode f q = .nan) → out = fmtNan f) ∧
       (∀ n n' e e', fdecode f p = .fin n 0 e → fdecode f q = .fin n' 0 e' →
         out = withSign f (if vOp w = 5 then n || n' else n && n') 0)) ∧
     (fmtIsInt f = false → vOp w = 7 →
       ((fdecode f p = .nan ∨ fdecode f q = .nan) → out = if vSrc3 w / 8 = 1 then 2 ^ fmtWidth f - 1 else 0) ∧
       (∀ n n' e e', fdecode f p = .fin n 0 e → fdecode f q = .fin n' 0 e' →
         out = if vSrc3 w / 8 = 0 ∨ 3 ≤ vSrc3 w / 8 then 2 ^ fmtWidth f - 1 else 0)) ∧
     (fmtIsInt f = true → ∀ exact : Int,
       ((vOp w = 1 ∧ exact = intOf f p + intOf f q) ∨ (vOp w = 2 ∧ exact = intOf f p - intOf f q) ∨
         (vOp w = 3 ∧ exact = intOf f p * intOf f q)) →
       (vOvf w = false → intOf f out = max (intMin f) (min (intMax f) exact)) ∧
       (vOvf w = true → (out : Int) = exact % (2 ^ fmtWidth f : Nat))))) ∧
  ((∀ (f rm rnd : Nat) (ovf satn subn : Bool), (f, fround f rm rnd ovf satn subn .nan) ∈
       [(0, 0x7F), (1, 0x7F), (4, 0x7FC0), (9, 0x7E00), (0xA, 0x7FC00000)] ∨ f ∉ [0, 1, 4, 9, 0xA]) ∧
   (∀ f ∈ [0, 1, 4, 9, 0xA], fdecode f (fmtNan f) = .nan) ∧
   (∀ (f rm rnd : Nat) (subn : Bool) (x y : Nat), f ∈ [4, 9, 0xA] → (fdecode f x = .nan ∨ fdecode f y = .nan) →
     ∀ op ∈ [1, 2, 3], floatElem op f rm rnd subn x y = fmtNan f) ∧
   (∀ (rm : Nat) (n : Bool), fadd rm (.inf n) (.inf !n) = .nan ∧ fmul (.inf n) (.fin false 0 0) = .nan))

/-- When a huddle releases and when a wait passes (R219, R220): a barrier takes TARGET from COUNT and counts a PHASE, an event
also becomes RELEASED, a semaphore gives its count to the wait that passes; an IDLE huddle does neither; and one armed with
TARGET 0 lets every wait pass, unchanged. -/
def Obligations.HuddlesReleaseAndPass : Prop :=
  (∀ (h : Huddle) (cc : Nat), h.target ≠ 0 → h.state = 1 → h.target.toNat ≤ h.count.toNat → h.releasedAt ≠ some cc →
    (h.mode = 0 → h.release cc = ({ h with count := h.count - h.target, phase := h.phase + 1, releasedAt := some cc }, true)) ∧
    (h.mode = 1 → h.release cc = (h, false)) ∧
    (h.mode = 2 → h.release cc = ({ h with count := h.count - h.target, state := 2, releasedAt := some cc }, true))) ∧
  (∀ (h : Huddle) (cc : Nat), (h.state ≠ 1 ∨ h.count.toNat < h.target.toNat ∨ h.target = 0 ∨
    (h.mode = 0 ∧ h.releasedAt = some cc)) → h.release cc = (h, false)) ∧
  (∀ (h : Huddle) (seen : BitVec 8) (cc : Nat), h.passAt ≤ cc → h.mode.toNat < 3 → h.state.toNat < 3 →
    (hudPasses h seen cc = true ↔ h.state ≠ 0 ∧ (h.target = 0 ∨ (h.mode = 0 ∧ h.phase ≠ seen) ∨
      (h.mode = 1 ∧ h.state = 1 ∧ h.target.toNat ≤ h.count.toNat) ∨ (h.mode = 2 ∧ h.state = 2)))) ∧
  (∀ (k : Core) (sl h cc : Nat), sl < 4 → h < 32 →
    let u := k.huddle h
    let k' := k.hudPass sl h cc
    (u.target = 0 → k' = k) ∧
    (u.target ≠ 0 → u.mode = 0 → (k'.slot sl).arch.seen = vset (k.slot sl).arch.seen h (vget (k.slot sl).arch.seen h + 1) ∧
      k'.huddles = k.huddles) ∧
    (u.target ≠ 0 → u.mode = 1 → (k'.huddle h).count = u.count - u.target ∧ (k'.huddle h).target = u.target ∧
      (k'.huddle h).phase = u.phase ∧ (k'.huddle h).state = u.state ∧ k'.slots = k.slots) ∧
    (u.target ≠ 0 → u.mode = 2 → k' = k)) ∧
  (∀ (k : Core) (h amount cc : Nat) (own : Bool), h < 32 → (k.huddle h).target = 0 → (k.huddle h).state ≠ 0 →
    (∀ y, (k.huddle h).cyc = some y → y.at_ ≠ cc) →
    let k' := k.signal h amount cc own
    (k'.huddle h).count.toNat = min ((k.huddle h).count.toNat + amount) 0xFFFFFF ∧ (k'.huddle h).target = 0 ∧
    (k'.huddle h).state = (k.huddle h).state ∧ k'.slots = k.slots ∧
    (∀ seen, (k.huddle h).passAt ≤ cc → hudPasses (k'.huddle h) seen cc = true))

/-- Which messages are true conditions (R248). -/
def Obligations.ConditionMessages : Prop :=
  (∀ x : QMsg, isTrue x = true ↔ ∃ ch rest, x.chunks = ch :: rest ∧ ch.toNat % 2 = 1) ∧
  (∀ x : QMsg, x.chunks = [] → isTrue x = false) ∧
  (∀ x : QMsg, isTrue { x with chunks := [1] } = true ∧ isTrue { x with chunks := [0] } = false)

/-- Coordinates, core indices and fields (R18, R19): the device is a grid of 384 by 336 cores, an index names one core, and a
core's field is the block of 48 by 48 cores it lies in. -/
def Obligations.CoordinatesNameCoresAndFields : Prop :=
  (∀ x y, x < 384 → y < 336 → coreAt x y = y * 384 + x ∧ coreAt x y ≤ 129023 ∧ coreX (coreAt x y) = x ∧
    coreY (coreAt x y) = y ∧ fieldOf (coreAt x y) = (y / 48) * 8 + x / 48 ∧ fieldOf (coreAt x y) ≤ 55) ∧
  (∀ c : CoreIx, coreAt (coreX c) (coreY c) = c.val ∧ coreX c < 384 ∧ coreY c < 336) ∧
  (∀ f lx ly, f < 56 → lx < 48 → ly < 48 →
    let c := coreAt (f % 8 * 48 + lx) (f / 8 * 48 + ly)
    c < nCores ∧ fieldOf c = f ∧ coreX c % 48 = lx ∧ coreY c % 48 = ly) ∧
  (∀ space c off, c < nCores → off < 2 ^ 27 → waCore (waOf space c off) = c) ∧
  (∀ (f : Nat) (c : Nat), f < 56 → (c ∈ fieldCores f ↔ c < nCores ∧ fieldOf c = f)) ∧
  (∀ f, f < 56 → (fieldCores f).length = 2304)

/-- The cores of a module as it is shipped (R7): exactly 122,880 are enabled, at most 4,608 are fenced, at least 1,536 are on the
bench, and none is anything else, whichever cores the manufacture found defective. -/
def Obligations.FactoryCounts : Prop :=
  State.reset.m.countState allCores 0 = 122880 ∧ State.reset.m.countState allCores 2 ≤ 4608 ∧
  1536 ≤ State.reset.m.countState allCores 1 ∧ State.reset.m.countState allCores 3 = 0 ∧ allCores.length = 129024
end

