-- ==== Sys2Proof/Laws/Maps.lean ====
section
/-! SUPPORT. What the maps and sparse memories read after each operation, and that every memory operation keeps the
canonical form. -/

namespace Sys2Proof.Machine

open Sys2Proof

/-! ## The list of the cores -/

theorem mem_allCores (c : Nat) : c ∈ allCores ↔ c < nCores := by
  unfold allCores
  exact List.mem_range

/-- A list of candidates that is not empty has a best. -/
theorem pickBest_isSome (better : Nat → Nat → Nat) (c : Nat) : ∀ l : List Nat, c ∈ l → (pickBest better l).isSome = true
  | [], h => absurd h List.not_mem_nil
  | _ :: _, _ => rfl

/-- Some core is picked among all that a test admits, if one is. -/
theorem pickBest_cores (better : Nat → Nat → Nat) (p : Nat → Bool) (c : Nat) (hc : c < nCores) (h : p c = true) :
    (pickBest better (allCores.filter p)).isSome = true :=
  pickBest_isSome better c _ (List.mem_filter.mpr ⟨(mem_allCores c).mpr hc, h⟩)

/-! ## Maps -/

@[simp] theorem aget_nil {β : Type} (k : Nat) : aget ([] : AMap β) k = none := rfl

theorem aget_cons {β : Type} (k' : Nat) (v : β) (r : AMap β) (k : Nat) :
    aget ((k', v) :: r) k = if k' = k then some v else aget r k := rfl

@[simp] theorem aget_aset_self {β : Type} (m : AMap β) (k : Nat) (v : β) : aget (aset m k v) k = some v := by
  induction m with
  | nil => simp [aset, aget]
  | cons e r ih =>
    obtain ⟨k', w⟩ := e
    simp only [aset]
    split
    · simp [aget]
    · split
      · simp [aget]
      · rename_i h
        simp [aget, Ne.symm h, ih]

theorem aget_aset_ne {β : Type} (m : AMap β) (v : β) {k j : Nat} (h : j ≠ k) : aget (aset m k v) j = aget m j := by
  induction m with
  | nil => simp [aset, aget, Ne.symm h]
  | cons e r ih =>
    obtain ⟨k', w⟩ := e
    simp only [aset]
    split
    · simp [aget, Ne.symm h]
    · split
      · rename_i h2
        simp [aget, Ne.symm h, ← h2]
      · simp [aget, ih]

@[simp] theorem aget_adel_self {β : Type} (m : AMap β) (k : Nat) : aget (adel m k) k = none := by
  induction m with
  | nil => rfl
  | cons e r ih =>
    obtain ⟨k', w⟩ := e
    by_cases h : k' = k
    · subst h
      simpa [adel] using ih
    · have h2 : (k' != k) = true := by simpa using h
      simp only [adel, List.filter_cons, h2, if_true, aget, h, if_false] at ih ⊢
      exact ih

theorem aget_adel_ne {β : Type} (m : AMap β) {k j : Nat} (h : j ≠ k) : aget (adel m k) j = aget m j := by
  induction m with
  | nil => rfl
  | cons e r ih =>
    obtain ⟨k', w⟩ := e
    by_cases h1 : k' = k
    · subst h1
      have h2 : (k' != k') = false := by simp
      simp only [adel, List.filter_cons, h2, aget, Ne.symm h, if_false] at ih ⊢
      exact ih
    · have h2 : (k' != k) = true := by simpa using h1
      simp only [adel, List.filter_cons, h2, if_true, aget] at ih ⊢
      by_cases h3 : k' = j
      · simp [h3]
      · simp only [h3, if_false]
        exact ih

theorem aget_map_snd {β γ : Type} (m : AMap β) (f : β → γ) (k : Nat) :
    aget (m.map fun e => (e.1, f e.2)) k = (aget m k).map f := by
  induction m with
  | nil => rfl
  | cons e r ih =>
    obtain ⟨k', w⟩ := e
    simp only [List.map_cons, aget]
    split
    · rfl
    · exact ih

@[simp] theorem aget_amap {β γ : Type} (m : AMap β) (f : Nat → β → γ) (k : Nat) :
    aget (amap m f) k = (aget m k).map (f k) := by
  induction m with
  | nil => rfl
  | cons e r ih =>
    obtain ⟨k', w⟩ := e
    simp only [amap, List.map_cons, aget] at ih ⊢
    split
    · rename_i h
      simp [h]
    · exact ih

/-! ## One byte of memory -/

@[simp] theorem memByte_nil (a : Nat) : memByte [] a = 0 := rfl

@[simp] theorem memByte_memPut_self (m : Mem) (a : Nat) (b : Byte) : memByte (memPut m a b) a = b := by
  unfold memPut memByte
  split
  · rename_i h
    simp [h]
  · simp

theorem memByte_memPut_ne (m : Mem) (b : Byte) {a x : Nat} (h : x ≠ a) : memByte (memPut m a b) x = memByte m x := by
  unfold memPut memByte
  split
  · rw [aget_adel_ne m h]
  · rw [aget_aset_ne m b h]

/-- A write leaves every byte below its range. -/
theorem memByte_memWrite_below (m : Mem) (a : Nat) (bs : Bytes) {x : Nat} (h : x < a) :
    memByte (memWrite m a bs) x = memByte m x := by
  induction bs generalizing m a with
  | nil => rfl
  | cons b r ih =>
    rw [memWrite, ih _ _ (by omega), memByte_memPut_ne _ _ (by omega)]

/-- A write leaves every byte above its range. -/
theorem memByte_memWrite_above (m : Mem) (a : Nat) (bs : Bytes) {x : Nat} (h : a + bs.length ≤ x) :
    memByte (memWrite m a bs) x = memByte m x := by
  induction bs generalizing m a with
  | nil => rfl
  | cons b r ih =>
    simp only [List.length_cons] at h
    rw [memWrite, ih _ _ (by omega), memByte_memPut_ne _ _ (by omega)]

/-- A read gives what was written: byte i of the written bytes stands at the address plus i. -/
theorem memByte_memWrite_in (m : Mem) (a : Nat) (bs : Bytes) (i : Nat) (h : i < bs.length) :
    memByte (memWrite m a bs) (a + i) = bs[i] := by
  induction bs generalizing m a i with
  | nil => simp at h
  | cons b r ih =>
    rw [memWrite]
    cases i with
    | zero => simpa using memByte_memWrite_below (memPut m a b) (a + 1) r (Nat.lt_succ_self a)
    | succ i =>
      have := ih (memPut m a b) (a + 1) i (by simpa using h)
      simpa [Nat.add_assoc, Nat.add_comm 1 i] using this

theorem memByte_memCanon (m : Mem) (a : Nat) : memByte (memCanon m) a = memByte m a := by
  induction m with
  | nil => rfl
  | cons e r ih =>
    obtain ⟨k, v⟩ := e
    have hc : memCanon ((k, v) :: r) = memPut (memCanon r) k v := rfl
    rw [hc]
    by_cases h : a = k
    · subst h
      rw [memByte_memPut_self]
      simp [memByte, aget]
    · rw [memByte_memPut_ne _ _ h, ih]
      simp [memByte, aget, Ne.symm h]

/-! ## The canonical form -/

theorem memSorted_mono {l l' : Nat} (h : l' ≤ l) (m : Mem) (hm : memSorted (some l) m = true) : memSorted (some l') m = true := by
  cases m with
  | nil => rfl
  | cons e r =>
    obtain ⟨a, b⟩ := e
    simp only [memSorted, Bool.and_eq_true, decide_eq_true_eq] at hm ⊢
    exact ⟨⟨by omega, hm.1.2⟩, hm.2⟩

theorem memSorted_none (l : Nat) (m : Mem) (hm : memSorted (some l) m = true) : memSorted none m = true := by
  cases m with
  | nil => rfl
  | cons e r =>
    obtain ⟨a, b⟩ := e
    simp only [memSorted, Bool.and_eq_true, decide_eq_true_eq] at hm ⊢
    exact ⟨⟨trivial, hm.1.2⟩, hm.2⟩

/-- Whether an address lies above a bound. -/
def aboveBound (lo : Option Nat) (a : Nat) : Prop := ∀ l, lo = some l → l < a

theorem memSorted_cons (lo : Option Nat) (a : Nat) (b : Byte) (r : Mem) :
    memSorted lo ((a, b) :: r) = true ↔ aboveBound lo a ∧ b ≠ 0 ∧ memSorted (some a) r = true := by
  cases lo <;> simp [memSorted, aboveBound, and_assoc]

theorem memSorted_filter (lo : Option Nat) (m : Mem) (p : Host.Cell → Bool) (hm : memSorted lo m = true) :
    memSorted lo (m.filter p) = true := by
  induction m generalizing lo with
  | nil => rfl
  | cons e r ih =>
    obtain ⟨a, b⟩ := e
    rw [memSorted_cons] at hm
    obtain ⟨h1, h2, h3⟩ := hm
    rw [List.filter_cons]
    split
    · exact (memSorted_cons lo a b _).mpr ⟨h1, h2, ih _ h3⟩
    · have h4 := ih (some a) h3
      cases lo with
      | none => exact memSorted_none a _ h4
      | some l => exact memSorted_mono (Nat.le_of_lt (h1 l rfl)) _ h4

theorem memSorted_aset (lo : Option Nat) (m : Mem) (k : Nat) (v : Byte) (hk : aboveBound lo k) (hv : v ≠ 0)
    (hm : memSorted lo m = true) : memSorted lo (aset m k v) = true := by
  induction m generalizing lo with
  | nil => exact (memSorted_cons lo k v []).mpr ⟨hk, hv, rfl⟩
  | cons e r ih =>
    obtain ⟨a, b⟩ := e
    obtain ⟨h1, h2, h3⟩ := (memSorted_cons lo a b r).mp hm
    simp only [aset]
    split
    · rename_i h
      exact (memSorted_cons lo k v _).mpr
        ⟨hk, hv, (memSorted_cons (some k) a b r).mpr ⟨fun l hl => by cases hl; exact h, h2, h3⟩⟩
    · split
      · rename_i h
        subst h
        exact (memSorted_cons lo k v r).mpr ⟨hk, hv, h3⟩
      · refine (memSorted_cons lo a b _).mpr ⟨h1, h2, ih (some a) (fun l hl => ?_) h3⟩
        cases hl
        omega

/-- Writing a byte keeps the canonical form. -/
theorem memPut_wf (m : Mem) (a : Nat) (b : Byte) (hm : Memory.wf m = true) : Memory.wf (memPut m a b) = true := by
  unfold memPut
  split
  · exact memSorted_filter none m _ hm
  · rename_i h
    exact memSorted_aset none m a b (fun l hl => by cases hl) h hm

/-- Writing bytes keeps the canonical form. -/
theorem memWrite_wf (m : Mem) (a : Nat) (bs : Bytes) (hm : Memory.wf m = true) : Memory.wf (memWrite m a bs) = true := by
  induction bs generalizing m a with
  | nil => exact hm
  | cons b r ih => exact ih _ _ (memPut_wf m a b hm)

/-- Clearing a range keeps the canonical form. -/
theorem memClear_wf (m : Mem) (lo n : Nat) (hm : Memory.wf m = true) : Memory.wf (memClear m lo n) = true :=
  memSorted_filter none m _ hm

/-- Every memory put into canonical form is canonical. -/
theorem memCanon_wf (m : Mem) : Memory.wf (memCanon m) = true := by
  induction m with
  | nil => rfl
  | cons e r ih => exact memPut_wf _ _ _ ih

theorem aset_below (k : Nat) (v : Byte) (r : Mem) (h : memSorted (some k) r = true) : aset r k v = (k, v) :: r := by
  cases r with
  | nil => rfl
  | cons e r =>
    obtain ⟨a, b⟩ := e
    have := ((memSorted_cons (some k) a b r).mp h).1 k rfl
    simp [aset, this]

/-- A canonical memory is left as it is. -/
theorem memCanon_of_wf (m : Mem) (hm : Memory.wf m = true) : memCanon m = m := by
  have key : ∀ (lo : Option Nat) (m : Mem), memSorted lo m = true → memCanon m = m := by
    intro lo m
    induction m generalizing lo with
    | nil => intro _; rfl
    | cons e r ih =>
      obtain ⟨a, b⟩ := e
      intro h
      obtain ⟨_, h2, h3⟩ := (memSorted_cons lo a b r).mp h
      have hc : memCanon ((a, b) :: r) = memPut (memCanon r) a b := rfl
      rw [hc, ih _ h3]
      rw [memPut, if_neg h2, aset_below a b r h3]
  exact key none m hm

end Sys2Proof.Machine
end

