-- ==== Sys2Proof/Laws/State.lean ====
section
/-! SUPPORT. What each field of the state reads after each named update, so that no proof unfolds a record update; and what
putting the memories into canonical form leaves as it is. -/

namespace Sys2Proof.Machine

open Sys2Proof

/-! ## Vectors -/

@[simp] theorem vget_vset_self {α : Type} [Inhabited α] {n : Nat} (v : Vector α n) (i : Nat) (x : α) (h : i < n) :
    vget (vset v i x) i = x := by
  simp [vget, vset, h]

theorem vget_vset_ne {α : Type} [Inhabited α] {n : Nat} (v : Vector α n) (x : α) {i j : Nat} (h : j ≠ i) :
    vget (vset v i x) j = vget v j := by
  simp [vget, vset, Ne.symm h]

/-! ## Cores and slots -/

@[simp] theorem Mach.core_setCore_self (m : Mach) (c : Nat) (k : Core) : (m.setCore c k).core c = k := by
  simp [Mach.core, Mach.setCore]

theorem Mach.core_setCore_ne (m : Mach) (k : Core) {c d : Nat} (h : d ≠ c) : (m.setCore c k).core d = m.core d := by
  simp [Mach.core, Mach.setCore, aget_aset_ne _ _ h]

@[simp] theorem Mach.core_onCore_self (m : Mach) (c : Nat) (f : Core → Core) : (m.onCore c f).core c = f (m.core c) := by
  simp [Mach.onCore]

theorem Mach.core_onCore_ne (m : Mach) (f : Core → Core) {c d : Nat} (h : d ≠ c) : (m.onCore c f).core d = m.core d := by
  simp [Mach.onCore, Mach.core_setCore_ne m _ h]

@[simp] theorem Mach.onCore_clk (m : Mach) (c : Nat) (f : Core → Core) : (m.onCore c f).clk = m.clk := rfl
@[simp] theorem Mach.onCore_wafer (m : Mach) (c : Nat) (f : Core → Core) : (m.onCore c f).wafer = m.wafer := rfl
@[simp] theorem Mach.onCore_ctxs (m : Mach) (c : Nat) (f : Core → Core) : (m.onCore c f).ctxs = m.ctxs := rfl
@[simp] theorem Mach.onCore_buckets (m : Mach) (c : Nat) (f : Core → Core) : (m.onCore c f).buckets = m.buckets := rfl
@[simp] theorem Mach.onCore_host (m : Mach) (c : Nat) (f : Core → Core) : (m.onCore c f).host = m.host := rfl
@[simp] theorem Mach.onCore_fabric (m : Mach) (c : Nat) (f : Core → Core) : (m.onCore c f).fabric = m.fabric := rfl
@[simp] theorem Mach.onCore_power (m : Mach) (c : Nat) (f : Core → Core) : (m.onCore c f).power = m.power := rfl
@[simp] theorem Mach.onCore_fields (m : Mach) (c : Nat) (f : Core → Core) : (m.onCore c f).fields = m.fields := rfl
@[simp] theorem Mach.onCore_boot (m : Mach) (c : Nat) (f : Core → Core) : (m.onCore c f).boot = m.boot := rfl
@[simp] theorem Mach.onCore_log (m : Mach) (c : Nat) (f : Core → Core) : (m.onCore c f).log = m.log := rfl
@[simp] theorem Mach.onCore_mismatches (m : Mach) (c : Nat) (f : Core → Core) : (m.onCore c f).mismatches = m.mismatches := rfl
@[simp] theorem Mach.onCore_free (m : Mach) (c : Nat) (f : Core → Core) : (m.onCore c f).free = m.free := rfl

theorem Mach.onSlot_eq (m : Mach) (c s : Nat) (f : Slot → Slot) : m.onSlot c s f = m.onCore c fun k => k.onSlot s f := rfl

@[simp] theorem Core.slot_setSlot_self (k : Core) (s : Nat) (v : Slot) (h : s < 4) : (k.setSlot s v).slot s = v := by
  simp [Core.slot, Core.setSlot, h]

theorem Core.slot_setSlot_ne (k : Core) (v : Slot) {s t : Nat} (h : t ≠ s) : (k.setSlot s v).slot t = k.slot t := by
  simp [Core.slot, Core.setSlot, vget_vset_ne _ _ h]

@[simp] theorem Core.slot_onSlot_self (k : Core) (s : Nat) (f : Slot → Slot) (h : s < 4) : (k.onSlot s f).slot s = f (k.slot s) := by
  simp [Core.onSlot, h]

theorem Core.slot_onSlot_ne (k : Core) (f : Slot → Slot) {s t : Nat} (h : t ≠ s) : (k.onSlot s f).slot t = k.slot t := by
  simp [Core.onSlot, Core.slot_setSlot_ne k _ h]

@[simp] theorem Core.onSlot_sram (k : Core) (s : Nat) (f : Slot → Slot) : (k.onSlot s f).sram = k.sram := rfl
@[simp] theorem Core.onSlot_ub (k : Core) (s : Nat) (f : Slot → Slot) : (k.onSlot s f).ub = k.ub := rfl
@[simp] theorem Core.onSlot_queues (k : Core) (s : Nat) (f : Slot → Slot) : (k.onSlot s f).queues = k.queues := rfl
@[simp] theorem Core.onSlot_huddles (k : Core) (s : Nat) (f : Slot → Slot) : (k.onSlot s f).huddles = k.huddles := rfl
@[simp] theorem Core.onSlot_pwr (k : Core) (s : Nat) (f : Slot → Slot) : (k.onSlot s f).pwr = k.pwr := rfl
@[simp] theorem Core.onSlot_router (k : Core) (s : Nat) (f : Slot → Slot) : (k.onSlot s f).router = k.router := rfl

/-! ## Fields, functions, contexts, engines, ports -/

@[simp] theorem Mach.field_onField_self (m : Mach) (f : Nat) (g : FieldCtl → FieldCtl) (h : f < 56) :
    (m.onField f g).field f = g (m.field f) := by
  simp [Mach.field, Mach.onField, h]

theorem Mach.field_onField_ne (m : Mach) (g : FieldCtl → FieldCtl) {f h : Nat} (hf : h ≠ f) :
    (m.onField f g).field h = m.field h := by
  simp [Mach.field, Mach.onField, vget_vset_ne _ _ hf]

@[simp] theorem Mach.fn_onFn_self (m : Mach) (f : Nat) (g : Fn → Fn) : (m.onFn f g).fn f = g (m.fn f) := by
  simp [Mach.fn, Mach.onFn, Mach.setFn]

theorem Mach.fn_onFn_ne (m : Mach) (g : Fn → Fn) {f h : Nat} (hf : h ≠ f) : (m.onFn f g).fn h = m.fn h := by
  simp [Mach.fn, Mach.onFn, Mach.setFn, aget_aset_ne _ _ hf]

@[simp] theorem Mach.onFn_cores (m : Mach) (f : Nat) (g : Fn → Fn) : (m.onFn f g).cores = m.cores := rfl
@[simp] theorem Mach.onFn_ctxs (m : Mach) (f : Nat) (g : Fn → Fn) : (m.onFn f g).ctxs = m.ctxs := rfl
@[simp] theorem Mach.onFn_clk (m : Mach) (f : Nat) (g : Fn → Fn) : (m.onFn f g).clk = m.clk := rfl
@[simp] theorem Mach.onFn_cmds (m : Mach) (f : Nat) (g : Fn → Fn) : (m.onFn f g).host.cmds = m.host.cmds := rfl
@[simp] theorem Mach.onFn_hostMem (m : Mach) (f : Nat) (g : Fn → Fn) : (m.onFn f g).host.mem = m.host.mem := rfl

@[simp] theorem Mach.ctx_setCtx_self (m : Mach) (cid : Nat) (x : Ctx) : (m.setCtx cid x).ctx cid = some x := by
  simp [Mach.ctx, Mach.setCtx]

theorem Mach.ctx_setCtx_ne (m : Mach) (x : Ctx) {cid d : Nat} (h : d ≠ cid) : (m.setCtx cid x).ctx d = m.ctx d := by
  simp [Mach.ctx, Mach.setCtx, aget_aset_ne _ _ h]

theorem Mach.onCtx_some (m : Mach) (cid : Nat) (f : Ctx → Ctx) (x : Ctx) (h : m.ctx cid = some x) :
    m.onCtx cid f = m.setCtx cid (f x) := by
  simp [Mach.onCtx, h]

theorem Mach.onCtx_none (m : Mach) (cid : Nat) (f : Ctx → Ctx) (h : m.ctx cid = none) : m.onCtx cid f = m := by
  simp [Mach.onCtx, h]

@[simp] theorem Mach.eng_onEng_self (m : Mach) (e : Nat) (g : LightEng → LightEng) (h : e < 56) :
    (m.onEng e g).eng e = g (m.eng e) := by
  simp [Mach.eng, Mach.onEng, h]

theorem Mach.eng_onEng_ne (m : Mach) (g : LightEng → LightEng) {e d : Nat} (h : d ≠ e) : (m.onEng e g).eng d = m.eng d := by
  simp [Mach.eng, Mach.onEng, vget_vset_ne _ _ h]

@[simp] theorem Mach.port_onPort_self (m : Mach) (p : Nat) (g : FPort → FPort) (h : p < 9) :
    (m.onPort p g).port p = g (m.port p) := by
  simp [Mach.port, Mach.onPort, h]

theorem Mach.port_onPort_ne (m : Mach) (g : FPort → FPort) {p q : Nat} (h : q ≠ p) : (m.onPort p g).port q = m.port q := by
  simp [Mach.port, Mach.onPort, vget_vset_ne _ _ h]

@[simp] theorem Core.queue_onQueue_self (k : Core) (q : Nat) (f : Queue → Queue) (h : q < 8) :
    (k.onQueue q f).queue q = f (k.queue q) := by
  simp [Core.queue, Core.onQueue, h]

@[simp] theorem Core.huddle_onHuddle_self (k : Core) (h : Nat) (f : Huddle → Huddle) (hh : h < 32) :
    (k.onHuddle h f).huddle h = f (k.huddle h) := by
  simp [Core.huddle, Core.onHuddle, hh]

theorem Core.huddle_onHuddle_ne (k : Core) (f : Huddle → Huddle) {h i : Nat} (hi : i ≠ h) :
    (k.onHuddle h f).huddle i = k.huddle i := by
  simp [Core.huddle, Core.onHuddle, vget_vset_ne _ _ hi]

/-! ## A command's effect where its event can arise -/

@[simp] theorem Mach.when_true (m : Mach) (f : Mach → Mach) : m.when true f = f m := rfl
@[simp] theorem Mach.when_false (m : Mach) (f : Mach → Mach) : m.when false f = m := rfl

theorem Mach.when_pos (m : Mach) (p : Bool) (f : Mach → Mach) (h : p = true) : m.when p f = f m := by simp [Mach.when, h]
theorem Mach.when_neg (m : Mach) (p : Bool) (f : Mach → Mach) (h : p = false) : m.when p f = m := by simp [Mach.when, h]

/-! ## The canonical form -/

@[simp] theorem Mach.canon_clk (m : Mach) : m.canon.clk = m.clk := rfl
@[simp] theorem Mach.canon_wafer (m : Mach) : m.canon.wafer = m.wafer := rfl
@[simp] theorem Mach.canon_ctxs (m : Mach) : m.canon.ctxs = m.ctxs := rfl
@[simp] theorem Mach.canon_buckets (m : Mach) : m.canon.buckets = m.buckets := rfl
@[simp] theorem Mach.canon_fabric (m : Mach) : m.canon.fabric = m.fabric := rfl
@[simp] theorem Mach.canon_power (m : Mach) : m.canon.power = m.power := rfl
@[simp] theorem Mach.canon_fields (m : Mach) : m.canon.fields = m.fields := rfl
@[simp] theorem Mach.canon_boot (m : Mach) : m.canon.boot = m.boot := rfl
@[simp] theorem Mach.canon_log (m : Mach) : m.canon.log = m.log := rfl
@[simp] theorem Mach.canon_mismatches (m : Mach) : m.canon.mismatches = m.mismatches := rfl
@[simp] theorem Mach.canon_free (m : Mach) : m.canon.free = m.free := rfl
@[simp] theorem Mach.canon_fns (m : Mach) : m.canon.host.fns = m.host.fns := rfl
@[simp] theorem Mach.canon_cmds (m : Mach) : m.canon.host.cmds = m.host.cmds := rfl
@[simp] theorem Core.canon_slots (k : Core) : k.canon.slots = k.slots := rfl
@[simp] theorem Core.canon_queues (k : Core) : k.canon.queues = k.queues := rfl
@[simp] theorem Core.canon_huddles (k : Core) : k.canon.huddles = k.huddles := rfl
@[simp] theorem Core.canon_pwr (k : Core) : k.canon.pwr = k.pwr := rfl
@[simp] theorem Core.canon_router (k : Core) : k.canon.router = k.router := rfl

@[simp] theorem Core.slot_canon (k : Core) (i : Nat) : k.canon.slot i = k.slot i := rfl
@[simp] theorem Core.queue_canon (k : Core) (i : Nat) : k.canon.queue i = k.queue i := rfl
@[simp] theorem Core.huddle_canon (k : Core) (i : Nat) : k.canon.huddle i = k.huddle i := rfl

/-- A core of the canonical module is the canonical core. -/
@[simp] theorem Mach.core_canon (m : Mach) (c : Nat) : m.canon.core c = (m.core c).canon := by
  unfold Mach.core Mach.canon
  rw [aget_map_snd]
  cases aget m.cores c with
  | none => rfl
  | some k => rfl

/-- The canonical form reads as what it was made of. -/
@[simp] theorem Core.canon_sramByte (k : Core) (a : Nat) : memByte k.canon.sram a = memByte k.sram a := memByte_memCanon _ _
@[simp] theorem Core.canon_ubByte (k : Core) (a : Nat) : memByte k.canon.ub a = memByte k.ub a := memByte_memCanon _ _
@[simp] theorem Mach.canon_hostByte (m : Mach) (a : Nat) : memByte m.canon.host.mem a = memByte m.host.mem a :=
  memByte_memCanon _ _

/-- The canonical module has canonical memories. -/
theorem Mach.canon_memWf (m : Mach) : m.canon.memWf = true := by
  simp [Mach.memWf, Mach.canon, Core.memWf, Core.canon, memCanon_wf]

/-- A core with canonical memories is its canonical form. -/
theorem Core.canon_of_memWf (k : Core) (h : k.memWf = true) : k.canon = k := by
  simp only [Core.memWf, Bool.and_eq_true] at h
  simp [Core.canon, memCanon_of_wf _ h.1, memCanon_of_wf _ h.2]

/-- A module with canonical memories is its canonical form. -/
theorem Mach.canon_of_memWf (m : Mach) (h : m.memWf = true) : m.canon = m := by
  simp only [Mach.memWf, Bool.and_eq_true, List.all_eq_true] at h
  have hc : m.cores.map (fun e => (e.1, e.2.canon)) = m.cores := by
    have h2 : m.cores.map (fun e => (e.1, e.2.canon)) = m.cores.map id :=
      List.map_congr_left fun e he => by rw [Core.canon_of_memWf e.2 (h.1 e he)]; rfl
    rw [h2, List.map_id]
  simp [Mach.canon, hc, memCanon_of_wf _ h.2]

/-- Every meaning answers a next state: the module its row makes, in canonical form, with the queue as it is. -/
@[simp] theorem upd_eq (f : Mach → Mach) (s : State) : upd f s = .next { s with m := (f s.m).canon } := rfl

end Sys2Proof.Machine
end

