-- ==== Sys2Proof/Laws/Commands.lean ====
section
/-! SUPPORT. What the shared operations of the host commands can do: a command whose turn it is runs its body once, a result is
put on the command named, and host memory takes the bytes written. -/

namespace Sys2Proof.Machine

open Sys2Proof

@[simp] theorem State.to_pending (s : State) (m : Mach) : (s.to m).pending = s.pending := rfl
@[simp] theorem State.to_m (s : State) (m : Mach) : (s.to m).m = m.canon := rfl

/-- Every meaning answers the state of the module its row makes. -/
theorem upd_to (f : Mach → Mach) (s : State) : upd f s = .next (s.to (f s.m)) := rfl

/-- A command whose turn it is, and which its row picks, runs the row's body. -/
theorem Mach.runCmd_turn (m : Mach) (f tag op : Nat) (pick : Cmd → Bool) (body : Cmd → Mach → Mach) (x : Cmd)
    (h : m.Turn f tag op x) (hp : pick x = true) : m.runCmd f tag op pick body = body x (m.begun x) := by
  unfold Mach.runCmd
  rw [h.found]
  simp [Mach.when, h.fresh, h.turn, hp, Mach.begun]

/-- With no such command, a row changes nothing. -/
theorem Mach.runCmd_none (m : Mach) (f tag op : Nat) (pick : Cmd → Bool) (body : Cmd → Mach → Mach)
    (h : m.cmdFor f tag op = none) : m.runCmd f tag op pick body = m := by
  unfold Mach.runCmd
  rw [h]

/-- A command not picked by its row's variant changes nothing. -/
theorem Mach.runCmd_unpicked (m : Mach) (f tag op : Nat) (pick : Cmd → Bool) (body : Cmd → Mach → Mach) (x : Cmd)
    (h : m.cmdFor f tag op = some x) (hp : pick x = false) : m.runCmd f tag op pick body = m := by
  unfold Mach.runCmd
  rw [h]
  simp [Mach.when, hp]

/-- Beginning a command touches nothing but the list of commands. -/
theorem Mach.begun_eq (m : Mach) (x : Cmd) :
    m.begun x = { m with host := { m.host with cmds := m.host.cmds.map fun y =>
      if y.order == x.order then { y with started := true, since := m.cc } else y } } := rfl

@[simp] theorem Mach.begun_ctx (m : Mach) (x : Cmd) (cid : Nat) : (m.begun x).ctx cid = m.ctx cid := rfl
@[simp] theorem Mach.begun_cores (m : Mach) (x : Cmd) : (m.begun x).cores = m.cores := rfl
@[simp] theorem Mach.begun_core (m : Mach) (x : Cmd) (c : Nat) : (m.begun x).core c = m.core c := rfl
@[simp] theorem Mach.begun_clk (m : Mach) (x : Cmd) : (m.begun x).clk = m.clk := rfl
@[simp] theorem Mach.begun_fabric (m : Mach) (x : Cmd) : (m.begun x).fabric = m.fabric := rfl
@[simp] theorem Mach.begun_fields (m : Mach) (x : Cmd) : (m.begun x).fields = m.fields := rfl
@[simp] theorem Mach.begun_boot (m : Mach) (x : Cmd) : (m.begun x).boot = m.boot := rfl
@[simp] theorem Mach.begun_power (m : Mach) (x : Cmd) : (m.begun x).power = m.power := rfl
@[simp] theorem Mach.begun_ctxs (m : Mach) (x : Cmd) : (m.begun x).ctxs = m.ctxs := rfl
@[simp] theorem Mach.begun_fn (m : Mach) (x : Cmd) (f : Nat) : (m.begun x).fn f = m.fn f := rfl
@[simp] theorem Mach.begun_ringsTaken (m : Mach) (x : Cmd) : (m.begun x).ringsTaken = m.ringsTaken := rfl

/-- A result put on a command touches nothing but the list of commands. -/
theorem Mach.done_eq (m : Mach) (x : Cmd) (st r0 r1 : Nat) :
    m.done x st r0 r1 = { m with host := { m.host with cmds := m.host.cmds.map fun y =>
      if y.order == x.order then { y with started := true, result := some (cplOf x st r0 r1) } else y } } := rfl

@[simp] theorem Mach.done_ctx (m : Mach) (x : Cmd) (st r0 r1 cid : Nat) : (m.done x st r0 r1).ctx cid = m.ctx cid := rfl
@[simp] theorem Mach.done_cores (m : Mach) (x : Cmd) (st r0 r1 : Nat) : (m.done x st r0 r1).cores = m.cores := rfl

/-- A command on an ADMITTED context runs its body. -/
theorem Mach.onAdmitted_admitted (m : Mach) (x : Cmd) (body : Ctx → Mach → Mach) (y : Ctx) (hc : m.ctx x.cid = some y)
    (hs : y.st = .admitted) : m.onAdmitted x body = body y m := by
  simp [Mach.onAdmitted, Mach.ctxStatus, hc, hs]

/-- A command on a context that is neither ADMITTED nor being reset or destroyed gets CTX_STATE, one under reset CTX_BUSY. -/
theorem Mach.onAdmitted_created (m : Mach) (x : Cmd) (body : Ctx → Mach → Mach) (y : Ctx) (hc : m.ctx x.cid = some y)
    (hs : y.st = .created) : m.onAdmitted x body = m.done x 0x0402 := by
  simp [Mach.onAdmitted, Mach.ctxStatus, hc, hs]

/-- A result that fits its buffer is written, or travels by the management port. -/
theorem Mach.doneIfFits_fits (m : Mach) (x : Cmd) (ok : Bool) (b : Bytes) (h : b.length ≤ x.len) :
    m.doneIfFits x ok b = m.doneWith x ok b b.length := by
  simp [Mach.doneIfFits, Nat.not_lt.mpr h]

theorem Mach.doneIfFits_short (m : Mach) (x : Cmd) (ok : Bool) (b : Bytes) (h : x.len < b.length) :
    m.doneIfFits x ok b = m.done x 0x0105 b.length := by
  simp [Mach.doneIfFits, h]

theorem Mach.doneWith_host (m : Mach) (x : Cmd) (b : Bytes) (r0 : Nat) (h : x.fn ≠ mgmtFn) :
    m.doneWith x true b r0 = (m.hostPut x.addr b).done x 0 r0 := by
  simp [Mach.doneWith, h]

theorem Mach.doneWith_abort (m : Mach) (x : Cmd) (b : Bytes) (r0 : Nat) (h : x.fn ≠ mgmtFn) :
    m.doneWith x false b r0 = m.dmaError x := by
  simp [Mach.doneWith, h]

/-- A command that reads its host buffer gets the bytes, cut or filled to LEN. -/
theorem Mach.withData_some (m : Mach) (x : Cmd) (b : Bytes) (body : Bytes → Mach → Mach) (h : x.fn ≠ mgmtFn) :
    m.withData x (some b) body = body (padTo b x.len) m := by
  simp [Mach.withData, cmdData, h]

theorem Mach.withData_none (m : Mach) (x : Cmd) (body : Bytes → Mach → Mach) (h : x.fn ≠ mgmtFn) :
    m.withData x none body = m.dmaError x := by
  simp [Mach.withData, cmdData, h]

end Sys2Proof.Machine
end

