-- ==== Sys2Proof/Laws/Trace.lean ====
section
/-! SUPPORT. What an event at a trace unit touches: the trace units alone, and the counter of free values where its DATA is one. -/

namespace Sys2Proof.Machine

open Sys2Proof

@[simp] theorem Mach.traceEvent_clk (m : Mach) (f src : Nat) (mark : Bool) (data : Bytes) : (m.traceEvent f src mark data).clk = m.clk := by
  unfold Mach.traceEvent
  split <;> rfl
@[simp] theorem Mach.traceEvent_cores (m : Mach) (f src : Nat) (mark : Bool) (data : Bytes) : (m.traceEvent f src mark data).cores = m.cores := by
  unfold Mach.traceEvent
  split <;> rfl
@[simp] theorem Mach.traceEvent_wafer (m : Mach) (f src : Nat) (mark : Bool) (data : Bytes) : (m.traceEvent f src mark data).wafer = m.wafer := by
  unfold Mach.traceEvent
  split <;> rfl
@[simp] theorem Mach.traceEvent_ctxs (m : Mach) (f src : Nat) (mark : Bool) (data : Bytes) : (m.traceEvent f src mark data).ctxs = m.ctxs := by
  unfold Mach.traceEvent
  split <;> rfl
@[simp] theorem Mach.traceEvent_buckets (m : Mach) (f src : Nat) (mark : Bool) (data : Bytes) : (m.traceEvent f src mark data).buckets = m.buckets := by
  unfold Mach.traceEvent
  split <;> rfl
@[simp] theorem Mach.traceEvent_host (m : Mach) (f src : Nat) (mark : Bool) (data : Bytes) : (m.traceEvent f src mark data).host = m.host := by
  unfold Mach.traceEvent
  split <;> rfl
@[simp] theorem Mach.traceEvent_fabric (m : Mach) (f src : Nat) (mark : Bool) (data : Bytes) : (m.traceEvent f src mark data).fabric = m.fabric := by
  unfold Mach.traceEvent
  split <;> rfl
@[simp] theorem Mach.traceEvent_power (m : Mach) (f src : Nat) (mark : Bool) (data : Bytes) : (m.traceEvent f src mark data).power = m.power := by
  unfold Mach.traceEvent
  split <;> rfl
@[simp] theorem Mach.traceEvent_boot (m : Mach) (f src : Nat) (mark : Bool) (data : Bytes) : (m.traceEvent f src mark data).boot = m.boot := by
  unfold Mach.traceEvent
  split <;> rfl
@[simp] theorem Mach.traceEvent_log (m : Mach) (f src : Nat) (mark : Bool) (data : Bytes) : (m.traceEvent f src mark data).log = m.log := by
  unfold Mach.traceEvent
  split <;> rfl
@[simp] theorem Mach.traceEvent_mismatches (m : Mach) (f src : Nat) (mark : Bool) (data : Bytes) : (m.traceEvent f src mark data).mismatches = m.mismatches := by
  unfold Mach.traceEvent
  split <;> rfl
@[simp] theorem Mach.traceEvent_free (m : Mach) (f src : Nat) (mark : Bool) (data : Bytes) : (m.traceEvent f src mark data).free = m.free := by
  unfold Mach.traceEvent
  split <;> rfl
@[simp] theorem Mach.traceEvent_core (m : Mach) (f src : Nat) (mark : Bool) (data : Bytes) (d : Nat) : (m.traceEvent f src mark data).core d = m.core d := by
  simp [Mach.core]

@[simp] theorem Mach.traceFree_clk (m : Mach) (f src : Nat) : (m.traceFree f src).clk = m.clk := by
  unfold Mach.traceFree
  split
  · simp [Mach.draw]
  · rfl
@[simp] theorem Mach.traceFree_cores (m : Mach) (f src : Nat) : (m.traceFree f src).cores = m.cores := by
  unfold Mach.traceFree
  split
  · simp [Mach.draw]
  · rfl
@[simp] theorem Mach.traceFree_wafer (m : Mach) (f src : Nat) : (m.traceFree f src).wafer = m.wafer := by
  unfold Mach.traceFree
  split
  · simp [Mach.draw]
  · rfl
@[simp] theorem Mach.traceFree_ctxs (m : Mach) (f src : Nat) : (m.traceFree f src).ctxs = m.ctxs := by
  unfold Mach.traceFree
  split
  · simp [Mach.draw]
  · rfl
@[simp] theorem Mach.traceFree_buckets (m : Mach) (f src : Nat) : (m.traceFree f src).buckets = m.buckets := by
  unfold Mach.traceFree
  split
  · simp [Mach.draw]
  · rfl
@[simp] theorem Mach.traceFree_host (m : Mach) (f src : Nat) : (m.traceFree f src).host = m.host := by
  unfold Mach.traceFree
  split
  · simp [Mach.draw]
  · rfl
@[simp] theorem Mach.traceFree_fabric (m : Mach) (f src : Nat) : (m.traceFree f src).fabric = m.fabric := by
  unfold Mach.traceFree
  split
  · simp [Mach.draw]
  · rfl
@[simp] theorem Mach.traceFree_power (m : Mach) (f src : Nat) : (m.traceFree f src).power = m.power := by
  unfold Mach.traceFree
  split
  · simp [Mach.draw]
  · rfl
@[simp] theorem Mach.traceFree_boot (m : Mach) (f src : Nat) : (m.traceFree f src).boot = m.boot := by
  unfold Mach.traceFree
  split
  · simp [Mach.draw]
  · rfl
@[simp] theorem Mach.traceFree_log (m : Mach) (f src : Nat) : (m.traceFree f src).log = m.log := by
  unfold Mach.traceFree
  split
  · simp [Mach.draw]
  · rfl
@[simp] theorem Mach.traceFree_mismatches (m : Mach) (f src : Nat) : (m.traceFree f src).mismatches = m.mismatches := by
  unfold Mach.traceFree
  split
  · simp [Mach.draw]
  · rfl
@[simp] theorem Mach.traceFree_core (m : Mach) (f src : Nat) (d : Nat) : (m.traceFree f src).core d = m.core d := by
  simp [Mach.core]

@[simp] theorem Mach.fcEvent_clk (m : Mach) (f kind : Nat) : (m.fcEvent f kind).clk = m.clk := by
  unfold Mach.fcEvent
  split
  · simp
  · rfl
@[simp] theorem Mach.fcEvent_cores (m : Mach) (f kind : Nat) : (m.fcEvent f kind).cores = m.cores := by
  unfold Mach.fcEvent
  split
  · simp
  · rfl
@[simp] theorem Mach.fcEvent_wafer (m : Mach) (f kind : Nat) : (m.fcEvent f kind).wafer = m.wafer := by
  unfold Mach.fcEvent
  split
  · simp
  · rfl
@[simp] theorem Mach.fcEvent_ctxs (m : Mach) (f kind : Nat) : (m.fcEvent f kind).ctxs = m.ctxs := by
  unfold Mach.fcEvent
  split
  · simp
  · rfl
@[simp] theorem Mach.fcEvent_buckets (m : Mach) (f kind : Nat) : (m.fcEvent f kind).buckets = m.buckets := by
  unfold Mach.fcEvent
  split
  · simp
  · rfl
@[simp] theorem Mach.fcEvent_host (m : Mach) (f kind : Nat) : (m.fcEvent f kind).host = m.host := by
  unfold Mach.fcEvent
  split
  · simp
  · rfl
@[simp] theorem Mach.fcEvent_fabric (m : Mach) (f kind : Nat) : (m.fcEvent f kind).fabric = m.fabric := by
  unfold Mach.fcEvent
  split
  · simp
  · rfl
@[simp] theorem Mach.fcEvent_power (m : Mach) (f kind : Nat) : (m.fcEvent f kind).power = m.power := by
  unfold Mach.fcEvent
  split
  · simp
  · rfl
@[simp] theorem Mach.fcEvent_boot (m : Mach) (f kind : Nat) : (m.fcEvent f kind).boot = m.boot := by
  unfold Mach.fcEvent
  split
  · simp
  · rfl
@[simp] theorem Mach.fcEvent_log (m : Mach) (f kind : Nat) : (m.fcEvent f kind).log = m.log := by
  unfold Mach.fcEvent
  split
  · simp
  · rfl
@[simp] theorem Mach.fcEvent_mismatches (m : Mach) (f kind : Nat) : (m.fcEvent f kind).mismatches = m.mismatches := by
  unfold Mach.fcEvent
  split
  · simp
  · rfl
@[simp] theorem Mach.fcEvent_core (m : Mach) (f kind : Nat) (d : Nat) : (m.fcEvent f kind).core d = m.core d := by
  simp [Mach.core]

/-- The trace unit of a flit's field takes its header, or nothing happens (R437). -/
theorem Mach.traceFlit_cases (m : Mach) (c o : Nat) (f : Flit) :
    m.traceFlit c o f = m ∨ ∃ d, m.traceFlit c o f = m.traceEvent (fieldOf c) 0 false d := by
  unfold Mach.traceFlit
  extract_lets w g
  by_cases h : ((fld w 1 6, fld w 7 6) = fieldPlace c && fld w 13 3 = o && bitOf w (16 + g.chan)) = true
  · exact .inr ⟨_, if_pos h⟩
  · exact .inl (if_neg h)

@[simp] theorem Mach.traceFlit_clk (m : Mach) (c o : Nat) (f : Flit) : (m.traceFlit c o f).clk = m.clk := by
  obtain h | ⟨d, h⟩ := m.traceFlit_cases c o f <;> simp [h]
@[simp] theorem Mach.traceFlit_cores (m : Mach) (c o : Nat) (f : Flit) : (m.traceFlit c o f).cores = m.cores := by
  obtain h | ⟨d, h⟩ := m.traceFlit_cases c o f <;> simp [h]
@[simp] theorem Mach.traceFlit_wafer (m : Mach) (c o : Nat) (f : Flit) : (m.traceFlit c o f).wafer = m.wafer := by
  obtain h | ⟨d, h⟩ := m.traceFlit_cases c o f <;> simp [h]
@[simp] theorem Mach.traceFlit_ctxs (m : Mach) (c o : Nat) (f : Flit) : (m.traceFlit c o f).ctxs = m.ctxs := by
  obtain h | ⟨d, h⟩ := m.traceFlit_cases c o f <;> simp [h]
@[simp] theorem Mach.traceFlit_buckets (m : Mach) (c o : Nat) (f : Flit) : (m.traceFlit c o f).buckets = m.buckets := by
  obtain h | ⟨d, h⟩ := m.traceFlit_cases c o f <;> simp [h]
@[simp] theorem Mach.traceFlit_host (m : Mach) (c o : Nat) (f : Flit) : (m.traceFlit c o f).host = m.host := by
  obtain h | ⟨d, h⟩ := m.traceFlit_cases c o f <;> simp [h]
@[simp] theorem Mach.traceFlit_fabric (m : Mach) (c o : Nat) (f : Flit) : (m.traceFlit c o f).fabric = m.fabric := by
  obtain h | ⟨d, h⟩ := m.traceFlit_cases c o f <;> simp [h]
@[simp] theorem Mach.traceFlit_power (m : Mach) (c o : Nat) (f : Flit) : (m.traceFlit c o f).power = m.power := by
  obtain h | ⟨d, h⟩ := m.traceFlit_cases c o f <;> simp [h]
@[simp] theorem Mach.traceFlit_boot (m : Mach) (c o : Nat) (f : Flit) : (m.traceFlit c o f).boot = m.boot := by
  obtain h | ⟨d, h⟩ := m.traceFlit_cases c o f <;> simp [h]
@[simp] theorem Mach.traceFlit_log (m : Mach) (c o : Nat) (f : Flit) : (m.traceFlit c o f).log = m.log := by
  obtain h | ⟨d, h⟩ := m.traceFlit_cases c o f <;> simp [h]
@[simp] theorem Mach.traceFlit_mismatches (m : Mach) (c o : Nat) (f : Flit) : (m.traceFlit c o f).mismatches = m.mismatches := by
  obtain h | ⟨d, h⟩ := m.traceFlit_cases c o f <;> simp [h]
@[simp] theorem Mach.traceFlit_free (m : Mach) (c o : Nat) (f : Flit) : (m.traceFlit c o f).free = m.free := by
  obtain h | ⟨d, h⟩ := m.traceFlit_cases c o f <;> simp [h]
@[simp] theorem Mach.traceFlit_core (m : Mach) (c o : Nat) (f : Flit) (d : Nat) : (m.traceFlit c o f).core d = m.core d := by
  simp [Mach.core]

/-- An event whose source is not enabled is lost (R437). -/
theorem Mach.traceEvent_off (m : Mach) (f src : Nat) (mark : Bool) (data : Bytes) (h : bitOf (m.traceWord f src) 0 = false) :
    m.traceEvent f src mark data = m := by
  simp [Mach.traceEvent, h]

end Sys2Proof.Machine
end

