-- ==== Sys2Proof/WellFormed.lean ====
section
/-! DEFINITION. Which commands are well formed: operands whose types allow more than the bus, link or protocol of the row
can carry are checked here (R285, R288, R289, R291, R310, R332, R438, R456). -/

namespace Sys2Proof

/-- The bytes of optional data are in range. -/
def dataOk (d : Option Bytes) (n : Nat) : Bool :=
  match d with
  | some b => b.length ≤ n
  | none => true

/-- Whether the operands of a command are such as its row can carry. A meaning is total and does not rest on it. -/
def Instr.wf : Instr → Bool
  | .scrubCodeword _ _ (.corrected _ err) => err != 0
  | .dbCmdTailWrite _ _ _ entries => (match entries with
      | some l => l.all fun e => e.length == 64
      | none => true)
  | .linkRetrainDone _ _ width => width != 0
  | .ctxConfigure _ _ d => dataOk d (2 ^ 32 - 1)
  | .loadHostToMemory _ _ d => dataOk d (2 ^ 32 - 1)
  | .loadFlowRegion _ _ d => dataOk d (2 ^ 32 - 1)
  | .loadMessage _ _ d => dataOk d 256
  | .logWrite _ _ _ _ _ data => data.length ≤ 256
  | .fabricMessageReceive _ frame => frame.length == 128
  | .frameTransit _ frame => frame.length == 128
  | .credit _ p => p.length == 20
  | .fabricLet _ p => p.length == 4
  | .frameError _ cause _ => cause != 0
  | .foul _ code frame => code != 0 && frame.length == 128
  | .foulFrameReceive _ p => p.length == 24
  | .ident _ p => p.length == 28
  | .traceSample _ _ _ data => data.length ≤ 20
  | .mgmtDatagram _ entry _ _ => entry.length == 64
  | .thermalLimit _ _ flow _ _ => flow < 2 ^ 16
  | _ => true

end Sys2Proof
end

