-- ==== Sys2Proof/Tests/Slice0.lean ====
section
/-! SUPPORT. The model's own tests: small states that meet the hypotheses of every statement, terms that are not well formed,
and the numbers that the spec's own text gives. -/

namespace Sys2Proof.Tests

open Sys2Proof Sys2Proof.Machine

set_option Elab.async false
set_option linter.unusedVariables false

/-! ## Small states -/

/-- The power state of a core that is up. -/
def up : Pwr := { logic := .on, banks := .replicate 6 .on, bankctl := .on, iso := 0 }

/-- A field that is up. -/
def onField : FieldCtl := { ring := .on, light := .on, tiers := .replicate 2 .on }

/-- The cores 0, 1, 2 and 384 enabled, core 383 a bench core, core 385 fenced. -/
def plan : Wafer :=
  { fp := [(0, { alt := 0 }), (1, { alt := 1 }), (2, { alt := 2 }), (383, { state := 1, alt := 383 }), (384, { alt := 384 }),
           (385, { state := 2, alt := 385, reason := 1 }), (386, { alt := 386, routerOk := false })] }

/-- A module that is READY, in cycle 100,000. -/
def mach : Mach :=
  { clk := { cc := 100000, tclk := 8333, locked := true }, wafer := plan, fields := .replicate 56 onField,
    boot := { stage := 9, ready := true, life := .field, since := 0, ac := false },
    host := { portUp := .replicate 2 true, host0 := .on, host1 := .on, mgmt := .on, mgmtUp := true } }

/-- A state of a module with no command waiting. -/
def stm (m : Mach) : State := { pending := [], m := m }

/-- The module with core 0. -/
def mk (k : Core) : Mach := { mach with cores := [(0, k)] }

/-- The state with core 0. -/
def st (k : Core) : State := stm (mk k)

/-- A core that is up. -/
def core0 : Core := { pwr := up }

/-- A core with its slot 0. -/
def slotC (v : Slot) : Core := { core0 with slots := vset (.replicate 4 {}) 0 v }

/-- A RUNNING slot's control registers, its scratchpad window the first 4,096 bytes. -/
def ctl0 : SlotCtl := { st := .running, cid := 5, weight := 4, win := vset (.replicate 8 0) 4 0x1000 }

/-- A PARKED slot that TIMER wakes, TIMER pending. -/
def parked : Slot := { ctl := { ctl0 with st := .parked, wakeEn := 4, pendTimer := true } }

/-- A context on slot 0 of core 0. -/
def ctx0 : Ctx := { st := .admitted, slots := [{ core := 0, slot := 0, weight := 4, qmask := 3 }] }

/-- A flit for an address of core 0. -/
def flit (ch op space off : Nat) : Flit :=
  { src := 1, cid := 5, chan := ch, op := BitVec.ofNat 3 op, target := BitVec.ofNat 60 (waOf space 0 off) }

/-- Core 0 with flits at a local output. -/
def loC (ch : Nat) (fs : List Flit) : Core := { core0 with router := { lo := [(ch, fs)] } }

/-- A host command that waits its turn. -/
def cmd (op : Nat) (arg : Bytes) : Cmd := { fn := 0, tag := 1, opcode := op, cid := 5, len := 8192, arg := arg }

/-- The module with a context and a host command. -/
def hostM (x : Cmd) : Mach := { mk (slotC { ctl := ctl0 }) with ctxs := [(5, ctx0)], host := { mach.host with cmds := [x] } }

/-- The state with a context and a host command. -/
def hst (x : Cmd) : State := stm (hostM x)

theorem turnOf {m : Mach} {f tag op : Nat} {x : Cmd}
    (h : m.cmdFor f tag op = some x ∧ x.started = false ∧ m.mayStart x = true) : m.Turn f tag op x :=
  ⟨h.1, h.2.1, h.2.2⟩

/-! ## The hypotheses of every statement can be met -/

/-- A core that can issue a bundle with STOP = 1 and no live part. -/
def issueCore : Core := slotC { ctl := ctl0, run := { fbuf := [(0, BitVec.ofNat 128 (2 ^ 127))] } }

/-- A tile operation whose last cycle has come, and a core with it alone in its engine. -/
def engOp (w : TileWork) : TileOp := { work := w, doneAt := 100000 }

def engC (w : TileWork) : Core := { slotC { ctl := ctl0 } with eng := { ops := [engOp w] } }

/-- A TILE.ST's rows that leave on channel 2, and a core whose local input has no room for them. -/
def portSt : TileWork := .st 1 16 (List.replicate 16 5) 0 none 1 []

def fullC : Core := { engC portSt with router := { bufs := [(bufKey 4 2 false, List.replicate 8 (flit 2 2 2 0))] } }

/-- The 64 bytes of a FILL of 32 bytes of scratchpad at offset 64, with a huddle's address. -/
def fillRaw (h : Nat) : Bytes :=
  toBytes 8 0 ++ toBytes 8 64 ++ toBytes 4 32 ++ toBytes 2 1 ++ toBytes 2 1 ++ toBytes 16 0 ++ toBytes 8 h ++ toBytes 2 4 ++
    toBytes 14 0

/-- A FILL of 32 bytes of scratchpad at offset 64. -/
def fillDesc : MvDesc := { raw := fillRaw 0, issued := 99992 }

def sigRaw : Bytes := fillRaw (waOf 3 0 0)

def descC (d : MvDesc) : Core := slotC { ctl := ctl0, run := { descs := [d] } }

/-- A READ of n bytes of core 0's scratchpad. -/
def readFlit (n : Nat) : Flit := { flit 0 1 0 0 with pay := BitVec.ofNat 256 n }

/-- A message held since cycle 5 at a queue that now has room. -/
def heldC : Core := { loC 2 [flit 2 2 2 1] with router := { lo := [(2, [flit 2 2 2 1])], heldSince := [(2, 5)] } }

/-- A signal of huddle 31. -/
def sigFlit (pay : Nat) : Flit := { flit 5 3 3 31 with pay := BitVec.ofNat 256 pay }

/-- The answer to slot 3's load with read ID 2. -/
def dataFlit : Flit := { flit 4 4 0 0 with tag := 3 * 64 + 2, why := .store 3 0, pay := 77 }

def dataC (ch : Nat) : Core :=
  { loC ch [dataFlit] with slots := vset (.replicate 4 {}) 3 { ctl := ctl0, run := { accs := [{ rd := 31, rid := some 2 }], rids := [2] } } }

/-- Core 0 with a flit at an input of its router. -/
def inC (port ch : Nat) (f : Flit) : Core := { core0 with router := { bufs := [(bufKey port ch false, [f])] } }

/-- A multicast of a message for queue 0 whose only member is core 0. -/
def mcFlit : Flit := { flit 3 2 0 0 with mc := true, target := BitVec.ofNat 60 (2 * 2 ^ 36) }

/-- Core 0 with its east output port. -/
def outC (o : OutPort) : Core := { core0 with router := { outs := [(1, o)] } }

/-- Core 0 with a plane in slot 0, which RUNs. -/
def planeC (p : Plane) : Core := slotC { ctl := ctl0, plane := some p }

/-- A message of one chunk that landed long ago. -/
def msg1 : QMsg := { chunks := [7], landed := 0 }

/-- Core 0 with a plane whose steering unit 0 takes condition queue 1 and queue 0. -/
def steerC (kind t : Nat) : Core :=
  { planeC { steer := [{ kind := BitVec.ofNat 2 kind, qc := 1, qa := 0, ot := 2, off := 3 }] } with
    queues := vset (vset (.replicate 8 {}) 0 { valid := true, port := 5, msgs := [msg1] }) 1
      { valid := true, port := 5, msgs := [{ msg1 with chunks := [BitVec.ofNat 256 t] }] } }

/-- A plane whose steering unit 0 sends on port 2. -/
def stuckPlane (p : Plane) : Plane := { p with steer := [{ kind := 1, qc := 1, qa := 0, ot := 2, off := 2 }] }

/-- Core 0 with queue 0 stuck: at its threshold, its consumer waiting for room to send to queue 0 itself, where a message is held. -/
def stuckC (p : Plane) : Core :=
  { slotC { ctl := ctl0, plane := some (stuckPlane p), ali := { sp := vset (.replicate 8 0) 2 1 } } with
    queues := vset (vset (.replicate 8 {}) 0 { valid := true, port := 5, thresh := 1, msgs := [msg1] }) 1
      { valid := true, port := 5, msgs := [msg1] }
    router := { bufs := [(bufKey 4 2 false, List.replicate 8 (flit 2 2 2 0))], lo := [(2, [flit 2 2 2 0])],
                heldSince := [(2, 5)] } }

/-- A plane whose queue 0 is in backstop state with a record in its ring. -/
def ringPlane : Plane := { rings := [(0, { active := true, recs := [{}] })] }

/-- The module with a context whose slot is LOADED, and a host command. -/
def idleM (x : Cmd) : Mach := { hostM x with cores := [(0, slotC { ctl := { ctl0 with st := .loaded } })] }

/-- The smallest configuration block. -/
def cfgBlock : Bytes := toBytes 2 1 ++ toBytes 2 0 ++ toBytes 4 8

def cfgCmd : Cmd := { cmd 0x0101 [] with len := 8 }

/-- A context on cores 46 and 47, the work of core 47 on core 48 beyond the seam, with a seam rate beyond any segment's capacity. -/
def farCtx : Ctx := { ctx0 with slots := [{ core := 46 }, { core := 47 }], resv := [{ resource := 3, units := 1000000 }] }

def farM : Mach :=
  { mk core0 with ctxs := [(5, farCtx)],
                  wafer := { fp := [(46, { alt := 46 }), (47, { alt := 48, state := 3, reason := 1 }), (48, { alt := 47 })],
                             subst := vset (.replicate 64 {}) 0 { orig := 47, stand := 48, valid := true } } }

/-- RING_CREATE's arguments: ring 255 of 65,536 entries, vector 2,047, ITIME 1,000. -/
def ringArg : Bytes :=
  toBytes 1 255 ++ toBytes 1 16 ++ toBytes 2 2047 ++ toBytes 2 0 ++ toBytes 2 1000 ++ toBytes 8 4096 ++ toBytes 8 8192

/-- The module with function 0 and a host command. -/
def fnM (f : Fn) (x : Cmd) : Mach := { hostM x with host := { (hostM x).host with fns := [(0, f)] } }

/-- The module with every CID in use. -/
def fullM : Mach := { hostM (cmd 0x0100 [0]) with ctxs := (List.range' 0 1024).map fun c => (c, {}) }

theorem aget_range' (x : Ctx) (c : Nat) : ∀ n k, k ≤ c → c < k + n →
    (aget ((List.range' k n).map fun i => (i, x)) c).isSome = true
  | 0, k, h, h' => absurd h' (Nat.not_lt.mpr h)
  | n + 1, k, h, h' => by
    simp only [List.range'_succ, List.map_cons, aget]
    split
    · rfl
    · next e => exact aget_range' x c n (k + 1) (Nat.lt_of_le_of_ne h e) (by omega)

/-- A ring whose oldest unread completion has waited its ITIME of 10 microseconds. -/
def coalR : Ring := { icount := 2, itime := 10, cplTail := 1, oldest := some 88000 }

/-- A LOAD of 4,096 bytes at an offset of slot 0's window. -/
def ldCmd (form space off : Nat) : Cmd :=
  { cmd 0x0110 (toBytes 1 form ++ toBytes 4 0 ++ toBytes 1 0 ++ toBytes 1 space ++ toBytes 8 off ++ toBytes 4 0) with len := 4096 }

/-- A LOAD of a message of 256 bytes for queue 1. -/
def msgCmd : Cmd := { cmd 0x0110 [3, 0, 0, 0, 0, 1] with len := 256 }

def listCmd : Cmd := { cmd 0x0111 [1] with len := 8 }

/-- The module with a LOADED slot that holds the plane of region 15. -/
def loadedM : Mach :=
  { hostM (cmd 0x0111 [2, 15]) with
    cores := [(0, slotC { ctl := { ctl0 with st := .loaded }, plane := some { region := 15 } })] }

/-- A plane descriptor for region 15: one node, which pops queue 0. -/
def desc : Bytes :=
  toBytes 2 1 ++ [1, 15] ++ List.replicate 20 0 ++ toBytes 2 259 ++ List.replicate 310 0 ++ toBytes 16 (0x1D * 2 ^ 106)

def regionCmd : Cmd := { cmd 0x0110 [2, 15] with len := 0x160 }

def regionM : Mach :=
  { hostM regionCmd with cores := [(0, { slotC { ctl := { ctl0 with st := .loaded } } with
      queues := vset (.replicate 8 {}) 0 { valid := true } })] }

theorem region_desc : ∀ d ∈ cutPlanes (rectCores (0, 0, 0, 0)) (padTo desc 0x160), ∀ sl,
    ((regionM.begun regionCmd).core ((regionM.begun regionCmd).runs d.1)).planeSlot 5 15 = some sl →
    descOk ((regionM.begun regionCmd).core ((regionM.begun regionCmd).runs d.1)) sl 15 d.2 = true := by
  intro d hd sl h
  have e : cutPlanes (rectCores (0, 0, 0, 0)) (padTo desc 0x160) = [(0, desc)] := by decide +kernel
  rw [e] at hd
  cases List.mem_singleton.mp hd
  have e2 : ((regionM.begun regionCmd).core ((regionM.begun regionCmd).runs 0)).planeSlot 5 15 = some 0 := by decide +kernel
  cases Option.some.inj (e2.symm.trans h)
  decide +kernel

/-- A module whose engines are all ACTIVE and cabled, at coordinate 0 of a fabric of two devices in each dimension. -/
def fabM (x : Cmd) (y : Ctx) : Mach :=
  { hostM x with ctxs := [(5, y)],
                 fabric := { assigned := true, sizes := 0x041041, ports := .replicate 9 { active := 0x3F },
                             engs := .replicate 56 { st := .active, ident := some [], lanes := 0xFFFF } } }

/-- CKPT_SAVE to the twin. -/
def saveArg : Bytes := [1, 0] ++ toBytes 4 (2 ^ 24) ++ toBytes 4 0

/-- The header of an image without sections. -/
def imageHdr : Bytes := toBytes 2 1 ++ toBytes 2 siliconStep ++ toBytes 4 0 ++ toBytes 8 64

/-- LOG_OPEN's arguments: a ring of 2^32 bytes. -/
def logArg : Bytes := toBytes 8 (2 ^ 32) ++ toBytes 4 0 ++ [1]

def placeArg : Bytes := toBytes 4 0 ++ toBytes 4 0x041041

/-- A FABRIC_LINK for a port, engine and action. -/
def linkC (a : Bytes) (v : Nat) : Cmd := cmd 0x0173 (a ++ toBytes 4 v)

def linkM (a : Bytes) (v : Nat) : Mach :=
  { fabM (linkC a v) ctx0 with fabric := { (fabM (linkC a v) ctx0).fabric with ports := .replicate 9 { active := 0x37 } } }

/-- The same fabric with job tag 9 for core 0's scratchpad, its engines as given but ACTIVE unless g says otherwise, in a cycle. -/
def engM (g : LightEng) (cc : Nat) : Mach :=
  { mach with clk := { cc := cc },
              fabric := { (fabM (cmd 0 []) ctx0).fabric with
                jobs := [{ tag := 9, access := 1, wr := true, offHi := 0x5FFFF, shift := 25 }],
                engs := .replicate 56 { g with st := if g.st = .idle then .active else g.st, ident := some [], lanes := 0xFFFF } } }

/-- A READ of 32 bytes for this device, with an FSEQ. -/
def readFrame (seq : Nat) : Bytes := mkFrame 0 0 seq 9 1 true true false none (mkTh 0 1 0 0 32)

/-- The first frame of a WRITE of 200 bytes for this device. -/
def writeFrame : Bytes := mkFrame 3 0 0 9 0 true false false none (mkTh 0 1 0 0 200 ++ List.replicate 96 0)

/-- A module in a fabric of four devices in each dimension, and a READ that passes through it. -/
def transitM : Mach := { engM {} 100000 with fabric := { (engM {} 100000).fabric with sizes := 0x0C30C3 } }

def transitFrame : Bytes := mkFrame 0 0 0 9 1 true true false none (mkTh 0x1000 0x3000 0 0 32)

/-- A whole READ at the attachment of core 8,470. -/
def attFlit : Flit :=
  { flit 0 1 0 0 with pay := BitVec.ofNat 256 (ofBytes (mkTh 1 0 0 0 32 ++ toBytes 2 9)), why := .fabric 0 1 }

/-- A module whose pair port has a new set and nothing to drain. -/
def setM : Mach := { mach with fabric := { ports := .replicate 9 { active := 0x0F, pendingSet := some 0x0E } } }

theorem set_idle (e : Nat) : setM.eng e = {} := by
  simp only [Mach.eng, setM, vget, Vector.getElem?_replicate]
  split <;> rfl

theorem set_rest (e : Nat) : ((stm setM).m.eng e).st ≠ .drain := by
  rw [show (stm setM).m.eng e = {} from set_idle e]
  decide

/-- The module with a context of DBG = 1 and a huddle of it. -/
def dbgM (x : Cmd) : Mach :=
  { hostM x with ctxs := [(5, { ctx0 with dbg := true })],
                 cores := [(0, (slotC { ctl := ctl0 }).onHuddle 31 fun h => { h with owner := some 5 })] }

def hudArg : Bytes := toBytes 4 0 ++ [31] ++ toBytes 4 0xFFFFFF

def slotRead : Cmd := { cmd 0x0182 (toBytes 5 0 ++ [0xF] ++ toBytes 8 0x100) with len := 256 }

def winRead : Cmd := { cmd 0x0182 (toBytes 6 0) with len := 4096 }

def serviceM (x : Cmd) : Mach := { hostM x with boot := { mach.boot with life := .service } }

def agreed : AMap Nat := (fieldCores 0).map fun c => (c, 0)

/-- A module whose field 0 has been asked to sleep, every core of it agreeing. -/
def agreedM : Mach :=
  { mk core0 with fields := .replicate 56 { onField with sleep := .preparing, answers := agreed } }

theorem agreed_none : (stm agreedM).m.refusers (0 : FieldIx) = [] := by decide +kernel

theorem aget_same (c : Nat) : ∀ l : List Nat, c ∈ l → aget (l.map fun i => (i, 0)) c = some 0
  | [], h => nomatch h
  | k :: r, h => by
    simp only [List.map_cons, aget]
    split
    · rfl
    · next e => exact aget_same c r ((List.mem_cons.mp h).resolve_left fun x => e x.symm)

theorem agreed_all (c : Nat) (h : c ∈ fieldCores (0 : FieldIx)) :
    aget ((stm agreedM).m.field (0 : FieldIx)).answers c = some 0 := by
  have e : ((stm agreedM).m.field (0 : FieldIx)).answers = agreed := by
    have h0 : ((0 : FieldIx) : Nat) = 0 := by decide +kernel
    simp only [h0, Mach.field, vget, stm, agreedM, Vector.getElem?_replicate, if_pos (show 0 < 56 by omega), Option.getD_some]
  exact e ▸ aget_same c (fieldCores 0) h

/-- A module in a stage of a start that began in cycle 0. -/
def stageS (stage wave cc : Nat) : State :=
  stm { mach with boot := { stage := stage, wave := wave }, clk := { cc := cc } }

/-- Core 0 with the upkeep of its under-bank. -/
def careC (c : UbCare) : Core := { core0 with care := c }

def cols64 : List (Nat × Nat × Nat) := (List.range 64).map fun i => (1, 15, i)

def cells3 : List (Nat × Nat × Nat × Nat) := [(1, 15, 767, 0), (1, 15, 767, 1), (1, 15, 767, 2)]

/-- A bench core can always be chosen where core 383 is one. -/
theorem bench_chosen (m : Mach) (c : Nat)
    (h : (m.coreBench 383 && (m.fpCore 383).mem == 0 && (m.fpCore 383).routerOk && (false || !isAnchor 383)) = true) :
    ∃ b, m.chooseBench c false = some b :=
  Option.isSome_iff_exists.mp (pickBest_cores (closer c) (fun b => m.coreBench b && (m.fpCore b).mem == 0 &&
    (m.fpCore b).routerOk && (false || !isAnchor b)) 383 (by decide +kernel) h)

theorem awake (m : Mach) (e : m.fields = .replicate 56 onField) (f : Nat) : (m.field f).sleep ≠ .committed := by
  simp only [Mach.field, vget, e, Vector.getElem?_replicate]
  split <;> decide

theorem subst_meets : ∃ b, (hst (cmd 0 [])).m.chooseBench (0 : CoreIx) false = some b ∧
    ((hst (cmd 0 [])).m.field (fieldOf b)).sleep ≠ .committed :=
  (bench_chosen _ _ (by decide +kernel)).elim fun b h => ⟨b, h, awake _ rfl _⟩

/-- A module with a mismatch that no referee has re-executed. -/
def mismM : Mach := { mk core0 with mismatches := [{}] }

theorem never_refereed (m : Mach) (k : Core) (e : m.cores = [(0, k)]) (h : k.refereeAt = none) (r : Nat) :
    (m.core r).refereeAt = none := by
  simp only [Mach.core, e, aget]
  split
  · exact h
  · rfl

theorem referee_found : ∃ r, mismM.refereeOf {} = some r ∧ (mismM.core r).refereeAt = none :=
  (Option.isSome_iff_exists.mp (pickBest_cores (fun b c => if wayCost 0 c < wayCost 0 b then c else b)
    (fun c => mismM.coreEnabled c && c != 0 && c != 0) 1 (by decide +kernel) (by decide +kernel))).elim fun r h =>
      ⟨r, h, never_refereed mismM core0 rfl rfl r⟩

/-- Core 0 with a packet for slot 0. -/
def pktC : Core := { issueCore with packets := [{ cid := 5, kind := 1 }] }

def hungS (hangs : List Nat) : State := stm { mach with fields := .replicate 56 { onField with fcHung := true, hangs := hangs } }

def hud31 (mode : Nat) : Core := core0.onHuddle 31 fun h => { h with target := 1, count := 1, state := 1, mode := BitVec.ofNat 2 mode }

/-- A V part with an operation and a format. -/
def vWord (op fmt : Nat) : Nat := op * 2 ^ 34 + fmt * 2 ^ 6

theorem of_none {α : Type} {o : Option α} {P : α → Prop} (e : o = none) : ∀ y, o = some y → P y := fun y h => by
  cases e.symm.trans h

theorem step_idle (s : State) (h : s.pending = []) : step s = .next (s.to (idle s.m)) := by
  simp only [step, h]
  rfl

theorem pair_eta {α β : Type} (x : α × β) : x = (x.1, x.2) := rfl

/-! ## Witnesses -/

/-- The hypotheses of StepRunsTheFrontCommand can be met. -/
theorem witness_StepRunsTheFrontCommand :
    (∃ (s : State), s.pending = []) :=
  ⟨State.reset, by decide +kernel⟩

/-- The hypotheses of EveryStepKeepsMemoryCanonical can be met. -/
theorem witness_EveryStepKeepsMemoryCanonical :
    (∃ (s t : State), s.Inv ∧ step s = .next t) :=
  ⟨State.reset, State.reset.to (idle State.reset.m), (rfl : State.reset.m.memWf = true), step_idle _ rfl⟩

/-- The hypotheses of ResetMeetsTheInvariant can be met. -/
theorem witness_ResetMeetsTheInvariant :
    (∃ f : Nat, f < 56) :=
  ⟨55, by decide +kernel⟩

/-- The hypotheses of MemoriesReadWhatWasWritten can be met. -/
theorem witness_MemoriesReadWhatWasWritten :
    (∃ m : Mach, m.memWf = true) ∧
    (∃ (m : Mem) (a : Nat) (bs : Bytes), ∃ x, (x < a ∨ a + bs.length ≤ x)) ∧
    (∃ (m : Mem) (a : Nat) (bs : Bytes), Memory.wf m = true) :=
  ⟨⟨mk { core0 with sram := [(0, 1), (4095, 255)] }, by decide +kernel⟩,
    ⟨[(7, 3)], 8, [1, 0, 2], 7, by decide +kernel⟩,
    ⟨[(7, 3), (9, 1)], 8, [], by decide +kernel⟩⟩

/-- The hypotheses of BundleIssueRunsTheBundle can be met. -/
theorem witness_BundleIssueRunsTheBundle :
    (∃ (s : State) (c : CoreIx) (sl b : Nat) (spare : Bool),
      let m := (s.m.issueCycle c).2
      let v := (m.core c).slot sl
      (s.m.issueCycle c).1 = some (sl, spare) ∧ s.m.isPlane c sl = false ∧ (∃ o, spadAt v.ctl v.ctl.pc.toNat 16 = some
        o ∧ m.spadPoison c o 16 = none) ∧ v.bundle = some b ∧ m.bundleFault c sl b = none) ∧
    (∃ (s : State) (c : CoreIx), (s.m.issueCycle c).1 = none) ∧
    (∃ (s : State) (c : CoreIx) (cells : List CellErr), cells ≠ []) :=
  ⟨⟨st issueCore, 0, 0, 2 ^ 127, (((st issueCore).m.issueCycle 0).1.map (·.2)).getD false, by decide +kernel,
    by decide +kernel, ⟨0, by decide +kernel⟩, by decide +kernel, by decide +kernel⟩,
    ⟨st core0, 0, by decide +kernel⟩,
    ⟨st core0, 0, [.sram 0], by decide +kernel⟩⟩

/-- The hypotheses of FetchFaultsAndStops can be met. -/
theorem witness_FetchFaultsAndStops :
    (∃ (m : Mach) (c sl : Nat) (spare : Bool), sl < 4 ∧ ((m.core c).slot sl).ctl.st = .running ∧ m.resetting c sl =
      false ∧ spadAt ((m.core c).slot sl).ctl ((m.core c).slot sl).ctl.pc.toNat 16 = none) ∧
    (∃ (m : Mach) (c sl b : Nat), sl < 4 ∧ bStop b = true ∧ sLive ((m.core c).slot sl).arch b = false ∧ vLive ((m.core
      c).slot sl).arch b = false ∧ tLive ((m.core c).slot sl).arch b = false ∧ popsOf ((m.core c).slot sl).arch b =
      ([], [], []) ∧ ∃ d, d ≠ c) :=
  ⟨⟨mk (slotC { ctl := { ctl0 with pc := 0x1000 } }), 0, 0, false, by decide +kernel⟩,
    ⟨mk (slotC { ctl := ctl0 }), 0, 3, 2 ^ 127 + 2 ^ 121 + 2 ^ 120 + 2 ^ 119 + 2 ^ 118, by decide +kernel,
      by decide +kernel, by decide +kernel, by decide +kernel, by decide +kernel, by decide +kernel, 1,
      by decide +kernel⟩⟩

/-- The hypotheses of RoundStartGivesCredits can be met. -/
theorem witness_RoundStartGivesCredits :
    (∃ (s : State) (c : CoreIx), (s.m.core c).pwr.logic = .on ∧ (s.m.core c).seq.left = 0) :=
  ⟨st core0, 0, by decide +kernel⟩

/-- The hypotheses of TileOperationsComplete can be met. -/
theorem witness_TileOperationsComplete :
    (∃ (s : State) (c : CoreIx) (o : TileOp) (w : Nat) (buf : WBuf) (r : List TileOp), (s.m.core c).eng.ops = o :: r ∧
      o.work = .ld w buf ∧ o.doneAt ≤ s.m.cc) ∧
    (∃ (s : State) (c : CoreIx) (o : TileOp) (a n : Nat) (r : List TileOp), (s.m.core c).eng.ops = o :: r ∧ o.work =
      .zero a n ∧ o.doneAt ≤ s.m.cc) ∧
    (∃ (s : State) (c : CoreIx) (o : TileOp) (r : List TileOp) (w : Nat) (buf : WBuf) (fa : BitVec 4) (sf : BitVec 2)
      (acc rows : Nat) (exact pair clr ovf subn : Bool) (stream scales : Bytes), (s.m.core c).eng.ops = o :: r ∧
      o.work = .mac w buf fa sf acc rows exact pair clr ovf subn stream scales ∧ o.doneAt ≤ s.m.cc ∧ o.sample = false) ∧
    (∃ (s : State) (c : CoreIx) (o : TileOp) (r : List TileOp) (rows len done d : Nat) (bytes : Bytes) (bnd : BitVec
      64), (s.m.core c).eng.ops = o :: r ∧ (∀ x ∈ r, isSt x.work = false) ∧ o.work = .st rows len bytes done (some d)
      bnd [] ∧ bytes.length = rows * len ∧ done < bytes.length ∧ o.doneAt ≤ s.m.cc ∧ o.sample = false ∧ (s.m.core
      c).remote = []) ∧
    (∃ (s : State) (c : CoreIx) (o : TileOp) (r : List TileOp) (rows len done : Nat) (bytes : Bytes) (bnd : BitVec
      64), (s.m.core c).eng.ops = o :: r ∧ (∀ x ∈ r, isSt x.work = false) ∧ o.work = .st rows len bytes done none bnd
      [] ∧ bytes.length = rows * len ∧ done < bytes.length ∧ bytes.length ≤ done + 256 ∧ o.doneAt ≤ s.m.cc ∧ o.sample
      = false ∧
      let msg := toChunks (bytes.drop done)
      let can := s.m.canSend c ((s.m.core c).slot o.slot).ctl.cid.toNat bnd.toNat (max 1 msg.length) 0
      can = true) ∧
    (∃ (s : State) (c : CoreIx) (o : TileOp) (r : List TileOp) (rows len done : Nat) (bytes : Bytes) (bnd : BitVec
      64), (s.m.core c).eng.ops = o :: r ∧ (∀ x ∈ r, isSt x.work = false) ∧ o.work = .st rows len bytes done none bnd
      [] ∧ bytes.length = rows * len ∧ done < bytes.length ∧ bytes.length ≤ done + 256 ∧ o.doneAt ≤ s.m.cc ∧ o.sample
      = false ∧
      let msg := toChunks (bytes.drop done)
      let can := s.m.canSend c ((s.m.core c).slot o.slot).ctl.cid.toNat bnd.toNat (max 1 msg.length) 0
      can = false) :=
  ⟨⟨st (engC (.ld 1 {})), 0, engOp (.ld 1 {}), 1, {}, [], by decide +kernel⟩,
    ⟨st (engC (.zero 0 8)), 0, engOp (.zero 0 8), 0, 8, [], by decide +kernel⟩,
    ⟨st (engC (.mac 0 {} 9 0 0 8 false false false false false [1] [])), 0, engOp (.mac 0 {} 9 0 0 8 false false false
      false false [1] []), [], 0, {}, 9, 0, 0, 8, false, false, false, false, false, [1], [], by decide +kernel⟩,
    ⟨st (engC (.st 8 2 (List.replicate 16 5) 14 (some 64) 0 [])), 0, engOp (.st 8 2 (List.replicate 16 5) 14 (some 64) 0
      []), [], 8, 2, 14, 64, List.replicate 16 5, 0, by decide +kernel⟩,
    ⟨st (engC portSt), 0, engOp portSt, [], 1, 16, 0, List.replicate 16 5, 1, by decide +kernel⟩,
    ⟨st fullC, 0, engOp portSt, [], 1, 16, 0, List.replicate 16 5, 1, by decide +kernel⟩⟩

/-- The hypotheses of MoverRunsDescriptors can be met. -/
theorem witness_MoverRunsDescriptors :
    (∃ (s : State) (c : CoreIx) (sl : Nat) (spare : Bool) (d : MvDesc),
      let k := s.m.core c
      let k' := if k.mover.left = 0 then k.moverRound else k
      k.pwr.logic = .on ∧ k.pwr.gated = false ∧ k.pwr.stall = false ∧ k.pwr.stopped = false ∧ k.granulesUsed s.m.cc <
        2 ∧ cycleRemoved k.pwr s.m.cc = false ∧ k'.mover.choose ([0, 1, 2, 3].filter fun i => s.m.xferReady c i ||
        s.m.mvReady c i) = some (sl, spare) ∧ s.m.xferReady c sl = false ∧ (k.slot sl).running = some d ∧ d.staged =
        none) ∧
    (∃ (s : State) (c : CoreIx) (sl : SlotIx) (d : MvDesc),
      let v := (s.m.core c).slot sl
      v.running = some d ∧ mvVisible d = true ∧ v.ctl.st ≠ .quiesced ∧ dHaddr d.raw = 0) ∧
    (∃ (s : State) (c : CoreIx) (sl : SlotIx) (d : MvDesc),
      let v := (s.m.core c).slot sl
      v.running = some d ∧ mvVisible d = true ∧ v.ctl.st ≠ .quiesced ∧ dHaddr d.raw ≠ 0 ∧ s.m.canSig c v.ctl.cid.toNat
        (dHaddr d.raw) = true) ∧
    (∃ (s : State) (c : CoreIx) (sl : SlotIx) (d : MvDesc), (((s.m.core c).slot sl).run.descs.find? fun d => d.bad) =
      some d) :=
  ⟨⟨st (descC fillDesc), 0, 0, false, fillDesc, by decide +kernel⟩,
    ⟨st (descC { fillDesc with moved := true }), 0, 0, { fillDesc with moved := true }, by decide +kernel⟩,
    ⟨st (descC { fillDesc with moved := true, raw := sigRaw }), 0, 0, { fillDesc with moved := true, raw := sigRaw },
      by decide +kernel⟩,
    ⟨st (descC { fillDesc with bad := true }), 0, 0, { fillDesc with bad := true }, by decide +kernel⟩⟩

/-- The hypotheses of UnderBankServesAndLinesFill can be met. -/
theorem witness_UnderBankServesAndLinesFill :
    (∃ (s : State) (c : CoreIx) (i : Nat) (q : UbAcc) (x : BitVec 64), s.m.ubNext c = some (i, q) ∧ q.store = some x) ∧
    (∃ (s : State) (c : CoreIx) (i : Nat) (q : UbAcc) (a : PendAcc), s.m.ubNext c = some (i, q) ∧ q.store = none ∧
      let here := fun a : PendAcc => a.load && a.wa.toNat == waOf 1 (s.m.logical c) q.off && a.rid.isNone &&
        a.line.isNone
      ((s.m.core c).slot q.slot).run.accs.find? here = some a ∧ (s.m.core c).poisonAt 1 q.off 8 = none) ∧
    (∃ (s : State) (c : CoreIx) (f : Fill), ((s.m.core c).fills.find? fun f => s.m.fillReady c f && (s.m.fillRoom c
      f.tag).1) = some f ∧ s.m.lineOwn c f.tag = false) :=
  ⟨⟨st { core0 with ubq := [{ off := 64, store := some 7 }] }, 0, 0, { off := 64, store := some 7 }, 7,
    by decide +kernel⟩,
    ⟨st
      { slotC { ctl := ctl0, run := { accs := [{ rd := 3, wa := BitVec.ofNat 48 (waOf 1 0 64) }] } } with ubq := [{ off := 64 }] },
      0, 0, { off := 64 }, { rd := 3, wa := BitVec.ofNat 48 (waOf 1 0 64) }, by decide +kernel⟩,
    ⟨st { core0 with fills := [{ tag := waOf 1 1 0 / 128, got := 4, rid := some 2 }] }, 0,
      { tag := waOf 1 1 0 / 128, got := 4, rid := some 2 }, by decide +kernel⟩⟩

/-- The hypotheses of TimersAndCommitWindows can be met. -/
theorem witness_TimersAndCommitWindows :
    (∃ (s : State) (c : CoreIx) (sl : SlotIx), ((s.m.core c).slot sl).run.due = true) ∧
    (∃ (s : State) (c : CoreIx) (p : Nat),
      let k := s.m.core c
      k.pwr.park = some p ∧ p + 4 ≤ s.m.cc ∧ k.pwr.logic = .on ∧ k.dropBase s.m.cc = true) :=
  ⟨⟨st (slotC { ctl := ctl0, run := { due := true } }), 0, 0, by decide +kernel⟩,
    ⟨st { slotC parked with pwr := { up with park := some 99996 } }, 0, 99996, by decide +kernel⟩⟩

/-- The hypotheses of ParkedSlotsWake can be met. -/
theorem witness_ParkedSlotsWake :
    (∃ (s : State) (c : CoreIx) (sl : SlotIx),
      let k := s.m.core c
      (k.slot sl).ctl.st = .parked ∧ (k.slot sl).run.wakeAt = none ∧ k.wakeNow sl ≠ 0 ∧ k.inWindow s.m.cc = false ∧
        k.pwr.stopped = false ∧ k.clocksRun s.m.cc = true ∧ k.pwr.flitWake = none) ∧
    (∃ (s : State) (c : CoreIx) (sl : SlotIx),
      let k := s.m.core c
      (k.slot sl).ctl.st = .parked ∧ (k.slot sl).run.wakeAt = none ∧ k.wakeNow sl &&& ~~~ k.lostEdges sl ≠ 0 ∧
        k.inWindow s.m.cc = false ∧ k.pwr.stopped = false ∧ k.clocksRun s.m.cc = false) ∧
    (∃ (s : State) (c : CoreIx) (sl : SlotIx) (w : Nat),
      let k := s.m.core c
      (k.slot sl).ctl.st = .parked ∧ (k.slot sl).run.wakeAt = some w ∧ w ≤ s.m.cc) :=
  ⟨⟨st (slotC parked), 0, 0, by decide +kernel⟩,
    ⟨st { slotC parked with pwr := { up with logic := .ret, gated := true } }, 0, 0, by decide +kernel⟩,
    ⟨st (slotC { parked with run := { wakeAt := some 100000 } }), 0, 0, 100000, by decide +kernel⟩⟩

/-- The hypotheses of QuiesceAndResume can be met. -/
theorem witness_QuiesceAndResume :
    (∃ (s : State) (c : CoreIx) (sl : SlotIx), (s.m.field (fieldOf c)).sleep ≠ .committed ∧ ((s.m.core c).slot
      sl).ctl.st ≠ .empty ∧ ((s.m.core c).slot sl).ctl.st ≠ .quiesced) ∧
    (∃ (s : State) (c : CoreIx) (sl : SlotIx) (st : SlotSt), ((s.m.core c).slot sl).ctl.st = .quiesced ∧ ((s.m.core
      c).slot sl).run.held = some st ∧ (st = .parked → (s.m.core c).wakeNow sl = 0)) ∧
    (∃ (s : State) (c : CoreIx) (sl : SlotIx), ((s.m.core c).slot sl).ctl.st = .quiesced ∧ ((s.m.core c).slot
      sl).run.held = some .parked ∧ (s.m.core c).wakeNow sl ≠ 0) :=
  ⟨⟨st (slotC { ctl := ctl0 }), 0, 0, by decide +kernel⟩,
    ⟨st (slotC { ctl := { ctl0 with st := .quiesced }, run := { held := some .halted } }), 0, 0, .halted,
      by decide +kernel⟩,
    ⟨st (slotC { parked with ctl := { parked.ctl with st := .quiesced }, run := { held := some .parked } }), 0, 0,
      by decide +kernel⟩⟩

/-- The hypotheses of CoresComeUpAndRelease can be met. -/
theorem witness_CoresComeUpAndRelease :
    (∃ (s : State) (c : CoreIx),
      let k := s.m.core c
      k.pwr.logic ≠ .off ∧ k.pwr.stopped = false ∧ k.clocksRun s.m.cc = false ∧ k.pwr.flitWake = none ∧ k.flitWaits c
        = true) ∧
    (∃ (s : State) (c : CoreIx), (s.m.core c).pwr.logic = .off ∧ (s.m.field (fieldOf c)).ring = .on ∧ s.m.coreOut c =
      false) :=
  ⟨⟨st { loC 0 [flit 0 1 0 0] with pwr := { up with logic := .ret, gated := true } }, 0, by decide +kernel⟩,
    ⟨st {}, 0, by decide +kernel⟩⟩

/-- The hypotheses of CorePowerFollowsItsRules can be met. -/
theorem witness_CorePowerFollowsItsRules :
    (∃ (s : State) (c : CoreIx) (w : Nat),
      let k := s.m.core c
      k.pwr.logic = .on ∧ k.pwr.stall = false ∧ k.pwr.lendDis = false ∧ k.pwr.waitSince = some w ∧ w + 2400 ≤ s.m.cc) ∧
    (∃ (s : State) (c : CoreIx), (s.m.core c).pwr.stall = true ∧ ([0, 1, 2, 3].any fun i => (s.m.cycleStart c).blockAt
      c i == 0) = true) ∧
    (∃ (s : State) (c : CoreIx) (start step : Nat), (s.m.core c).pwr.ramp = some (start, step) ∧ start + 1500 * (step
      + 1) ≤ s.m.cc) ∧
    (∃ (s : State) (c : CoreIx) (ti : TierIx),
      let k := s.m.core c
      k.pwr.bankctl = .on ∧ vget k.pwr.sr ti = false ∧ vget k.care.overdue ti = false ∧ vget k.pwr.lastReq ti + 65536
        ≤ s.m.cc ∧ k.pwr.voteBk = 0 ∧ k.pwr.fwVoteBk = false) ∧
    (∃ (s : State) (c : CoreIx) (ti : TierIx), vget (s.m.core c).pwr.sr ti = true ∧ vget (s.m.field (fieldOf c)).tiers
      ti = .on) :=
  ⟨⟨st { core0 with pwr := { up with waitSince := some 97600 } }, 0, 97600, by decide +kernel⟩,
    ⟨st { issueCore with pwr := { up with stall := true, lending := true } }, 0, by decide +kernel⟩,
    ⟨st { core0 with pwr := { up with ramp := some (95500, 2) } }, 0, 95500, 2, by decide +kernel⟩,
    ⟨st { core0 with pwr := { up with lastReq := .replicate 2 34464 } }, 0, 1, by decide +kernel⟩,
    ⟨st { core0 with pwr := { up with sr := .replicate 2 true, bankctl := .ret } }, 0, 1, by decide +kernel⟩⟩

/-- The hypotheses of MeshWritesTakeEffect can be met. -/
theorem witness_MeshWritesTakeEffect :
    (∃ (s : State) (c : CoreIx) (ch : ChanIx) (f : Flit) (fs : List Flit),
      let k := s.m.core c
      k.loMsg ch = some (f, fs) ∧ ch.val < 6 ∧ f.op = 0 ∧ reqSpace f = 0 ∧ k.clocksRun s.m.cc = true ∧ s.m.canAnswer c
        1 1 f = true ∧ k.validOff 0 (reqOff f) (writeLen fs) = true) ∧
    (∃ (s : State) (c : CoreIx) (ch : ChanIx) (f : Flit) (fs : List Flit),
      let k := s.m.core c
      k.loMsg ch = some (f, fs) ∧ ch.val < 6 ∧ f.op = 0 ∧ reqSpace f = 0 ∧ k.clocksRun s.m.cc = true ∧ s.m.canAnswer c
        1 1 f = true ∧ k.validOff 0 (reqOff f) (writeLen fs) = false) ∧
    (∃ (s : State) (c : CoreIx) (ch : ChanIx) (f : Flit) (fs : List Flit), (s.m.core c).loMsg ch = some (f, fs) ∧
      ch.val < 6 ∧ f.op = 0 ∧ reqSpace f = 1 ∧ f.fw = false ∧ (s.m.core c).validOff 1 (reqOff f) (writeLen fs) = true) ∧
    (∃ (k : Core) (f : Flit) (a : Nat), f.tail = true ∧ f.bad = [] ∧ f.tag.toNat % 64 + 1 ≤ 32 ∧ ∃ i, i < f.tag.toNat
      % 64 + 1) ∧
    (∃ (k : Core) (f : Flit) (a : Nat), f.tail = true ∧ f.bad = [] ∧ f.tag.toNat % 64 + 1 ≤ 32 ∧ ∃ x, (x < a ∨ a +
      (f.tag.toNat % 64 + 1) ≤ x)) :=
  ⟨⟨st (loC 0 [flit 0 0 0 0x5FFFF]), 0, 0, flit 0 0 0 0x5FFFF, [flit 0 0 0 0x5FFFF], by decide +kernel⟩,
    ⟨st (loC 0 [flit 0 0 0 0x60000]), 0, 0, flit 0 0 0 0x60000, [flit 0 0 0 0x60000], by decide +kernel⟩,
    ⟨st (loC 0 [flit 0 0 1 64]), 0, 0, flit 0 0 1 64, [flit 0 0 1 64], by decide +kernel⟩,
    ⟨core0, { flit 0 0 0 0 with tag := 31 }, 0, by decide +kernel, by decide +kernel, by decide +kernel, 31,
      by decide +kernel⟩,
    ⟨core0, flit 0 0 0 0, 1, by decide +kernel, by decide +kernel, by decide +kernel, 0, by decide +kernel⟩⟩

/-- The hypotheses of MeshReadAnswers can be met. -/
theorem witness_MeshReadAnswers :
    (∃ (s : State) (c : CoreIx) (f : Flit) (fs : List Flit),
      let k := s.m.core c
      let n := readLen f
      k.loMsg 0 = some (f, fs) ∧ f.op = 1 ∧ reqSpace f = 0 ∧ k.clocksRun s.m.cc = true ∧ s.m.canAnswer c (dataChan f)
        ((n + 31) / 32) f = true ∧ 0 < n ∧ n ≤ 256 ∧ k.validOff 0 (reqOff f) n = true) ∧
    (∃ (m : Mach) (c : Nat) (f : Flit) (space off n : Nat), 0 < n ∧ ∃ x, x ∈ m.dataFlits c f space off n) ∧
    (∃ (s : State) (c : CoreIx) (f : Flit) (fs : List Flit),
      let k := s.m.core c
      let n := readLen f
      k.loMsg 0 = some (f, fs) ∧ f.op = 1 ∧ reqSpace f = 0 ∧ k.clocksRun s.m.cc = true ∧ s.m.canAnswer c 1 1 f = true
        ∧ (n = 0 ∨ 256 < n ∨ k.validOff 0 (reqOff f) n = false)) :=
  ⟨⟨st (loC 0 [readFlit 256]), 0, readFlit 256, [readFlit 256], by decide +kernel⟩,
    ⟨mk core0, 0, readFlit 1, 0, 0, 1, by decide +kernel, ((mk core0).dataFlits 0 (readFlit 1) 0 0 1).headD default,
      by decide +kernel⟩,
    ⟨st (loC 0 [readFlit 257]), 0, readFlit 257, [readFlit 257], by decide +kernel⟩⟩

/-- The hypotheses of MessagesLandOrAreHeld can be met. -/
theorem witness_MessagesLandOrAreHeld :
    (∃ (s : State) (c : CoreIx) (ch : ChanIx) (q : Nat) (f : Flit) (fs : List Flit),
      let k := s.m.core c
      k.loMsg ch = some (f, fs) ∧ (ch.val = 2 ∨ ch.val = 3) ∧ f.op = 2 ∧ aget k.router.heldSince ch = none ∧
        s.m.landRoom c f = true ∧ msgQueue f = some q ∧ k.inBackstop q = false ∧ k.accepts q s.m.cc = true) ∧
    (∃ (s : State) (c : CoreIx) (ch : ChanIx) (q : Nat) (f : Flit) (fs : List Flit),
      let k := s.m.core c
      k.loMsg ch = some (f, fs) ∧ (ch.val = 2 ∨ ch.val = 3) ∧ f.op = 2 ∧ aget k.router.heldSince ch = none ∧
        s.m.landRoom c f = true ∧ msgQueue f = some q ∧ k.inBackstop q = false ∧ k.accepts q s.m.cc = false) ∧
    (∃ (m : Mach) (c ch q : Nat) (f : Flit) (fs : List Flit), f.marked = false ∧ f.why = .none ∧ f.attach = false ∧ q
      < 8 ∧ ∃ r, r ≠ q) ∧
    (∃ (s : State) (c : CoreIx) (ch : ChanIx) (q t : Nat) (f : Flit) (fs : List Flit),
      let k := s.m.core c
      k.loMsg ch = some (f, fs) ∧ msgQueue f = some q ∧ aget k.router.heldSince ch = some t ∧ f.op = 2 ∧ s.m.landRoom
        c f = true ∧ k.inBackstop q = false ∧ k.accepts q s.m.cc = true) ∧
    (∃ (s : State) (c : CoreIx) (ch : ChanIx) (q t : Nat) (x : Flit × List Flit),
      let k := s.m.core c
      k.loMsg ch = some x ∧ msgQueue x.1 = some q ∧ aget k.router.heldSince ch = some t ∧ t + 65536 ≤ s.m.cc ∧ aget
        k.router.heldSince (ch.val + 16) = none) ∧
    (∃ (s : State) (c : CoreIx) (q : QueueIx) (x : Ctx),
      let k := s.m.core c
      k.holdDue.contains q.val = true ∧ s.m.ctx (k.queueCid q) = some x ∧ x.dead.holdcap = true ∧ x.st ≠ .resetting ∧
        x.st ≠ .destroying ∧ (k.slot (k.queue q).slot.toNat).ctl.st = .running) :=
  ⟨⟨st (loC 2 [flit 2 2 2 7]), 0, 2, 7, flit 2 2 2 7, [flit 2 2 2 7], by decide +kernel⟩,
    ⟨st { loC 3 [flit 3 2 2 0] with queues := .replicate 8 { thresh := 0 } }, 0, 3, 0, flit 3 2 2 0, [flit 3 2 2 0],
      by decide +kernel⟩,
    ⟨mk core0, 0, 2, 7, flit 2 2 2 7, [flit 2 2 2 7], by decide +kernel, by decide +kernel, by decide +kernel,
      by decide +kernel, 6, by decide +kernel⟩,
    ⟨st heldC, 0, 2, 1, 5, flit 2 2 2 1, [flit 2 2 2 1], by decide +kernel⟩,
    ⟨st { heldC with router := { heldC.router with heldSince := [(2, 34464)] } }, 0, 2, 1, 34464, (flit 2 2 2 1, [flit 2
      2 2 1]), by decide +kernel⟩,
    ⟨stm
      { mk { slotC { ctl := ctl0 } with queues := vset (.replicate 8 {}) 1 { valid := true, slot := 0 }, holdDue := [1] } with ctxs := [(5, { ctx0 with dead := { holdcap := true } })] },
      0, 1, { ctx0 with dead := { holdcap := true } }, by decide +kernel⟩⟩

/-- The hypotheses of SignalsAndReleases can be met. -/
theorem witness_SignalsAndReleases :
    (∃ (s : State) (c : CoreIx) (f : Flit) (fs : List Flit),
      let k := s.m.core c
      k.loMsg 5 = some (f, fs) ∧ f.op = 3 ∧ k.clocksRun s.m.cc = true ∧ s.m.canAnswer c 1 1 f = true ∧ reqSpace f = 3
        ∧ reqOff f < 32) ∧
    (∃ (k : Core) (h : Nat) (f : Flit) (cc : Nat) (now : BitVec 64), fld f.pay.toNat 0 16 = 0) ∧
    (∃ (k : Core) (h : Nat) (f : Flit) (cc : Nat) (now : BitVec 64), fld f.pay.toNat 0 16 ≠ 0 ∧ ((k.huddle
      h).ledger.any (sameSignal (sigIdent f now))) = true) ∧
    (∃ (k : Core) (h : Nat) (f : Flit) (cc : Nat) (now : BitVec 64), h < 32 ∧ fld f.pay.toNat 0 16 ≠ 0 ∧ ((k.huddle
      h).ledger.any (sameSignal (sigIdent f now))) = false ∧ bitOf f.pay.toNat 51 = true ∧ (k.huddle h).floor ≠ 0 ∧
      fld f.pay.toNat 64 64 ≤ (k.huddle h).floor.toNat) ∧
    (∃ (k : Core) (h : Nat) (f : Flit) (cc : Nat) (now : BitVec 64), fld f.pay.toNat 0 16 ≠ 0 ∧ ((k.huddle
      h).ledger.any (sameSignal (sigIdent f now))) = false ∧ bitOf f.pay.toNat 51 = false) ∧
    (∃ (k : Core) (h amount cc : Nat) (own : Bool), h < 32 ∧ 0 < amount ∧ (k.huddle h).state ≠ 1 ∧ (∀ y, (k.huddle
      h).cyc = some y → y.at_ ≠ cc)) ∧
    (∃ (s : State) (c : CoreIx) (h : HudIx),
      let x := (s.m.core c).huddle h
      x.met = true ∧ x.mode = 0 ∧ x.releasedAt ≠ some s.m.cc ∧ (∀ y, x.cyc = some y → y.at_ ≠ s.m.cc)) ∧
    (∃ (s : State) (c : CoreIx) (sl : SlotIx) (b w : Nat),
      let v := (s.m.core c).slot sl
      v.ctl.st = .running ∧ v.ali.hlimit ≠ 0 ∧ v.run.tmo = false ∧ v.run.hwSince = some w ∧ w + v.ali.hlimit.toNat ≤
        s.m.now.toNat ∧ v.bundle = some b) :=
  ⟨⟨st (loC 5 [flit 5 3 3 31]), 0, flit 5 3 3 31, [flit 5 3 3 31], by decide +kernel⟩,
    ⟨core0, 0, flit 5 3 3 0, 0, 0, by decide +kernel⟩,
    ⟨core0.onHuddle 31 fun h => { h with ledger := [sigIdent (sigFlit 1) 0] }, 31, sigFlit 1, 0, 0, by decide +kernel⟩,
    ⟨core0.onHuddle 31 fun h => { h with floor := 9 }, 31, sigFlit (1 + 2 ^ 51 + 9 * 2 ^ 64), 0, 0, by decide +kernel⟩,
    ⟨core0, 31, sigFlit 65535, 0, 0, by decide +kernel⟩,
    ⟨core0, 31, 1, 0, true, by decide +kernel, by decide +kernel, by decide +kernel, of_none rfl⟩,
    ⟨st (core0.onHuddle 31 fun h => { h with state := 1, count := 3, target := 3 }), 0, 31, by decide +kernel,
      by decide +kernel, by decide +kernel, of_none (by decide +kernel)⟩,
    ⟨st (slotC { ctl := ctl0, ali := { hlimit := 333 }, run := { hwSince := some 8000, fbuf := [(0, 0)] } }), 0, 0, 0,
      8000, by decide +kernel⟩⟩

/-- The hypotheses of ResponsesArrive can be met. -/
theorem witness_ResponsesArrive :
    (∃ (s : State) (c : CoreIx) (ch : ChanIx) (f : Flit) (fs : List Flit) (i pc : Nat) (a : PendAcc),
      let k := s.m.core c
      let sl := f.tag.toNat / 64
      let rid := f.tag.toNat % 64
      (ch.val = 1 ∨ ch.val = 4) ∧ k.loMsg ch = some (f, fs) ∧ f.op = 4 ∧ f.why = .store i pc ∧ f.err = false ∧ f.bad =
        [] ∧ sl < 4 ∧ ((k.slot sl).run.accs.find? fun a => a.rid == some rid) = some a) ∧
    (∃ (s : State) (c : CoreIx) (f : Flit) (fs : List Flit) (i : SlotIx) (pc : Nat), (s.m.core c).loMsg 1 = some (f,
      fs) ∧ f.op = 5 ∧ f.why = .store i pc ∧ f.err = false) ∧
    (∃ (s : State) (c : CoreIx) (f : Flit) (fs : List Flit), (s.m.core c).loMsg 5 = some (f, fs) ∧ f.op = 6) :=
  ⟨⟨st (dataC 4), 0, 4, dataFlit, [dataFlit], 3, 0, { rd := 31, rid := some 2 }, by decide +kernel⟩,
    ⟨st (loC 1 [{ flit 1 5 0 0 with why := .store 3 16 }]), 0, { flit 1 5 0 0 with why := .store 3 16 },
      [{ flit 1 5 0 0 with why := .store 3 16 }], 3, 16, by decide +kernel⟩,
    ⟨st (loC 5 [flit 5 6 0 0]), 0, flit 5 6 0 0, [flit 5 6 0 0], by decide +kernel⟩⟩

/-- The hypotheses of FlitsTravel can be met. -/
theorem witness_FlitsTravel :
    (∃ (s : State) (c : CoreIx) (p : MPort) (ch : ChanIx) (det : Bool) (ev : LinkEv) (f : Flit) (o : Nat) (x : Cand),
      let key := bufKey (portNum p) ch det
      p ≠ .loc ∧ s.m.routerOk c = true ∧ (s.m.field (fieldOf c)).ring = .on ∧ (s.m.core c).headAt key s.m.cc = some f
        ∧ f.mc = false ∧ s.m.nextHop c f ≠ .stop ∧ (s.m.nextHop c f = .arrive → s.m.served c f = true ∧ flitLegal f =
        true) ∧ s.m.grantOf c key = some (o, x) ∧ x.leg = none) ∧
    (∃ (s : State) (c : CoreIx) (p : MPort) (ch : ChanIx) (det : Bool) (ev : LinkEv) (f : Flit),
      let key := bufKey (portNum p) ch det
      p ≠ .loc ∧ s.m.routerOk c = true ∧ (s.m.field (fieldOf c)).ring = .on ∧ (s.m.core c).headAt key s.m.cc = some f
        ∧ f.mc = false ∧ (s.m.nextHop c f = .stop ∨ (s.m.nextHop c f = .arrive ∧ s.m.served c f = false)) ∧
        s.m.canAnswer c 1 1 f = true) ∧
    (∃ (s : State) (c : CoreIx) (p : MPort) (ch : ChanIx) (det : Bool) (ev : LinkEv) (f : Flit),
      let key := bufKey (portNum p) ch det
      p ≠ .loc ∧ s.m.routerOk c = true ∧ (s.m.field (fieldOf c)).ring = .on ∧ (s.m.core c).headAt key s.m.cc = some f
        ∧ f.mc = false ∧ s.m.nextHop c f = .arrive ∧ s.m.served c f = true ∧ opLegal f = false) ∧
    (∃ (s : State) (c : CoreIx) (p : MPort) (ch : ChanIx) (det : Bool) (ev : LinkEv) (f : Flit) (o : Nat) (x : Cand)
      (g : Nat × Leg),
      let key := bufKey (portNum p) ch det
      let m := s.m.mcSettle c key f
      p ≠ .loc ∧ s.m.routerOk c = true ∧ (s.m.field (fieldOf c)).ring = .on ∧ (s.m.core c).headAt key s.m.cc = some f
        ∧ f.mc = true ∧ m.grantOf c key = some (o, x) ∧ x.leg = some g) ∧
    (∃ (m : Mach) (c key : Nat) (f : Flit), f.tail = true) ∧
    (∃ c dest : Nat, coreX c < coreX dest) ∧
    (∃ c dest : Nat, coreX dest < coreX c) ∧
    (∃ c dest : Nat, coreX c = coreX dest ∧ coreY c < coreY dest) ∧
    (∃ c dest : Nat, coreX c = coreX dest ∧ coreY dest < coreY c) ∧
    (∃ (m : Mach) (c o : Nat) (x : Cand) (n : Nat),
      let f := x.flit
      let b := bufKey ((o + 2) % 4) f.chan f.det
      nbr c o = some n ∧ n ≠ c ∧ o < 4 ∧ f.chan < 5 ∧ f.purged = false ∧ (f.head = true ∨ aget (m.core
        n).router.rejoin b = none) ∧ ((m.core n).inP ((o + 2) % 4)).expect = ((m.core c).outP o).seq) ∧
    (∃ (k : Core) (key cc : Nat) (f : Flit) (fs : List Flit), k.inBuf key = f :: fs) :=
  ⟨⟨st (inC 1 0 (flit 0 0 0 0)), 0, .east, 0, false, .good, flit 0 0 0 0, 4, (((st (inC 1 0 (flit 0 0 0 0))).m.grantOf 0
    (bufKey 1 0 false)).getD default).2, by decide +kernel⟩,
    ⟨stm { mach with cores := [(385, inC 3 0 { flit 0 0 0 0 with target := BitVec.ofNat 60 (waOf 0 386 0) })] }, 385,
      .west, 0, false, .good, { flit 0 0 0 0 with target := BitVec.ofNat 60 (waOf 0 386 0) }, by decide +kernel⟩,
    ⟨st (inC 1 0 (flit 0 5 0 0)), 0, .east, 0, false, .good, flit 0 5 0 0, by decide +kernel⟩,
    ⟨st (inC 3 3 mcFlit), 0, .west, 3, false, .good, mcFlit, (((st (inC 3 3 mcFlit)).m.mcSettle 0 (bufKey 3 3 false)
      mcFlit).grantOf 0 (bufKey 3 3 false)).getD default |>.1, (((st (inC 3 3 mcFlit)).m.mcSettle 0 (bufKey 3 3 false)
      mcFlit).grantOf 0 (bufKey 3 3 false)).getD default |>.2, (((((st (inC 3 3 mcFlit)).m.mcSettle 0 (bufKey 3 3 false)
      mcFlit).grantOf 0 (bufKey 3 3 false)).getD default).2.leg).getD default, by decide +kernel⟩,
    ⟨mk core0, 0, 0, flit 0 3 0 0, by decide +kernel⟩,
    ⟨0, 383, by decide +kernel⟩,
    ⟨383, 0, by decide +kernel⟩,
    ⟨0, 128640, by decide +kernel⟩,
    ⟨128640, 0, by decide +kernel⟩,
    ⟨mk core0, 0, 1, { flit := { flit 4 0 0 0 with target := BitVec.ofNat 60 (waOf 0 1 0) } }, 1, by decide +kernel⟩,
    ⟨inC 1 0 (flit 0 0 0 0), bufKey 1 0 false, 0, flit 0 0 0 0, [], by decide +kernel⟩⟩

/-- The hypotheses of LetsAndRetrains can be met. -/
theorem witness_LetsAndRetrains :
    (∃ (s : State) (c : CoreIx) (p : MPort) (ev : LinkEv),
      let o := portNum p
      let out := (s.m.core c).outP o
      o < 4 ∧ out.held = false ∧ out.owed ≠ [] ∧ s.m.dirWidth c o ≠ 1 ∧ out.lets < 7) ∧
    (∃ (s : State) (c : CoreIx) (p : MPort) (ev : LinkEv),
      let o := portNum p
      let out := (s.m.core c).outP o
      o < 4 ∧ out.held = false ∧ out.owed ≠ [] ∧ s.m.dirWidth c o ≠ 1 ∧ 7 ≤ out.lets) ∧
    (∃ (s : State) (c : CoreIx) (p : MPort) (w : Fin 4),
      let o := portNum p
      let out := (s.m.core c).outP o
      o < 4 ∧ out.held = true ∧ 1 ≤ w.val ∧ (nbr c o).isSome = true ∧ w.val = 1) ∧
    (∃ (s : State) (c : CoreIx) (p : MPort) (w : Fin 4),
      let o := portNum p
      let out := (s.m.core c).outP o
      o < 4 ∧ out.held = true ∧ 1 ≤ w.val ∧ (nbr c o).isSome = true ∧ 2 ≤ w.val) ∧
    (∃ (m : Mach) (c o n extra : Nat) (f : Flit), nbr c o = some n ∧ n ≠ c ∧ ((m.core c).outP o).replay = [f] ∧
      f.ackAt = none ∧ f.purged = false ∧ f.head = true ∧ ((m.core n).inP ((o + 2) % 4)).expect = f.hseq) ∧
    (∃ (m : Mach) (c o n : Nat) (f : Flit), nbr c o = some n ∧ n ≠ c ∧ f.chan < 8 ∧ ((m.core c).outP o).replay = [f] ∧
      ((m.core c).outP o).busyIn = [] ∧ f.ackAt = none ∧ f.purged = false ∧ f.mc = false) :=
  ⟨⟨st (outC { replay := [flit 0 0 0 0], lets := 6 }), 0, .east, .good, by decide +kernel⟩,
    ⟨st (outC { replay := [flit 0 0 0 0], lets := 7 }), 0, .east, .good, by decide +kernel⟩,
    ⟨st (outC { replay := [flit 0 0 0 0], lets := 8, held := true }), 0, .east, 1, by decide +kernel⟩,
    ⟨st (outC { replay := [flit 0 0 0 0], lets := 8, held := true }), 0, .east, 2, by decide +kernel⟩,
    ⟨mk (outC { replay := [flit 0 0 0 0] }), 0, 1, 1, 0, flit 0 0 0 0, by decide +kernel⟩,
    ⟨mk (outC { replay := [flit 0 0 0 0] }), 0, 1, 1, flit 0 0 0 0, by decide +kernel⟩⟩

/-- The hypotheses of RegistersAndTablesOfRouters can be met. -/
theorem witness_RegistersAndTablesOfRouters :
    (∃ (s : State) (c : CoreIx) (es : List (BitVec 32)), s.m.wafer.newDetours = []) ∧
    (∃ (s : State) (c : CoreIx) (p : MPort) (ch : ChanIx) (det : Bool) (f : Flit) (fs : List Flit),
      let key := bufKey (portNum p) ch det
      p ≠ .loc ∧ (s.m.core c).inBuf key = f :: fs ∧ f.head = true ∧ f.promoted = false ∧ f.front + 256 ≤ s.m.cc) ∧
    (∃ (s : State) (c : CoreIx),
      let k := s.m.core c
      (agetD k.router.cnt cntSampleAt 0).toNat + 1024 ≤ s.m.cc ∧ s.m.routerOk c = true ∧ (s.m.field (fieldOf c)).ring
        = .on ∧ s.m.cc < 2 ^ 64) ∧
    (∃ (s : State) (f : FnIx) (i : Fin 8) (v : BitVec 64), f.val < mgmtFn) ∧
    (∃ (s : State) (f : FnIx) (v : BitVec 64), f.val < mgmtFn) ∧
    (∃ (m : Mach) (c s o x : Nat), ((0x800 ≤ o ∧ o < 0x900) ∨ 0xB00 ≤ o)) ∧
    (∃ (m : Mach) (c s x : Nat), s < 4 ∧ (m.core c).allEmpty = false) :=
  ⟨⟨st core0, 0, [], by decide +kernel⟩,
    ⟨st (inC 1 0 { flit 0 0 0 0 with front := 99744 }), 0, .east, 0, false, { flit 0 0 0 0 with front := 99744 }, [],
      by decide +kernel⟩,
    ⟨st { core0 with router := { cnt := [(cntSampleAt, 98976)] } }, 0, by decide +kernel⟩,
    ⟨st core0, 511, 7, 0, by decide +kernel⟩,
    ⟨st core0, 511, 1, by decide +kernel⟩,
    ⟨mk core0, 0, 0, 0xB00, 0, by decide +kernel⟩,
    ⟨mk (slotC { ctl := ctl0 }), 0, 3, 0x3F, by decide +kernel⟩⟩

/-- The hypotheses of NodesAndSteeringUnitsFire can be met. -/
theorem witness_NodesAndSteeringUnitsFire :
    (∃ (s : State) (c : CoreIx) (sl i : Nat) (spare : Bool) (p : Plane),
      let m := (s.m.issueCycle c).2
      let b := (lget p.nodes i).toNat
      (s.m.issueCycle c).1 = some (sl, spare) ∧ m.nextNode c sl = some i ∧ ((m.core c).slot sl).plane = some p ∧
        m.bundleFault c sl b = none) ∧
    (∃ (s : State) (c : CoreIx) (sl : SlotIx) (u : Fin 4) (p : Plane) (pops : List Nat) (q o : Nat),
      let k := s.m.core c
      k.plane sl = some p ∧ k.steerPlan sl (lget p.steer u) s.m.cc = some (pops, some (q, o)) ∧ s.m.portRoom c sl o
        (msgAt k q 0).chunks.length 0 = true ∧ (k.slot sl).ctl.st = .running ∧ k.clocksRun s.m.cc = true ∧ aget
        p.steerAt u ≠ some s.m.cc ∧ aget p.steerOut u = none) ∧
    (∃ (s : State) (c : CoreIx) (sl : SlotIx) (u : Fin 4) (p : Plane) (pops : List Nat),
      let k := s.m.core c
      k.plane sl = some p ∧ k.steerPlan sl (lget p.steer u) s.m.cc = some (pops, none) ∧ (k.slot sl).ctl.st = .running
        ∧ k.clocksRun s.m.cc = true ∧ aget p.steerAt u ≠ some s.m.cc ∧ aget p.steerOut u = none) ∧
    (∃ (m : Mach) (c s u v : Nat) (p : Plane) (chunks : List (BitVec 256)), (m.core c).plane s = some p ∧ aget
      p.steerOut u = some (v, chunks) ∧ m.canSend c ((m.core c).slot s).ctl.cid.toNat v (max 1 chunks.length) 0 = true) ∧
    (∃ (k : Core) (s : Nat) (e : Steer) (cc : Nat),
      let has := fun q : BitVec 3 => k.steerQueue s q.toNat = true ∧ k.available q.toNat cc ≠ 0
      ¬ has e.qc) ∧
    (∃ (k : Core) (s : Nat) (e : Steer) (cc : Nat),
      let has := fun q : BitVec 3 => k.steerQueue s q.toNat = true ∧ k.available q.toNat cc ≠ 0
      has e.qc ∧ e.kind = 1 ∧ has e.qa) ∧
    (∃ (k : Core) (s : Nat) (e : Steer) (cc : Nat),
      let t := isTrue (msgAt k e.qc.toNat 0)
      let has := fun q : BitVec 3 => k.steerQueue s q.toNat = true ∧ k.available q.toNat cc ≠ 0
      has e.qc ∧ e.kind = 2 ∧ t = true ∧ has e.qa) ∧
    (∃ (k : Core) (s : Nat) (e : Steer) (cc : Nat),
      let t := isTrue (msgAt k e.qc.toNat 0)
      let has := fun q : BitVec 3 => k.steerQueue s q.toNat = true ∧ k.available q.toNat cc ≠ 0
      has e.qc ∧ e.kind = 2 ∧ t = false ∧ has e.qb) ∧
    (∃ (k : Core) (s : Nat) (e : Steer) (cc : Nat),
      let t := isTrue (msgAt k e.qc.toNat 0)
      let has := fun q : BitVec 3 => k.steerQueue s q.toNat = true ∧ k.available q.toNat cc ≠ 0
      has e.qc ∧ e.kind = 3 ∧ t = true ∧ has e.qa) ∧
    (∃ (k : Core) (s : Nat) (e : Steer) (cc : Nat),
      let t := isTrue (msgAt k e.qc.toNat 0)
      let has := fun q : BitVec 3 => k.steerQueue s q.toNat = true ∧ k.available q.toNat cc ≠ 0
      has e.qc ∧ e.kind = 3 ∧ t = false ∧ has e.qa) ∧
    (∃ (k : Core) (s : Nat) (e : Steer) (cc : Nat), ∃ q : Nat, k.steerQueue s q = true) :=
  ⟨⟨st (planeC { nodes := [0] }), 0, 0, 0, (((st (planeC { nodes := [0] })).m.issueCycle 0).1.map (·.2)).getD false,
    { nodes := [0] }, by decide +kernel⟩,
    ⟨st (steerC 1 1), 0, 0, 0, (steerC 1 1).plane 0 |>.getD {}, [1, 0], 0, 2, by decide +kernel⟩,
    ⟨st (steerC 3 0), 0, 0, 0, (steerC 3 0).plane 0 |>.getD {}, [1, 0], by decide +kernel⟩,
    ⟨mk (planeC { steerOut := [(3, (0, [7]))] }), 0, 0, 3, 0, { steerOut := [(3, (0, [7]))] }, [7], by decide +kernel⟩,
    ⟨core0, 0, {}, 0, by decide +kernel⟩,
    ⟨steerC 1 1, 0, { kind := 1, qc := 1, qa := 0, ot := 2, off := 3 }, 1, by decide +kernel⟩,
    ⟨steerC 2 1, 0, { kind := 2, qc := 1, qa := 0, qb := 7, ot := 2 }, 1, by decide +kernel⟩,
    ⟨steerC 2 0, 0, { kind := 2, qc := 1, qa := 7, qb := 0, ot := 2 }, 1, by decide +kernel⟩,
    ⟨steerC 3 1, 0, { kind := 3, qc := 1, qa := 0, ot := 2 }, 1, by decide +kernel⟩,
    ⟨steerC 3 0, 0, { kind := 3, qc := 1, qa := 0, ot := 2 }, 1, by decide +kernel⟩,
    ⟨steerC 1 1, 0, {}, 0, 1, by decide +kernel⟩⟩

/-- The hypotheses of DeadlockDetectorRuns can be met. -/
theorem witness_DeadlockDetectorRuns :
    (∃ (s : State) (c : CoreIx) (sl : SlotIx) (p : Plane), (s.m.core c).plane sl = some p ∧ p.phase = .window ∧
      p.since + p.window ≤ s.m.cc ∧ s.m.isHome c p = true ∧ ((s.m.core c).slot sl).ctl.st = .running) ∧
    (∃ (s : State) (c : CoreIx) (sl : SlotIx) (p : Plane), (s.m.core c).plane sl = some p ∧ p.phase = .probe1 ∧
      p.since + s.m.circuitTime p ≤ s.m.cc ∧ s.m.circuitTime p ≤ p.window ∧ (circuit p.rect).length ≤ p.probe.visited) ∧
    (∃ (s : State) (c : CoreIx) (sl : SlotIx) (p : Plane), (s.m.core c).plane sl = some p ∧ p.phase = .probe2 ∧
      p.since + s.m.circuitTime p ≤ s.m.cc ∧ s.m.circuitTime p ≤ p.window ∧ (circuit p.rect).length ≤ p.probe.visited
      ∧ (p.probe.quiet = false ∨ s.m.firstStuck p.probe.stuck = none)) ∧
    (∃ (s : State) (c : CoreIx) (sl : SlotIx) (p : Plane), (s.m.core c).plane sl = some p ∧ p.phase = .probe2 ∧
      p.since + s.m.circuitTime p ≤ s.m.cc ∧ s.m.circuitTime p ≤ p.window ∧ (circuit p.rect).length ≤ p.probe.visited
      ∧ ∃ x, p.probe.quiet = true ∧ s.m.firstStuck p.probe.stuck = some x) ∧
    (∃ (s : State) (c : CoreIx) (sl : SlotIx) (p : Plane), (s.m.core c).plane sl = some p ∧ (p.phase = .probe1 ∨
      p.phase = .probe2) ∧ p.since + p.window ≤ s.m.cc) ∧
    (∃ (s : State) (c : CoreIx) (sl : SlotIx) (p : Plane),
      let m := s.m.toPhase c sl .window
      (s.m.core c).plane sl = some p ∧ p.phase = .trace ∧ p.probe.cur = none ∧ p.probe.next ≤ s.m.cc ∧ ∃ x,
        m.chooseSpill p.probe.loop = some x) ∧
    (∃ (s : State) (c : CoreIx) (sl : SlotIx) (p : Plane),
      let m := s.m.toPhase c sl .window
      (s.m.core c).plane sl = some p ∧ p.phase = .trace ∧ p.probe.cur = none ∧ p.probe.next ≤ s.m.cc ∧ m.chooseSpill
        p.probe.loop = none) :=
  ⟨⟨st (planeC { nodes := [0], since := 95904 }), 0, 0, { nodes := [0], since := 95904 }, by decide +kernel⟩,
    ⟨st (planeC { nodes := [0], phase := .probe1, probe := { visited := 1 } }), 0, 0,
      { nodes := [0], phase := .probe1, probe := { visited := 1 } }, by decide +kernel⟩,
    ⟨st (planeC { nodes := [0], phase := .probe2, probe := { visited := 1, quiet := false } }), 0, 0,
      { nodes := [0], phase := .probe2, probe := { visited := 1, quiet := false } }, by decide +kernel⟩,
    ⟨st (planeC { nodes := [0], phase := .probe2, probe := { visited := 1, stuck := [(0, 7)] } }), 0, 0,
      { nodes := [0], phase := .probe2, probe := { visited := 1, stuck := [(0, 7)] } }, by decide +kernel,
      by decide +kernel, by decide +kernel, by decide +kernel, by decide +kernel, (0, 7), by decide +kernel⟩,
    ⟨st (planeC { nodes := [0], phase := .probe2, since := 95904 }), 0, 0,
      { nodes := [0], phase := .probe2, since := 95904 }, by decide +kernel⟩,
    ⟨st (planeC { nodes := [0], phase := .trace, probe := { loop := [(0, 7)] } }), 0, 0,
      { nodes := [0], phase := .trace, probe := { loop := [(0, 7)] } }, by decide +kernel, by decide +kernel,
      by decide +kernel, by decide +kernel, (0, 7), by decide +kernel⟩,
    ⟨st (planeC { nodes := [0], phase := .trace }), 0, 0, { nodes := [0], phase := .trace }, by decide +kernel⟩⟩

/-- The hypotheses of BackstopAndQueueDepths can be met. -/
theorem witness_BackstopAndQueueDepths :
    (∃ (s : State) (c : CoreIx) (q : QueueIx) (home : Nat × Nat) (homes : List (Nat × Nat)),
      let m := s.m.onPlane home.1 home.2 fun p => { p with order := none }
      s.m.orderHomes c q = home :: homes ∧ m.isStuck c q = false) ∧
    (∃ (s : State) (c : CoreIx) (q : QueueIx) (home : Nat × Nat) (homes : List (Nat × Nat)),
      let m := s.m.onPlane home.1 home.2 fun p => { p with order := none }
      let sl := ((m.core c).queue q).slot.toNat
      s.m.orderHomes c q = home :: homes ∧ ∃ p, m.isStuck c q = true ∧ (m.core c).plane sl = some p ∧ p.bsSize = 0) ∧
    (∃ (s : State) (c : CoreIx) (q : QueueIx) (home : Nat × Nat) (homes : List (Nat × Nat)),
      let m := s.m.onPlane home.1 home.2 fun p => { p with order := none }
      let sl := ((m.core c).queue q).slot.toNat
      s.m.orderHomes c q = home :: homes ∧ ∃ p, m.isStuck c q = true ∧ (m.core c).plane sl = some p ∧ p.bsSize ≠ 0) ∧
    (∃ (s : State) (c : CoreIx) (q : QueueIx) (x : Xfer) (p : Plane),
      let k := s.m.core c
      let fit := fitting (ringSize p - (agetD p.rings q.val {}).occ) (k.queue q).msgs
      k.xferDone 0 q = some x ∧ k.plane (k.queue q).slot.toNat = some p ∧ fit.length = (k.queue q).msgs.length) ∧
    (∃ (s : State) (c : CoreIx) (q : QueueIx) (x : Xfer) (p : Plane),
      let k := s.m.core c
      let fit := fitting (ringSize p - (agetD p.rings q.val {}).occ) (k.queue q).msgs
      k.xferDone 0 q = some x ∧ k.plane (k.queue q).slot.toNat = some p ∧ fit.length < (k.queue q).msgs.length) ∧
    (∃ (s : State) (c : CoreIx) (ch : ChanIx) (f : Flit) (fs : List Flit) (q : Nat) (p : Plane),
      let k := s.m.core c
      let sl := (k.queue q).slot.toNat
      let r := agetD p.rings q {}
      let x := qMsgOf fs f s.m.cc s.m.now
      k.loMsg ch = some (f, fs) ∧ (ch.val = 2 ∨ ch.val = 3) ∧ f.op = 2 ∧ msgQueue f = some q ∧ k.plane sl = some p ∧
        r.active = true ∧ k.hasRoom 4 1 1 = true ∧ k.clocksRun s.m.cc = true ∧ r.occ + recBytes x ≤ ringSize p) ∧
    (∃ (s : State) (c : CoreIx) (ch : ChanIx) (f : Flit) (fs : List Flit) (q : Nat) (p : Plane),
      let k := s.m.core c
      let sl := (k.queue q).slot.toNat
      let r := agetD p.rings q {}
      let x := qMsgOf fs f s.m.cc s.m.now
      k.loMsg ch = some (f, fs) ∧ (ch.val = 2 ∨ ch.val = 3) ∧ f.op = 2 ∧ msgQueue f = some q ∧ k.plane sl = some p ∧
        r.active = true ∧ k.hasRoom 4 1 1 = true ∧ k.clocksRun s.m.cc = true ∧ ringSize p < r.occ + recBytes x ∧
        (k.slot sl).ctl.st = .running ∧ (c.val, sl) ∈ s.m.regionPlanes (s.m.slotCid c sl) p.region) ∧
    (∃ (s : State) (c : CoreIx) (q : QueueIx) (p : Plane) (e : RingRec) (es : List RingRec) (x : Xfer),
      let k := s.m.core c
      let sl := (k.queue q).slot.toNat
      k.plane sl = some p ∧ (agetD p.rings q.val {}).recs = e :: es ∧ k.xferDone 2 q = some x) ∧
    (∃ (s : State) (c : CoreIx) (q : QueueIx) (p : Plane) (e : RingRec) (es : List RingRec),
      let k := s.m.core c
      let sl := (k.queue q).slot.toNat
      k.plane sl = some p ∧ (agetD p.rings q.val {}).recs = e :: es ∧ (agetD p.rings q.val {}).active = true ∧ k.xfers
        = [] ∧ (k.queue q).msgs.length < (k.queue q).thresh.toNat) ∧
    (∃ (s : State) (c : CoreIx) (sl : SlotIx) (p : Plane),
      let k := s.m.core c
      k.plane sl = some p ∧ p.speriod ≠ 0 ∧ p.lastSample + p.speriod ≤ s.m.cc ∧ (k.slot sl).ctl.st = .running) ∧
    (∃ (k : Core) (q : Nat), 0 < (k.queue q).thresh.toNat ∧ (k.ring q).active = false ∧ (k.queue q).msgs = []) ∧
    (∃ (k : Core) (q : Nat), 0 < (k.queue q).thresh.toNat ∧ (k.ring q).active = false ∧ (k.queue q).thresh.toNat ≤
      (k.queue q).msgs.length) ∧
    (∃ (k : Core) (q : Nat), 0 < (k.queue q).thresh.toNat ∧ (k.ring q).active = false ∧ 0 < (k.queue q).msgs.length ∧
      (k.queue q).msgs.length < (k.queue q).thresh.toNat) :=
  ⟨⟨st (planeC { order := some { at_ := 100000 } }), 0, 0, (0, 0), [], by decide +kernel⟩,
    ⟨st (stuckC { order := some { at_ := 100000 } }), 0, 0, (0, 0), [], by decide +kernel, stuckPlane {},
      by decide +kernel⟩,
    ⟨st (stuckC { order := some { at_ := 100000 }, bsSize := 0x1000 }), 0, 0, (0, 0), [], by decide +kernel, stuckPlane
      { bsSize := 0x1000 }, by decide +kernel⟩,
    ⟨st
      { planeC { bsSize := 0x1000 } with xfers := [{ kind := 0, queue := 7 }], queues := vset (.replicate 8 {}) 7 { valid := true, msgs := [msg1] } },
      0, 7, { kind := 0, queue := 7 }, { bsSize := 0x1000 }, by decide +kernel⟩,
    ⟨st
      { planeC {} with xfers := [{ kind := 0, queue := 7 }], queues := vset (.replicate 8 {}) 7 { valid := true, msgs := [msg1] } },
      0, 7, { kind := 0, queue := 7 }, {}, by decide +kernel⟩,
    ⟨st
      { planeC { rings := [(0, { active := true })], bsSize := 0x1000 } with router := { lo := [(3, [flit 3 2 2 0])] } },
      0, 3, flit 3 2 2 0, [flit 3 2 2 0], 0, { rings := [(0, { active := true })], bsSize := 0x1000 },
      by decide +kernel⟩,
    ⟨st { planeC { rings := [(0, { active := true })] } with router := { lo := [(3, [flit 3 2 2 0])] } }, 0, 3, flit 3 2
      2 0, [flit 3 2 2 0], 0, { rings := [(0, { active := true })] }, by decide +kernel⟩,
    ⟨st { planeC ringPlane with xfers := [{ kind := 2, queue := 0 }] }, 0, 0, ringPlane, {}, [],
      { kind := 2, queue := 0 }, by decide +kernel⟩,
    ⟨st (planeC ringPlane), 0, 0, ringPlane, {}, [], by decide +kernel⟩,
    ⟨st (planeC { speriod := 4096, lastSample := 95904 }), 0, 0, { speriod := 4096, lastSample := 95904 },
      by decide +kernel⟩,
    ⟨core0, 0, by decide +kernel⟩,
    ⟨core0.onQueue 0 (fun q => { q with thresh := 1, msgs := [msg1] }), 0, by decide +kernel⟩,
    ⟨core0.onQueue 0 (fun q => { q with thresh := 2, msgs := [msg1] }), 0, by decide +kernel⟩⟩

/-- The hypotheses of ContextsAreCreatedAndConfigured can be met. -/
theorem witness_ContextsAreCreatedAndConfigured :
    (∃ (s : State) (f : FnIx) (tag : BitVec 16) (x : Cmd) (cid : Nat), s.m.Turn f tag.toNat 0x0100 x ∧ (∀ c, c < cid →
      (s.m.ctx c).isSome = true) ∧ cid < 1024 ∧ s.m.ctx cid = none ∧ s.m.boot.life ≠ .retired ∧ (s.m.boot.life =
      .manufacture → bitOf (le x.arg 0 1) 0 = true)) ∧
    (∃ (s : State) (f : FnIx) (tag : BitVec 16) (x : Cmd), s.m.Turn f tag.toNat 0x0100 x ∧ (∀ c, c < 1024 → (s.m.ctx
      c).isSome = true)) ∧
    (∃ (s : State) (f : FnIx) (tag : BitVec 16) (x : Cmd) (y : Ctx) (b : Bytes),
      let c := (readBlock (padTo b x.len)).merge
      s.m.Turn f tag.toNat 0x0101 x ∧ s.m.ctx x.cid = some y ∧ (y.st = .created ∨ y.st = .admitted) ∧ s.m.ctxIdle
        x.cid = true ∧ x.fn ≠ mgmtFn ∧ (s.m.begun x).admission x.cid y.dbg c = none) ∧
    (∃ (s : State) (f : FnIx) (tag : BitVec 16) (x : Cmd) (y : Ctx) (b : Bytes),
      let c := (readBlock (padTo b x.len)).merge
      s.m.Turn f tag.toNat 0x0101 x ∧ s.m.ctx x.cid = some y ∧ (y.st = .created ∨ y.st = .admitted) ∧ s.m.ctxIdle
        x.cid = true ∧ x.fn ≠ mgmtFn ∧ ∃ r, (s.m.begun x).admission x.cid y.dbg c = some r) ∧
    (∃ (s : State) (f : FnIx) (tag : BitVec 16) (x : Cmd) (y : Ctx) (data : Option Bytes), s.m.Turn f tag.toNat 0x0101
      x ∧ s.m.ctx x.cid = some y ∧ (y.st = .created ∨ y.st = .admitted) ∧ s.m.ctxIdle x.cid = false) :=
  ⟨⟨stm { hostM (cmd 0x0100 [0]) with ctxs := [(0, ctx0), (2, ctx0)] }, 0, 1, cmd 0x0100 [0], 1, turnOf
    (by decide +kernel), by decide +kernel⟩,
    ⟨stm fullM, 0, 1, cmd 0x0100 [0], turnOf (by decide +kernel), fun c h => aget_range' {} c 1024 0 (Nat.zero_le c) (by
      omega)⟩,
    ⟨stm (idleM cfgCmd), 0, 1, cfgCmd, ctx0, cfgBlock, turnOf (by decide +kernel), by decide +kernel⟩,
    ⟨stm (idleM cfgCmd), 0, 1, cfgCmd, ctx0, [1], turnOf (by decide +kernel), by decide +kernel, by decide +kernel,
      by decide +kernel, by decide +kernel, (((idleM cfgCmd).begun cfgCmd).admission 5 false (readBlock (padTo [1]
      8)).merge).getD {}, by decide +kernel⟩,
    ⟨hst cfgCmd, 0, 1, cfgCmd, ctx0, none, turnOf (by decide +kernel), by decide +kernel⟩⟩

/-- The hypotheses of ContextsAreResetAndDestroyed can be met. -/
theorem witness_ContextsAreResetAndDestroyed :
    (∃ (s : State) (f : FnIx) (tag : BitVec 16) (x : Cmd) (y : Ctx), s.m.Turn f tag.toNat 0x0102 x ∧ s.m.moving f
      tag.toNat 0x0102 = false ∧ s.m.ctx x.cid = some y ∧ y.st = .admitted ∧ le x.arg 0 1 ≤ 7) ∧
    (∃ (s : State) (f : FnIx) (tag : BitVec 16) (x : Cmd) (y : Ctx), s.m.Turn f tag.toNat 0x0103 x ∧ s.m.moving f
      tag.toNat 0x0103 = false ∧ s.m.ctx x.cid = some y ∧ (y.st = .admitted ∨ y.st = .created) ∧ s.m.partitionWaits
      (s.m.otherSlots x.cid) [] ((y.slots.map fun z => z.core).eraseDups) = false) ∧
    (∃ (s : State) (f : FnIx) (tag : BitVec 16) (x : Cmd) (y : Ctx), s.m.Turn f tag.toNat 0x0103 x ∧ s.m.moving f
      tag.toNat 0x0103 = false ∧ s.m.ctx x.cid = some y ∧ y.st = .resetting ∧ y.heldDestroy = none) ∧
    (∃ (k : Core) (cid opts cc i : Nat), i ∈ k.slotsOf cid ∧ i < 4 ∧ ∃ q, q < 8 ∧ (k.queue q).valid = true ∧ (k.queue
      q).slot.toNat = i) ∧
    (∃ (k : Core) (cid opts cc i : Nat), i < 4 ∧ i ∉ k.slotsOf cid) :=
  ⟨⟨hst (cmd 0x0102 [7]), 0, 1, cmd 0x0102 [7], ctx0, turnOf (by decide +kernel), by decide +kernel⟩,
    ⟨hst (cmd 0x0103 []), 0, 1, cmd 0x0103 [], ctx0, turnOf (by decide +kernel), by decide +kernel⟩,
    ⟨stm { hostM (cmd 0x0103 []) with ctxs := [(5, { ctx0 with st := .resetting })] }, 0, 1, cmd 0x0103 [],
      { ctx0 with st := .resetting }, turnOf (by decide +kernel), by decide +kernel⟩,
    ⟨(slotC { ctl := ctl0 }).onQueue 7 (fun q => { q with valid := true }), 5, 7, 0, 0, by decide +kernel,
      by decide +kernel, 7, by decide +kernel⟩,
    ⟨slotC { ctl := ctl0 }, 5, 7, 0, 3, by decide +kernel⟩⟩

/-- The hypotheses of BucketsReachAndHangLimit can be met. -/
theorem witness_BucketsReachAndHangLimit :
    (∃ (s : State) (b : BucketName) (x : Bucket), aget s.m.buckets (bucketKey b).1 = some x ∧ x.at_ + (bucketKey b).2
      ≤ s.m.cc) ∧
    (∃ (s : State) (cid : BitVec 10) (x : Ctx), s.m.ctx cid.toNat = some x ∧ x.st = .admitted ∧ s.m.overSegsOf
      cid.toNat x = []) ∧
    (∃ (s : State) (cid : BitVec 10) (x : Ctx) (g : Nat) (gs : List Nat), s.m.ctx cid.toNat = some x ∧ x.st =
      .admitted ∧ s.m.overSegsOf cid.toNat x = g :: gs) ∧
    (∃ (s : State) (cid : BitVec 10) (x : Ctx) (t : Nat), s.m.ctx cid.toNat = some x ∧ x.replaceAt = some t ∧ t +
      12000000000 ≤ s.m.cc ∧ x.overSegs ≠ [] ∧ (∀ g ∈ x.overSegs, g ∈ s.m.ctxReach x)) ∧
    (∃ (s : State) (cid : BitVec 10) (x : Ctx), s.m.ctx cid.toNat = some x ∧ x.st = .admitted ∧ x.dead.hang ≠ 0 ∧
      x.dead.hang * 1200000 ≤ x.clock ∧ s.m.ctxLive cid.toNat = true) :=
  ⟨⟨stm { mk core0 with buckets := [((bucketKey (.injection 0 5)).1, { tokens := 5, rate := 4, at_ := 99936 })] },
    .injection 0 5, { tokens := 5, rate := 4, at_ := 99936 }, by decide +kernel⟩,
    ⟨stm { mk core0 with ctxs := [(5, ctx0)] }, 5, ctx0, by decide +kernel⟩,
    ⟨stm farM, 5, farCtx, (farM.overSegsOf 5 farCtx).headD 0, (farM.overSegsOf 5 farCtx).tail, by decide +kernel⟩,
    ⟨stm
      { farM with clk := { cc := 12000000000 }, ctxs := [(5, { farCtx with replaceAt := some 0, overSegs := farM.ctxReach farCtx })] },
      5, { farCtx with replaceAt := some 0, overSegs := farM.ctxReach farCtx }, 0, by decide +kernel⟩,
    ⟨stm { hostM (cmd 0 []) with ctxs := [(5, { ctx0 with clock := 2400000000 })] }, 5,
      { ctx0 with clock := 2400000000 }, by decide +kernel⟩⟩

/-- The hypotheses of CommandsAreTaken can be met. -/
theorem witness_CommandsAreTaken :
    (∃ (s : State) (f : FnIx) (tag : BitVec 16) (x : Cmd),
      let n := le x.arg 1 1
      let v := le x.arg 2 2
      s.m.Turn f tag.toNat 0x0001 x ∧ aget (s.m.fn f).rings (le x.arg 0 1) = none ∧ 4 ≤ n ∧ n ≤ 16 ∧ 1 ≤ v ∧ v ≤ 2047
        ∧ le x.arg 5 1 = 0 ∧ le x.arg 6 2 ≤ 1000 ∧ le x.arg 8 8 % 4096 = 0 ∧ le x.arg 16 8 % 4096 = 0 ∧ f.val ≠ mgmtFn
        ∧ s.m.ringsTaken < 4096) ∧
    (∃ (s : State) (f : FnIx) (tag : BitVec 16) (x : Cmd) (y : Ring),
      let r := le x.arg 0 1
      s.m.Turn f tag.toNat 0x0002 x ∧ aget (s.m.fn f).rings r = some y ∧ x.via ≠ .ring r ∧ y.kept = [] ∧ (∀ z ∈
        s.m.host.cmds, z.fn = f.val → z.via = .ring r → z.order = x.order)) ∧
    (∃ (s : State) (f : FnIx) (r : BitVec 8) (v : BitVec 64) (es : List Bytes) (y : Ring),
      let t := v.toNat % 65536
      f.val < mgmtFn ∧ s.m.hostUp (portOf f) = true ∧ aget (s.m.fn f).rings r.toNat = some y ∧ t < y.size ∧ y.free =
        true ∧ y.kept = []) ∧
    (∃ (s : State) (f : FnIx) (r : BitVec 8) (v : BitVec 64) (es : List Bytes) (y : Ring),
      let t := v.toNat % 65536
      f.val < mgmtFn ∧ s.m.hostUp (portOf f) = true ∧ aget (s.m.fn f).rings r.toNat = some y ∧ t < y.size ∧ y.free =
        false) ∧
    (∃ (s : State) (f : FnIx) (r : BitVec 8) (v : BitVec 64) (y : Ring),
      let h := v.toNat % 65536
      let used := (h + y.size - y.cplHead) % y.size
      f.val < mgmtFn ∧ s.m.hostUp (portOf f) = true ∧ aget (s.m.fn f).rings r.toNat = some y ∧ h < y.size ∧ used ≤
        y.unread) ∧
    (∃ (s : State) (f : FnIx) (r : BitVec 8) (v : BitVec 64) (es : Option (List Bytes)), f.val < mgmtFn ∧ s.m.hostUp
      (portOf f) = true ∧ (aget (s.m.fn f).rings r.toNat = none ∨ ∃ y, aget (s.m.fn f).rings r.toNat = some y ∧ y.size
      ≤ v.toNat % 65536)) ∧
    (∃ (s : State) (f : FnIx) (v : BitVec 64), v.toNat % 2 = 1 ∧ f.val < mgmtFn ∧ s.m.hostUp (portOf f) = true ∧
      (s.m.fn f).busy = false) ∧
    (∃ (s : State) (f : FnIx) (v : BitVec 64), v.toNat % 2 = 1 ∧ f.val < mgmtFn ∧ s.m.hostUp (portOf f) = true ∧
      (s.m.fn f).busy = true) ∧
    (∃ (s : State) (f : FnIx) (off : BitVec 24), bar0Reserved off.toNat = true ∧ f.val < mgmtFn) :=
  ⟨⟨hst (cmd 0x0001 ringArg), 0, 1, cmd 0x0001 ringArg, turnOf (by decide +kernel), by decide +kernel⟩,
    ⟨stm (fnM { rings := [(3, {})] } (cmd 0x0002 [3])), 0, 1, cmd 0x0002 [3], {}, turnOf (by decide +kernel),
      by decide +kernel⟩,
    ⟨stm (fnM { rings := [(255, {})] } (cmd 0 [])), 0, 255, 15, [], {}, by decide +kernel⟩,
    ⟨stm (fnM { rings := [(255, { cplTail := 15 })] } (cmd 0 [])), 0, 255, 15, [], { cplTail := 15 },
      by decide +kernel⟩,
    ⟨stm (fnM { rings := [(255, { cplTail := 15 })] } (cmd 0 [])), 0, 255, 15, { cplTail := 15 }, by decide +kernel⟩,
    ⟨stm (fnM { rings := [(255, {})] } (cmd 0 [])), 0, 255, 16, none, by decide +kernel, by decide +kernel, .inr ⟨{},
      by decide +kernel⟩⟩,
    ⟨st core0, 511, 1, by decide +kernel⟩,
    ⟨stm (fnM { busy := true } (cmd 0 [])), 0, 1, by decide +kernel⟩,
    ⟨st core0, 511, 0xFFF, by decide +kernel⟩⟩

/-- The hypotheses of EntriesAreChecked can be met. -/
theorem witness_EntriesAreChecked :
    (∃ (m : Mach) (x : Cmd) (e : Bytes), malformed x e = true) ∧
    (∃ (m : Mach) (x : Cmd) (e : Bytes), malformed x e = false ∧ (∃ y ∈ m.host.cmds, y.fn = x.fn ∧ y.tag = x.tag)) ∧
    (∃ (m : Mach) (x : Cmd) (e : Bytes), malformed x e = false ∧ (∀ y ∈ m.host.cmds, ¬ (y.fn = x.fn ∧ y.tag = x.tag))
      ∧ argLen x.opcode x.arg = none) ∧
    (∃ (m : Mach) (x : Cmd) (e : Bytes), malformed x e = false ∧ (∀ y ∈ m.host.cmds, ¬ (y.fn = x.fn ∧ y.tag = x.tag))
      ∧ (argLen x.opcode x.arg).isSome = true ∧ x.opcode ≠ 0x0183 ∧ m.boot.ready = false ∧ earlyOp x.opcode = false) ∧
    (∃ (m : Mach) (x : Cmd) (e : Bytes), malformed x e = false ∧ (∀ y ∈ m.host.cmds, ¬ (y.fn = x.fn ∧ y.tag = x.tag))
      ∧ (argLen x.opcode x.arg).isSome = true ∧ x.opcode ≠ 0x0183 ∧ m.boot.ready = true ∧ m.boot.minimal = false ∧ 2 <
      m.boot.stage ∧ m.boot.life ≠ .retired ∧ pfOnly x = true ∧ isPf x.fn = false) ∧
    (∃ (m : Mach) (x : Cmd) (e : Bytes), malformed x e = false ∧ (∀ y ∈ m.host.cmds, ¬ (y.fn = x.fn ∧ y.tag = x.tag))
      ∧ (argLen x.opcode x.arg).isSome = true ∧ x.opcode ≠ 0x0183 ∧ m.boot.ready = true ∧ m.boot.minimal = false ∧ 2 <
      m.boot.stage ∧ m.boot.life ≠ .retired ∧ pfOnly x = false ∧ namesCtx x = true ∧ x.opcode ≠ 0x0132 ∧ m.ctx (x.cid
      % 1024) = none) ∧
    (∃ (m : Mach) (x : Cmd) (e : Bytes), malformed x e = false ∧ (∀ y ∈ m.host.cmds, ¬ (y.fn = x.fn ∧ y.tag = x.tag))
      ∧ (argLen x.opcode x.arg).isSome = true ∧ x.opcode ≠ 0x0183 ∧ m.boot.ready = true ∧ m.boot.minimal = false ∧ 2 <
      m.boot.stage ∧ m.boot.life ≠ .retired ∧ pfOnly x = false ∧ namesCtx x = false ∧ badVariant x = true) ∧
    (∃ (m : Mach) (x : Cmd) (e : Bytes), malformed x e = false ∧ (∀ y ∈ m.host.cmds, ¬ (y.fn = x.fn ∧ y.tag = x.tag))
      ∧ (argLen x.opcode x.arg).isSome = true ∧ x.opcode ≠ 0x0183 ∧ m.boot.ready = true ∧ m.boot.minimal = false ∧ 2 <
      m.boot.stage ∧ m.boot.life ≠ .retired ∧ pfOnly x = false ∧ namesCtx x = false ∧ badVariant x = false) ∧
    (∃ (m : Mach) (f : Nat) (via : Via) (e data : Bytes) (w : Bool), m.entryStatus (parseCmd f via e m.now data) e =
      none) :=
  ⟨⟨mk core0, { cmd 0x0100 [] with tag := 0xFFFF }, List.replicate 64 0, by decide +kernel⟩,
    ⟨hostM (cmd 0x0100 [0]), cmd 0x0100 [0], List.replicate 64 0, by decide +kernel⟩,
    ⟨mk core0, cmd 0x7777 [], List.replicate 64 0, by decide +kernel⟩,
    ⟨{ mk core0 with boot := {} }, cmd 0x0100 [0], List.replicate 64 0, by decide +kernel⟩,
    ⟨mk core0, { cmd 0x0160 [] with fn := 1 }, List.replicate 64 0, by decide +kernel⟩,
    ⟨mk core0, cmd 0x0101 [], List.replicate 64 0, by decide +kernel⟩,
    ⟨mk core0, cmd 0x0150 [0], List.replicate 64 0, by decide +kernel⟩,
    ⟨mk core0, cmd 0x0100 [0], List.replicate 64 0, by decide +kernel⟩,
    ⟨mk core0, 0, .mailbox, padTo (toBytes 2 0x0100 ++ toBytes 2 1) 64, [], false, by decide +kernel⟩⟩

/-- The hypotheses of CompletionsAndEventsAreDelivered can be met. -/
theorem witness_CompletionsAndEventsAreDelivered :
    (∃ (s : State) (f : FnIx) (tag : BitVec 16) (x : Cmd) (e : Cpl) (r : Nat), s.m.settleLoads.host.cmds.find? (fun x
      => x.fn == f.val && x.tag == tag.toNat && x.result.isSome && !x.waiting) = some x ∧ x.result = some e ∧ x.via =
      .ring r) ∧
    (∃ (s : State) (f : FnIx) (tag : BitVec 16) (x : Cmd) (e : Cpl) (ok : Bool),
      let m := (s.m.settleLoads.dropCmd x.order).afterCompletion x
      s.m.settleLoads.host.cmds.find? (fun x => x.fn == f.val && x.tag == tag.toNat && x.result.isSome && !x.waiting)
        = some x ∧ x.result = some e ∧ x.via = .mailbox ∧ (m.fn f).intr = false) ∧
    (∃ (m : Mach) (f r : Nat) (e : Cpl) (now : Bool) (y : Ring), aget (m.fn f).rings r = some y ∧ y.free = true ∧
      y.kept = []) ∧
    (∃ (m : Mach) (f r : Nat) (e : Cpl) (now : Bool) (y : Ring), aget (m.fn f).rings r = some y ∧ y.free = false) ∧
    (∃ (e : Cpl) (sq : Nat) (ph : Bool), sq < 65536) ∧
    (∃ (s : State) (f : FnIx) (e : Cpl) (es : List Cpl) (r : Nat) (y : Ring), (s.m.fn f).raised = e :: es ∧ (s.m.fn
      f).eventRing = some r ∧ aget (s.m.fn f).rings r = some y ∧ y.free = true ∧ y.kept = [] ∧ (s.m.fn f).kept = [] ∧
      s.m.hostUp (portOf f) = true ∧ s.m.viaMgmt f = false) ∧
    (∃ (s : State) (f : FnIx) (e : Cpl) (es : List Cpl), (s.m.fn f).raised = e :: es ∧ (s.m.fn f).eventRing = none ∧
      s.m.viaMgmt f = false) ∧
    (∃ (s : State) (f : FnIx) (r : BitVec 8) (y : Ring) (t : Nat), aget (s.m.fn f).rings r.toNat = some y ∧ y.icount ≠
      0 ∧ y.unread ≠ 0 ∧ y.oldest = some t ∧ t + usCc y.itime ≤ s.m.cc) :=
  ⟨⟨hst { cmd 0x0100 [0] with via := .ring 3, result := some {} }, 0, 1,
    { cmd 0x0100 [0] with via := .ring 3, result := some {} }, {}, 3, by decide +kernel⟩,
    ⟨hst { cmd 0x0100 [0] with result := some {} }, 0, 1, { cmd 0x0100 [0] with result := some {} }, {}, true,
      by decide +kernel⟩,
    ⟨fnM { rings := [(3, {})] } (cmd 0 []), 0, 3, {}, false, {}, by decide +kernel⟩,
    ⟨fnM { rings := [(3, { cplTail := 15 })] } (cmd 0 []), 0, 3, {}, false, { cplTail := 15 }, by decide +kernel⟩,
    ⟨{}, 65535, true, by decide +kernel⟩,
    ⟨stm (fnM { rings := [(3, { events := true })], raised := [{}] } (cmd 0 [])), 0, {}, [], 3, { events := true },
      by decide +kernel⟩,
    ⟨stm (fnM { raised := [{}] } (cmd 0 [])), 0, {}, [], by decide +kernel⟩,
    ⟨stm (fnM { rings := [(255, coalR)] } (cmd 0 [])), 0, 255, coalR, 88000, by decide +kernel⟩⟩

/-- The hypotheses of LoadsMoveBytes can be met. -/
theorem witness_LoadsMoveBytes :
    (∃ (s : State) (f : FnIx) (tag : BitVec 16) (x : Cmd) (y : Ctx) (b : Bytes) (q : Place),
      let core := le x.arg 1 4
      let sl := le x.arg 5 1
      let space := le x.arg 6 1
      s.m.Turn f tag.toNat 0x0110 x ∧ le x.arg 0 1 = 0 ∧ s.m.ctx x.cid = some y ∧ y.st = .admitted ∧ x.fn ≠ mgmtFn ∧ 0
        < x.len ∧ space ≤ 1 ∧ (y.entry core sl).isSome = true ∧ le x.arg 15 2 = 0 ∧ le x.arg 17 2 = 0 ∧ s.m.loadPlace
        core sl space (le x.arg 7 8) x.len true = some q) ∧
    (∃ (s : State) (f : FnIx) (tag : BitVec 16) (x : Cmd) (y : Ctx) (b : Option Bytes),
      let core := le x.arg 1 4
      let sl := le x.arg 5 1
      let space := le x.arg 6 1
      s.m.Turn f tag.toNat 0x0110 x ∧ le x.arg 0 1 = 0 ∧ s.m.ctx x.cid = some y ∧ y.st = .admitted ∧ 0 < x.len ∧ space
        ≤ 1 ∧ (y.entry core sl).isSome = true ∧ le x.arg 15 2 = 0 ∧ le x.arg 17 2 = 0 ∧ s.m.loadPlace core sl space
        (le x.arg 7 8) x.len true = none) ∧
    (∃ (s : State) (f : FnIx) (tag : BitVec 16) (x : Cmd) (y : Ctx) (q : Place),
      let core := le x.arg 1 4
      let sl := le x.arg 5 1
      let space := le x.arg 6 1
      let m := (s.m.begun x).fwReach (s.m.runs core) space q.off
      s.m.Turn f tag.toNat 0x0110 x ∧ le x.arg 0 1 = 1 ∧ s.m.ctx x.cid = some y ∧ y.st = .admitted ∧ x.fn ≠ mgmtFn ∧ 0
        < x.len ∧ space ≤ 1 ∧ (y.entry core sl).isSome = true ∧ s.m.loadPlace core sl space (le x.arg 7 8) x.len false
        = some q) ∧
    (∃ (s : State) (f : FnIx) (tag : BitVec 16) (x : Cmd) (y : Ctx) (b : Bytes),
      let core := le x.arg 1 4
      let q := le x.arg 5 1
      let m := s.m.begun x
      s.m.Turn f tag.toNat 0x0110 x ∧ le x.arg 0 1 = 3 ∧ s.m.ctx x.cid = some y ∧ y.st = .admitted ∧ x.fn ≠ mgmtFn ∧
        x.len ≤ 256 ∧ q < 8 ∧ (y.slots.any fun e => e.core == core && bitOf e.qmask.toNat q) = true ∧ bitOf
        x.flags.toNat 1 = false ∧ s.m.loadMsgRoom x = true) :=
  ⟨⟨hst (ldCmd 0 0 0), 0, 1, ldCmd 0 0 0, ctx0, [1], ((hst (ldCmd 0 0 0)).m.loadPlace 0 0 0 0 4096 true).getD {}, turnOf
    (by decide +kernel), by decide +kernel⟩,
    ⟨hst (ldCmd 0 0 1), 0, 1, ldCmd 0 0 1, ctx0, none, turnOf (by decide +kernel), by decide +kernel⟩,
    ⟨hst (ldCmd 1 0 0), 0, 1, ldCmd 1 0 0, ctx0, ((hst (ldCmd 0 0 0)).m.loadPlace 0 0 0 0 4096 false).getD {}, turnOf
      (by decide +kernel), by decide +kernel⟩,
    ⟨hst msgCmd, 0, 1, msgCmd, ctx0, [1], turnOf (by decide +kernel), by decide +kernel⟩⟩

/-- The hypotheses of RegionsLoadAndSlotsLaunch can be met. -/
theorem witness_RegionsLoadAndSlotsLaunch :
    (∃ (s : State) (f : FnIx) (tag : BitVec 16) (x : Cmd) (y : Ctx),
      let pc := le x.arg 2 4
      s.m.Turn f tag.toNat 0x0111 x ∧ le x.arg 0 1 = 0 ∧ s.m.ctx x.cid = some y ∧ y.st = .admitted ∧ (pc < 2 ^ 19 ∨ pc
        = 0xFFFFFFFF)) ∧
    (∃ (s : State) (f : FnIx) (tag : BitVec 16) (x : Cmd) (y : Ctx) (b : Bytes) (es : List (Nat × Nat × Nat)),
      let m := s.m.begun x
      s.m.Turn f tag.toNat 0x0111 x ∧ le x.arg 0 1 = 1 ∧ s.m.ctx x.cid = some y ∧ y.st = .admitted ∧ x.fn ≠ mgmtFn ∧
        x.len % 8 = 0 ∧ launchEntries y (x.len / 8) (padTo b x.len) = some es ∧ (∀ e ∈ es, canLaunch ((m.core (m.runs
        e.1)).slot e.2.1) = true)) ∧
    (∃ (s : State) (f : FnIx) (tag : BitVec 16) (x : Cmd) (y : Ctx),
      let m := s.m.begun x
      let ps := m.regionPlanes x.cid (le x.arg 1 1)
      s.m.Turn f tag.toNat 0x0111 x ∧ le x.arg 0 1 = 2 ∧ s.m.ctx x.cid = some y ∧ y.st = .admitted ∧ ps ≠ [] ∧ (∀ p ∈
        ps, canLaunch ((m.core p.1).slot p.2) = true)) ∧
    (∃ (v : Slot) (cc : Nat), ∃ (pc : Option Nat) (p : Plane), v.plane = some p) ∧
    (∃ (s : State) (f : FnIx) (tag : BitVec 16) (x : Cmd) (y : Ctx) (b : Bytes),
      let g := le x.arg 1 1
      let v := le x.arg 2 8
      let rect := (fld v 0 9, fld v 9 9, fld v 18 9, fld v 27 9)
      let cores := rectCores rect
      let m := s.m.begun x
      let core := fun c => m.core (m.runs c)
      let ds := cutPlanes cores (padTo b x.len)
      s.m.Turn f tag.toNat 0x0110 x ∧ le x.arg 0 1 = 2 ∧ s.m.ctx x.cid = some y ∧ y.st = .admitted ∧ x.fn ≠ mgmtFn ∧ g
        ≤ 15 ∧ rectOk rect = true ∧ v / 2 ^ 36 = 0 ∧ (∀ c ∈ cores, m.coreEnabled c = true ∧ ((core c).planeSlot x.cid
        g).isSome = true) ∧ (∀ p ∈ m.regionPlanes x.cid g, ∃ c ∈ cores, m.runs c = p.1) ∧ (∀ d ∈ ds, ∀ sl, (core
        d.1).planeSlot x.cid g = some sl → descOk (core d.1) sl g d.2 = true) ∧ (∀ d ∈ ds, ((core d.1).planeSlot x.cid
        g).isSome = true)) :=
  ⟨⟨hst (cmd 0x0111 (toBytes 2 0 ++ toBytes 4 0x7FFFF)), 0, 1, cmd 0x0111 (toBytes 2 0 ++ toBytes 4 0x7FFFF), ctx0,
    turnOf (by decide +kernel), by decide +kernel⟩,
    ⟨stm (idleM listCmd), 0, 1, listCmd, ctx0, toBytes 8 (0x7FFF0 * 2 ^ 32), [(0, 0, 0x7FFF0)], turnOf
      (by decide +kernel), by decide +kernel⟩,
    ⟨stm loadedM, 0, 1, cmd 0x0111 [2, 15], ctx0, turnOf (by decide +kernel), by decide +kernel⟩,
    ⟨{ plane := some {} }, 0, none, {}, by decide +kernel⟩,
    ⟨stm regionM, 0, 1, regionCmd, ctx0, desc, turnOf (by decide +kernel), by decide +kernel, by decide +kernel,
      by decide +kernel, by decide +kernel, by decide +kernel, by decide +kernel, by decide +kernel, by decide +kernel,
      by decide +kernel, region_desc, by decide +kernel⟩⟩

/-- The hypotheses of StepsAndCheckpoints can be met. -/
theorem witness_StepsAndCheckpoints :
    (∃ (s : State) (f : FnIx) (tag : BitVec 16) (x : Cmd) (y : Ctx) (r : Nat × Nat), s.m.Turn f tag.toNat 0x0112 x ∧
      s.m.ctx x.cid = some y ∧ y.st = .admitted ∧ (s.m.begun x).stepAnswer { x with since := s.m.cc } y = some r) ∧
    (∃ (s : State) (f : FnIx) (tag : BitVec 16) (x : Cmd) (y : Ctx), s.m.Turn f tag.toNat 0x0112 x ∧ s.m.ctx x.cid =
      some y ∧ y.st = .admitted ∧ (s.m.begun x).stepAnswer { x with since := s.m.cc } y = none) ∧
    (∃ (s : State) (f : FnIx) (tag : BitVec 16) (x : Cmd) (y : Ctx) (r : Nat × Nat), s.m.cmdFor f tag.toNat 0x0112 =
      some x ∧ x.started = true ∧ s.m.ctx x.cid = some y ∧ s.m.stepAnswer x y = some r) ∧
    (∃ (m : Mach) (x : Cmd) (y : Ctx),
      let d := y.prog.steps - BitVec.ofNat 32 (le x.arg 0 4)
      d.toNat < 2 ^ 31) ∧
    (∃ (m : Mach) (x : Cmd) (y : Ctx),
      let d := y.prog.steps - BitVec.ofNat 32 (le x.arg 0 4)
      2 ^ 31 ≤ d.toNat ∧ m.allHalted y = true) ∧
    (∃ (m : Mach) (x : Cmd) (y : Ctx),
      let d := y.prog.steps - BitVec.ofNat 32 (le x.arg 0 4)
      2 ^ 31 ≤ d.toNat ∧ m.allHalted y = false ∧ le x.arg 4 4 ≠ 0 ∧ x.since + usCc (le x.arg 4 4) ≤ m.cc) ∧
    (∃ (m : Mach) (x : Cmd) (y : Ctx),
      let d := y.prog.steps - BitVec.ofNat 32 (le x.arg 0 4)
      2 ^ 31 ≤ d.toNat ∧ m.allHalted y = false ∧ le x.arg 4 4 = 0) ∧
    (∃ (s : State) (f : FnIx) (tag : BitVec 16) (x : Cmd) (y : Ctx),
      let m := (s.m.begun x).quiesceCtx x.cid
      s.m.Turn f tag.toNat 0x0120 x ∧ le x.arg 0 1 = 0 ∧ s.m.moving f tag.toNat 0x0120 = false ∧ s.m.ctx x.cid = some
        y ∧ y.st = .admitted ∧ m.drained x.cid = true) ∧
    (∃ (s : State) (f : FnIx) (tag : BitVec 16) (x : Cmd) (y : Ctx) (t : BitVec 16),
      let m := (s.m.begun x).quiesceCtx x.cid
      let n := m.resumeCtx x.cid
      let dst := le x.arg 2 4
      s.m.Turn f tag.toNat 0x0120 x ∧ le x.arg 0 1 = 1 ∧ s.m.moving f tag.toNat 0x0120 = false ∧ s.m.ctx x.cid = some
        y ∧ y.st = .admitted ∧ m.drained x.cid = true ∧ y.tags[le x.arg 1 1]? = some t ∧ n.coordOk dst = true ∧ dst <
        2 ^ 25 ∧ dst ≠ n.fabric.coord.toNat ∧ n.route dst ≠ .unreachable) ∧
    (∃ (s : State) (f : FnIx) (tag : BitVec 16) (x : Cmd) (y : Ctx) (d : Bytes) (l : List Sect),
      let b := padTo d x.len
      let body := (b.take (le b 8 8)).drop 64
      let m := (s.m.begun x).dropLines x.cid y
      s.m.Turn f tag.toNat 0x0121 x ∧ s.m.ctx x.cid = some y ∧ y.st = .admitted ∧ s.m.ctxIdle x.cid = true ∧ x.fn ≠
        mgmtFn ∧ 64 ≤ le b 8 8 ∧ le b 8 8 ≤ b.length ∧ le b 0 2 = 1 ∧ le b 2 2 = siliconStep ∧ le b 0x3C 4 = crc32
        body ∧ readSects (le b 6 2) body = some l ∧ (∀ z ∈ l, sectOk y z = true)) :=
  ⟨⟨hst (cmd 0x0112 []), 0, 1, cmd 0x0112 [], ctx0, (0, 0), turnOf (by decide +kernel), by decide +kernel⟩,
    ⟨hst (cmd 0x0112 [1]), 0, 1, cmd 0x0112 [1], ctx0, turnOf (by decide +kernel), by decide +kernel⟩,
    ⟨hst { cmd 0x0112 [] with started := true }, 0, 1, { cmd 0x0112 [] with started := true }, ctx0, (0, 0),
      by decide +kernel⟩,
    ⟨mk core0, cmd 0x0112 [], { ctx0 with prog := { steps := 0x7FFFFFFF } }, by decide +kernel⟩,
    ⟨mk (slotC { ctl := { ctl0 with st := .halted } }), cmd 0x0112 (toBytes 4 0x80000000), ctx0, by decide +kernel⟩,
    ⟨mk core0, { cmd 0x0112 (toBytes 4 1 ++ toBytes 4 1) with since := 98800 }, ctx0, by decide +kernel⟩,
    ⟨mk core0, cmd 0x0112 [1], ctx0, by decide +kernel⟩,
    ⟨hst (cmd 0x0120 [0]), 0, 1, cmd 0x0120 [0], ctx0, turnOf (by decide +kernel), by decide +kernel⟩,
    ⟨stm (fabM (cmd 0x0120 saveArg) { ctx0 with tags := [9] }), 0, 1, cmd 0x0120 saveArg, { ctx0 with tags := [9] }, 9,
      turnOf (by decide +kernel), by decide +kernel⟩,
    ⟨stm (idleM { cmd 0x0121 [] with len := 64 }), 0, 1, { cmd 0x0121 [] with len := 64 }, ctx0, imageHdr, [], turnOf
      (by decide +kernel), by decide +kernel⟩⟩

/-- The hypotheses of InputLogsOpenAndClose can be met. -/
theorem witness_InputLogsOpenAndClose :
    (∃ (s : State) (f : FnIx) (tag : BitVec 16) (x : Cmd) (y : Ctx) (n : Nat), s.m.Turn f tag.toNat 0x0130 x ∧ s.m.ctx
      x.cid = some y ∧ y.st = .admitted ∧ y.logOpen = false ∧ 24 ≤ n ∧ n ≤ 32 ∧ le x.arg 0 8 = 2 ^ n ∧ le x.arg 12 1 ≤
      1 ∧ s.m.portUp 8 = true) ∧
    (∃ (s : State) (f : FnIx) (tag : BitVec 16) (x : Cmd) (y : Ctx), s.m.Turn f tag.toNat 0x0131 x ∧ s.m.ctx x.cid =
      some y ∧ y.st = .admitted ∧ y.logOpen = true) ∧
    (∃ (s : State) (f : FnIx) (tag : BitVec 16) (x : Cmd) (y : Ctx), s.m.Turn f tag.toNat 0x0133 x ∧ s.m.ctx x.cid =
      some y ∧ y.st = .admitted ∧ y.logOpen = true) ∧
    (∃ (s : State) (f : FnIx) (tag : BitVec 16) (x : Cmd) (t : TwinLog), s.m.Turn f tag.toNat 0x0132 x ∧ aget
      s.m.fabric.twin x.cid = some t ∧ x.fn ≠ mgmtFn ∧ 0 < x.len) ∧
    (∃ (s : State) (cid : BitVec 10) (queue srcc : BitVec 32) (jobtag : BitVec 16) (time : BitVec 64) (data : Bytes),
      data.length ≤ 256 ∧ s.m.portUp 8 = true) :=
  ⟨⟨stm (fabM (cmd 0x0130 logArg) ctx0), 0, 1, cmd 0x0130 logArg, ctx0, 32, turnOf (by decide +kernel),
    by decide +kernel⟩,
    ⟨stm (fabM (cmd 0x0131 []) { ctx0 with logOpen := true }), 0, 1, cmd 0x0131 [], { ctx0 with logOpen := true },
      turnOf (by decide +kernel), by decide +kernel⟩,
    ⟨stm (fabM (cmd 0x0133 []) { ctx0 with logOpen := true }), 0, 1, cmd 0x0133 [], { ctx0 with logOpen := true },
      turnOf (by decide +kernel), by decide +kernel⟩,
    ⟨stm { hostM (cmd 0x0132 []) with fabric := { twin := [(5, {})] } }, 0, 1, cmd 0x0132 [], {}, turnOf
      (by decide +kernel), by decide +kernel⟩,
    ⟨stm (fabM (cmd 0 []) ctx0), 5, 0, 0, 0, 0, List.replicate 256 1, by decide +kernel⟩⟩

/-- The hypotheses of RecordsAreReadAndCapsSet can be met. -/
theorem witness_RecordsAreReadAndCapsSet :
    (∃ s : State, s.m.planStale = true) ∧
    (∃ (s : State) (f : FnIx) (tag : BitVec 16) (x : Cmd), s.m.Turn f tag.toNat 0x0140 x ∧ x.len < 647488) ∧
    (∃ (s : State) (f : FnIx) (tag : BitVec 16) (x : Cmd), s.m.Turn f tag.toNat 0x0140 x ∧ 647488 ≤ x.len ∧ x.fn ≠
      mgmtFn) ∧
    (∃ (s : State) (f : FnIx) (tag : BitVec 16) (x : Cmd),
      let v := le x.arg 1 8
      let r := (fld v 0 9, fld v 9 9, fld v 18 9, fld v 27 9)
      let cs := rectCores r
      let n := 32 + 528 * cs.length
      s.m.Turn f tag.toNat 0x0150 x ∧ le x.arg 0 1 = 1 ∧ v / 2 ^ 36 = 0 ∧ rectOk r = true ∧ x.len < n) ∧
    (∃ (s : State) (f : FnIx) (tag : BitVec 16) (x : Cmd),
      let v := le x.arg 1 8
      let r := (fld v 0 9, fld v 9 9, fld v 18 9, fld v 27 9)
      let cs := rectCores r
      let n := 32 + 528 * cs.length
      s.m.Turn f tag.toNat 0x0150 x ∧ le x.arg 0 1 = 1 ∧ v / 2 ^ 36 = 0 ∧ rectOk r = true ∧ n ≤ x.len ∧ x.fn ≠ mgmtFn) ∧
    (∃ (s : State) (f : FnIx) (tag : BitVec 16) (x : Cmd) (y : Ctx), s.m.Turn f tag.toNat 0x0150 x ∧ le x.arg 0 1 = 2
      ∧ s.m.ctx x.cid = some y ∧ y.st = .admitted) ∧
    (∃ (s : State) (f : FnIx) (tag : BitVec 16) (x : Cmd) (y : Ctx), s.m.Turn f tag.toNat 0x0150 x ∧ le x.arg 0 1 = 3
      ∧ s.m.ctx x.cid = some y ∧ y.st = .admitted) ∧
    (∃ (s : State) (f : FnIx) (tag : BitVec 16) (x : Cmd),
      let v := le x.arg 1 8
      s.m.Turn f tag.toNat 0x0150 x ∧ le x.arg 0 1 = 5 ∧ (v ≤ 8 ∨ v = 15)) ∧
    (∃ (s : State) (f : FnIx) (tag : BitVec 16) (x : Cmd),
      let w := le x.arg 0 4
      s.m.Turn f tag.toNat 0x0160 x ∧ 18000 ≤ w ∧ w ≤ 36000 ∧ w % 100 = 0 ∧ s.m.boot.ac = false ∧ s.m.power.fixed +
        s.m.power.prot ≤ w) ∧
    (∃ (s : State) (f : FnIx) (tag : BitVec 16) (x : Cmd),
      let w := le x.arg 0 4
      s.m.Turn f tag.toNat 0x0160 x ∧ 18000 ≤ w ∧ w ≤ 36000 ∧ w % 100 = 0 ∧ s.m.boot.ac = false ∧ w < s.m.power.fixed
        + s.m.power.prot) ∧
    (∃ (s : State) (f : FnIx) (tag : BitVec 16) (x : Cmd), s.m.Turn f tag.toNat 0x0161 x) :=
  ⟨⟨stm { mach with wafer := { plan with changed := true } }, by decide +kernel⟩,
    ⟨hst { cmd 0x0140 [] with len := 647487 }, 0, 1, { cmd 0x0140 [] with len := 647487 }, turnOf (by decide +kernel),
      by decide +kernel⟩,
    ⟨hst { cmd 0x0140 [] with len := 647488 }, 0, 1, { cmd 0x0140 [] with len := 647488 }, turnOf (by decide +kernel),
      by decide +kernel⟩,
    ⟨hst { cmd 0x0150 [1] with len := 559 }, 0, 1, { cmd 0x0150 [1] with len := 559 }, turnOf (by decide +kernel),
      by decide +kernel⟩,
    ⟨hst { cmd 0x0150 [1] with len := 560 }, 0, 1, { cmd 0x0150 [1] with len := 560 }, turnOf (by decide +kernel),
      by decide +kernel⟩,
    ⟨hst (cmd 0x0150 [2]), 0, 1, cmd 0x0150 [2], ctx0, turnOf (by decide +kernel), by decide +kernel⟩,
    ⟨hst (cmd 0x0150 [3]), 0, 1, cmd 0x0150 [3], ctx0, turnOf (by decide +kernel), by decide +kernel⟩,
    ⟨hst (cmd 0x0150 [5, 15]), 0, 1, cmd 0x0150 [5, 15], turnOf (by decide +kernel), by decide +kernel⟩,
    ⟨hst (cmd 0x0160 (toBytes 4 36000)), 0, 1, cmd 0x0160 (toBytes 4 36000), turnOf (by decide +kernel),
      by decide +kernel⟩,
    ⟨stm { hostM (cmd 0x0160 (toBytes 4 18000)) with power := { fixed := 10000, prot := 8001 } }, 0, 1, cmd 0x0160
      (toBytes 4 18000), turnOf (by decide +kernel), by decide +kernel⟩,
    ⟨hst (cmd 0x0161 []), 0, 1, cmd 0x0161 [], turnOf (by decide +kernel)⟩⟩

/-- The hypotheses of FabricSettingsTakeEffect can be met. -/
theorem witness_FabricSettingsTakeEffect :
    (∃ (s : State) (f : FnIx) (tag : BitVec 16) (x : Cmd), s.m.Turn f tag.toNat 0x0170 x) ∧
    (∃ (s : State) (f : FnIx) (tag : BitVec 16) (x : Cmd),
      let co := le x.arg 0 4
      let sz := le x.arg 4 4
      let m := (s.m.begun x).assign (BitVec.ofNat 25 co) (BitVec.ofNat 24 sz)
      s.m.Turn f tag.toNat 0x0171 x ∧ assignOk co sz = true ∧ s.m.fabric.jobs = []) ∧
    (∃ (s : State) (f : FnIx) (tag : BitVec 16) (x : Cmd),
      let co := le x.arg 0 4
      let sz := le x.arg 4 4
      let m := (s.m.begun x).assign (BitVec.ofNat 25 co) (BitVec.ofNat 24 sz)
      s.m.Turn f tag.toNat 0x0171 x ∧ assignOk co sz = true ∧ s.m.fabric.jobs ≠ []) ∧
    (∃ (s : State) (f : FnIx) (tag : BitVec 16) (x : Cmd),
      let v := le x.arg 1 8
      let m := s.m.begun x
      s.m.Turn f tag.toNat 0x0172 x ∧ le x.arg 0 1 = 1 ∧ 1 ≤ v ∧ v ≤ 1000) ∧
    (∃ (s : State) (f : FnIx) (tag : BitVec 16) (x : Cmd),
      let v := le x.arg 1 8
      let m := s.m.begun x
      s.m.Turn f tag.toNat 0x0172 x ∧ le x.arg 0 1 = 2 ∧ 1 ≤ v ∧ v ≤ 65535) ∧
    (∃ (s : State) (f : FnIx) (tag : BitVec 16) (x : Cmd),
      let v := le x.arg 1 8
      let m := s.m.begun x
      s.m.Turn f tag.toNat 0x0172 x ∧ le x.arg 0 1 = 3 ∧ v ≤ 16000) ∧
    (∃ (s : State) (f : FnIx) (tag : BitVec 16) (x : Cmd),
      let v := le x.arg 1 8
      let m := s.m.begun x
      s.m.Turn f tag.toNat 0x0172 x ∧ le x.arg 0 1 = 4 ∧ v < 2 ^ 25 ∧ s.m.coordOk v = true) ∧
    (∃ (s : State) (f : FnIx) (tag : BitVec 16) (x : Cmd) (b : Bytes),
      let v := le x.arg 1 8
      let es := (List.range v).map fun i => ((padTo b x.len).drop (8 * i)).take 8
      s.m.Turn f tag.toNat 0x0172 x ∧ le x.arg 0 1 = 5 ∧ 1 ≤ v ∧ v ≤ 128 ∧ 8 * v ≤ x.len ∧ x.fn ≠ mgmtFn ∧ (∀ e ∈ es,
        s.m.detourOk e = true)) ∧
    (∃ (s : State) (f : FnIx) (tag : BitVec 16) (x : Cmd) (b : Bytes),
      let v := le x.arg 1 8
      let es := (List.range v).map fun i => ((padTo b x.len).drop (8 * i)).take 8
      s.m.Turn f tag.toNat 0x0172 x ∧ le x.arg 0 1 = 5 ∧ 1 ≤ v ∧ v ≤ 128 ∧ 8 * v ≤ x.len ∧ x.fn ≠ mgmtFn ∧ ∃ e, e ∈ es
        ∧ s.m.detourOk e = false) ∧
    (∃ (s : State) (f : FnIx) (tag : BitVec 16) (x : Cmd) (y : Ctx) (b : Bytes),
      let e := tagEntry ((padTo b (max x.len 32)).take 32)
      let m := s.m.begun x
      s.m.Turn f tag.toNat 0x0174 x ∧ s.m.ctx x.cid = some y ∧ y.st = .admitted ∧ x.fn ≠ mgmtFn ∧ le x.arg 0 1 =
        y.tags.length ∧ y.tags.length < 16 ∧ s.m.fabric.jobs.length < 1024 ∧ e.2 = false ∧ (∀ j ∈ s.m.fabric.jobs,
        j.tag ≠ e.1.tag) ∧ tagOk y.slots e.1 = true) :=
  ⟨⟨hst (cmd 0x0170 []), 0, 1, cmd 0x0170 [], turnOf (by decide +kernel)⟩,
    ⟨hst (cmd 0x0171 placeArg), 0, 1, cmd 0x0171 placeArg, turnOf (by decide +kernel), by decide +kernel⟩,
    ⟨stm { hostM (cmd 0x0171 placeArg) with fabric := { jobs := [{}] } }, 0, 1, cmd 0x0171 placeArg, turnOf
      (by decide +kernel), by decide +kernel⟩,
    ⟨hst (cmd 0x0172 (1 :: toBytes 8 1000)), 0, 1, cmd 0x0172 (1 :: toBytes 8 1000), turnOf (by decide +kernel),
      by decide +kernel⟩,
    ⟨hst (cmd 0x0172 (2 :: toBytes 8 65535)), 0, 1, cmd 0x0172 (2 :: toBytes 8 65535), turnOf (by decide +kernel),
      by decide +kernel⟩,
    ⟨hst (cmd 0x0172 (3 :: toBytes 8 16000)), 0, 1, cmd 0x0172 (3 :: toBytes 8 16000), turnOf (by decide +kernel),
      by decide +kernel⟩,
    ⟨stm (fabM (cmd 0x0172 (4 :: toBytes 8 1)) ctx0), 0, 1, cmd 0x0172 (4 :: toBytes 8 1), turnOf (by decide +kernel),
      by decide +kernel⟩,
    ⟨stm (fabM (cmd 0x0172 (5 :: toBytes 8 128)) ctx0), 0, 1, cmd 0x0172 (5 :: toBytes 8 128), [], turnOf
      (by decide +kernel), by decide +kernel⟩,
    ⟨stm (fabM (cmd 0x0172 [5, 1]) ctx0), 0, 1, cmd 0x0172 [5, 1], [0, 0, 0, 0, 9], turnOf (by decide +kernel),
      by decide +kernel, by decide +kernel, by decide +kernel, by decide +kernel, by decide +kernel, [0, 0, 0, 0, 9, 0,
      0, 0], by decide +kernel⟩,
    ⟨hst (cmd 0x0174 [0]), 0, 1, cmd 0x0174 [0], ctx0, toBytes 20 1 ++ [12], turnOf (by decide +kernel),
      by decide +kernel⟩⟩

/-- The hypotheses of FabricLinkActions can be met. -/
theorem witness_FabricLinkActions :
    (∃ (s : State) (f : FnIx) (tag : BitVec 16) (x : Cmd) (e : Nat),
      let p := le x.arg 0 1
      let i := le x.arg 1 1
      let v := le x.arg 3 4
      s.m.Turn f tag.toNat 0x0173 x ∧ p ≤ 8 ∧ s.m.engAt p i = some e ∧ (s.m.eng e).st = .active ∧ le x.arg 2 1 = 1 ∧
        fld v 6 10 = 0 ∧ bitOf v 4 = false) ∧
    (∃ (s : State) (f : FnIx) (tag : BitVec 16) (x : Cmd) (e : Nat),
      let p := le x.arg 0 1
      let i := le x.arg 1 1
      s.m.Turn f tag.toNat 0x0173 x ∧ p ≤ 8 ∧ s.m.engAt p i = some e ∧ (s.m.eng e).st = .active ∧ le x.arg 2 1 = 2) ∧
    (∃ (s : State) (f : FnIx) (tag : BitVec 16) (x : Cmd) (e : Nat),
      let p := le x.arg 0 1
      let i := le x.arg 1 1
      s.m.Turn f tag.toNat 0x0173 x ∧ p ≤ 8 ∧ s.m.engAt p i = some e ∧ (s.m.eng e).st = .active ∧ le x.arg 2 1 = 3 ∧
        bitOf (s.m.port p).active.toNat i = true) ∧
    (∃ (s : State) (f : FnIx) (tag : BitVec 16) (x : Cmd) (e : Nat),
      let p := le x.arg 0 1
      let i := le x.arg 1 1
      s.m.Turn f tag.toNat 0x0173 x ∧ p ≤ 8 ∧ s.m.engAt p i = some e ∧ (s.m.eng e).st = .active ∧ le x.arg 2 1 = 4 ∧
        bitOf (s.m.port p).active.toNat i = false ∧ (s.m.eng e).miscabled = false) ∧
    (∃ (s : State) (f : FnIx) (tag : BitVec 16) (x : Cmd), s.m.Turn f tag.toNat 0x0173 x ∧ le x.arg 2 1 = 5 ∧ le x.arg
      0 1 ≤ 8) ∧
    (∃ (s : State) (f : FnIx) (tag : BitVec 16) (x : Cmd), s.m.Turn f tag.toNat 0x0173 x ∧ le x.arg 2 1 = 2 ∧ le x.arg
      0 1 ≤ 8 ∧ s.m.engAt (le x.arg 0 1) (le x.arg 1 1) = none) :=
  ⟨⟨stm (linkM [8, 0, 1] 0xFFFF002F), 0, 1, linkC [8, 0, 1] 0xFFFF002F, 26, turnOf (by decide +kernel),
    by decide +kernel⟩,
    ⟨stm (linkM [8, 0, 2] 0), 0, 1, linkC [8, 0, 2] 0, 26, turnOf (by decide +kernel), by decide +kernel⟩,
    ⟨stm (linkM [8, 0, 3] 0), 0, 1, linkC [8, 0, 3] 0, 26, turnOf (by decide +kernel), by decide +kernel⟩,
    ⟨stm (linkM [8, 3, 4] 0), 0, 1, linkC [8, 3, 4] 0, 29, turnOf (by decide +kernel), by decide +kernel⟩,
    ⟨stm (linkM [8, 0, 5] 0), 0, 1, linkC [8, 0, 5] 0, turnOf (by decide +kernel), by decide +kernel⟩,
    ⟨stm (linkM [8, 7, 2] 0), 0, 1, linkC [8, 7, 2] 0, turnOf (by decide +kernel), by decide +kernel⟩⟩

/-- The hypotheses of FramesArriveAndLeave can be met. -/
theorem witness_FramesArriveAndLeave :
    (∃ (s : State) (e : FieldIx) (fr : Bytes), s.m.takes e fr = true ∧ ordinary (frChan fr) = true ∧ s.m.isTransit e
      fr = false ∧ (s.m.rxAck e fr).outOfOrder e fr = true ∧ (s.m.rxAck e fr).isDup e fr = true) ∧
    (∃ (s : State) (e : FieldIx) (fr : Bytes), s.m.takes e fr = true ∧ ordinary (frChan fr) = true ∧ s.m.isTransit e
      fr = false ∧ (s.m.rxAck e fr).outOfOrder e fr = true ∧ (s.m.rxAck e fr).isDup e fr = false) ∧
    (∃ (s : State) (e : FieldIx) (fr : Bytes),
      let m := s.m.rxAck e fr
      s.m.takes e fr = true ∧ ordinary (frChan fr) = true ∧ s.m.isTransit e fr = false ∧ m.outOfOrder e fr = false ∧
        m.quarantineDrop e fr = false ∧ frHead fr = true ∧ frTail fr = true) ∧
    (∃ (s : State) (e : FieldIx) (fr : Bytes),
      let m := s.m.rxAck e fr
      s.m.takes e fr = true ∧ ordinary (frChan fr) = true ∧ s.m.isTransit e fr = false ∧ m.outOfOrder e fr = false ∧
        m.quarantineDrop e fr = false ∧ frHead fr = true ∧ frTail fr = false) ∧
    (∃ (s : State) (e : FieldIx) (fr : Bytes) (e' vc : Nat), s.m.takes e fr = true ∧ s.m.isTransit e fr = true ∧
      s.m.outOfOrder e fr = false ∧ s.m.quarantineDrop e fr = false ∧ frHead fr = true ∧ frTail fr = true ∧
      s.m.transitTo e (frVc fr) = some (e', vc)) ∧
    (∃ (s : State) (c : CoreIx) (q : InReq), isAnchor c = true ∧ s.m.fabric.ins.find? (fun q => q.anchor == c.val &&
      q.host.isNone && q.meshDone && q.logDone) = some q) ∧
    (∃ (s : State) (c : CoreIx) (key : Nat) (f : Flit) (fs : List Flit),
      let e := fieldOf c
      let y := ((s.m.core c).loDrop key).gather f fs
      isAnchor c = true ∧ s.m.fabric.ins.find? (fun q => q.anchor == c.val && q.host.isNone && q.meshDone &&
        q.logDone) = none ∧ (s.m.core c).attachIn = some (key, f, fs) ∧ (s.m.port (s.m.engPort e)).pendingSet = none ∧
        (∀ z ∈ (s.m.eng e).queue, frChan z.f = fabChan f.chan → transitSrc ≤ z.src) ∧ y.2.whole = true ∧
        (s.m.activeSet (s.m.engPort e)).contains (s.m.engIndex e) = true ∧ s.m.portUp (s.m.engPort e) = true) ∧
    (∃ (s : State) (id : Nat) (q : FReq), s.m.fabric.reqs.find? (fun q => q.id == id) = some q ∧ q.read = true ∧
      q.start + usCc (1000 * s.m.fabric.ftimeout) ≤ s.m.cc) ∧
    (∃ (s : State) (p : PortIx) (w : TransitMsg) (ws : List TransitMsg), (s.m.port p).waiting = w :: ws ∧ w.since +
      usCc 1000 ≤ s.m.cc) :=
  ⟨⟨stm (engM {} 100000), 26, readFrame 4095, by decide +kernel⟩,
    ⟨stm (engM {} 100000), 26, readFrame 1, by decide +kernel⟩,
    ⟨stm (engM {} 100000), 26, readFrame 0, by decide +kernel⟩,
    ⟨stm (engM {} 100000), 26, writeFrame, by decide +kernel⟩,
    ⟨stm transitM, 0, transitFrame, ((transitM.transitTo 0 0).getD (0, 0)).1, ((transitM.transitTo 0 0).getD (0, 0)).2,
      by decide +kernel⟩,
    ⟨stm { mach with fabric := { ins := [{ anchor := 8470, meshDone := true }] } }, 8470,
      { anchor := 8470, meshDone := true }, by decide +kernel⟩,
    ⟨stm { engM {} 100000 with cores := [(8470, loC 8 [attFlit])] }, 8470, 8, attFlit, [attFlit], by decide +kernel⟩,
    ⟨stm { mach with clk := { cc := 12000000 }, fabric := { reqs := [{ id := 7, read := true }] } }, 7,
      { id := 7, read := true }, by decide +kernel⟩,
    ⟨stm { mach with clk := { cc := 1200000 }, fabric := { ports := .replicate 9 { waiting := [{}] } } }, 8, {}, [],
      by decide +kernel⟩⟩

/-- The hypotheses of LinkFramesRetrainsAndIdents can be met. -/
theorem witness_LinkFramesRetrainsAndIdents :
    (∃ (s : State) (e : FieldIx) (pay : Bytes), pay.length = 20 ∧ (s.m.eng e).st ≠ .idle) ∧
    (∃ old new : Nat, new < 65536) ∧
    (∃ (s : State) (e : FieldIx) (pay : Bytes) (i : Nat),
      let seq := le pay 0 2
      let g := s.m.eng e
      pay.length = 4 ∧ g.carries = true ∧ seq < 4096 ∧ g.replay.findIdx? (fun f => frSeq f == seq) = some i) ∧
    (∃ (s : State) (e : FieldIx) (ch : BitVec 3), (s.m.eng e).carries = true) ∧
    (∃ (s : State) (e : FieldIx) (cause : Fin 4) (ch : BitVec 3), (s.m.eng e).carries = true ∧ 1 ≤ cause.val ∧
      ch.toNat < 6 ∧ (s.m.eng e).probation = none) ∧
    (∃ (m : Mach) (e cause chan : Nat), chan < 4 ∧ e < 56 ∧ ¬ ((m.eng e).discard = true ∧ cause = 3)) ∧
    (∃ (s : State) (e : FieldIx) (v : BitVec 32), (s.m.eng e).carries = true ∧ fld v.toNat 6 10 = 0 ∧ bitOf v.toNat 4
      = false ∧ v.toNat / 2 ^ 16 ≠ 0) ∧
    (∃ (s : State) (e : FieldIx) (ch : Fin 6) (t : Nat), aget (s.m.eng e).holds ch = some t ∧ t ≤ s.m.cc) ∧
    (∃ (s : State) (e : FieldIx) (code : Fin 10) (fr : Bytes), s.m.listens e (frChan fr) = true ∧ frGood fr = true ∧
      s.m.foulOf e fr = some code.val ∧ (code.val = 2 ∨ code.val = 3)) ∧
    (∃ (s : State) (e : FieldIx) (pay : Bytes), pay.length = 24 ∧ (s.m.eng e).st ≠ .idle) ∧
    (∃ (s : State) (e : FieldIx) (v : BitVec 32), fld v.toNat 0 4 = 1 ∧ 1 ≤ fld v.toNat 4 4 ∧ fld v.toNat 4 4 ≤ 4 ∧
      (s.m.eng e).st = .active) ∧
    (∃ (s : State) (e : FieldIx) (v : BitVec 32), fld v.toNat 0 4 = 3 ∧ 1 ≤ fld v.toNat 4 4 ∧ fld v.toNat 4 4 ≤ 4 ∧
      ((s.m.eng e).st = .leading ∨ (s.m.eng e).st = .following) ∧ fld v.toNat 8 8 = (s.m.eng e).rnum.toNat) ∧
    (∃ (s : State) (e : FieldIx) (cause : RetrainCause), (s.m.eng e).st = .active ∧ (cause = .lets → 8 ≤ (s.m.eng
      e).letRun)) ∧
    (∃ (s : State) (e : FieldIx), (s.m.eng e).st = .asking ∧ (s.m.eng e).reqAt + usCc 10 ≤ s.m.cc ∧ (s.m.eng e).reqs <
      8) ∧
    (∃ (s : State) (e : FieldIx), (s.m.eng e).st = .asking ∧ (s.m.eng e).reqAt + usCc 10 ≤ s.m.cc ∧ 8 ≤ (s.m.eng
      e).reqs) ∧
    (∃ (s : State) (e : FieldIx) (lanes : BitVec 16), (s.m.eng e).st = .train ∧ (s.m.eng e).reqAt + usCc (trainUs
      (s.m.eng e).what) ≤ s.m.cc ∧ laneCount lanes < 15) ∧
    (∃ (s : State) (e : FieldIx) (lanes : BitVec 16), (s.m.eng e).st = .train ∧ (s.m.eng e).reqAt + usCc (trainUs
      (s.m.eng e).what) ≤ s.m.cc ∧ 15 ≤ laneCount lanes) ∧
    (∃ (s : State) (e : FieldIx) (ovr : BitVec 16), (s.m.eng e).st = .qualify ∧ (s.m.eng e).leader = true ∧ ovr = 0) ∧
    (∃ (s : State) (p : PortIx) (set_ : BitVec 8), (s.m.port p).pendingSet = some set_ ∧ (∀ e ∈ s.m.portEngs p,
      (s.m.eng e).replay = [] ∧ (s.m.eng e).opened = []) ∧ (∀ e, s.m.engPort e = p.val → (s.m.eng e).st ≠ .drain)) ∧
    (∃ (s : State) (e : FieldIx) (pay : Bytes), (s.m.eng e).st = .active ∧ s.m.engPort e < 9 ∧ pay.length = 28) ∧
    (∃ (s : State) (e : FieldIx), (s.m.eng e).st = .active ∧ s.m.engPort e < 9 ∧ (s.m.eng e).peerSeen = false ∧
      (s.m.eng e).identAt + usCc 1000 ≤ s.m.cc) :=
  ⟨⟨stm (engM {} 100000), 26, List.replicate 20 0, by decide +kernel⟩,
    ⟨0, 65535, by decide +kernel⟩,
    ⟨stm (engM { replay := [readFrame 4095] } 100000), 26, toBytes 4 4095, 0, by decide +kernel⟩,
    ⟨stm (engM {} 100000), 26, 5, by decide +kernel⟩,
    ⟨stm (engM {} 100000), 26, 3, 5, by decide +kernel⟩,
    ⟨engM {} 100000, 55, 3, 3, by decide +kernel⟩,
    ⟨stm (engM {} 100000), 26, 0xFFFF002F, by decide +kernel⟩,
    ⟨stm (engM { holds := [(5, 100000)] } 100000), 26, 5, 100000, by decide +kernel⟩,
    ⟨stm (engM {} 100000), 26, 3, readFrame 257, by decide +kernel⟩,
    ⟨stm (engM {} 100000), 26, List.replicate 24 0, by decide +kernel⟩,
    ⟨stm (engM {} 100000), 26, 0x41, by decide +kernel⟩,
    ⟨stm (engM { st := .following } 100000), 26, 0x43, by decide +kernel⟩,
    ⟨stm (engM { letRun := 8 } 100000), 26, .lets, by decide +kernel⟩,
    ⟨stm (engM { st := .asking, reqs := 7, reqAt := 88000 } 100000), 26, by decide +kernel⟩,
    ⟨stm (engM { st := .asking, reqs := 8, reqAt := 88000 } 100000), 26, by decide +kernel⟩,
    ⟨stm (engM { st := .train } 12000000000), 26, 0x3FFF, by decide +kernel⟩,
    ⟨stm (engM { st := .train } 12000000000), 26, 0x7FFF, by decide +kernel⟩,
    ⟨stm (engM { st := .qualify, leader := true } 100000), 26, 0, by decide +kernel⟩,
    ⟨stm setM, 8, 0x0E, by decide +kernel, by decide +kernel, fun e _ => set_rest e⟩,
    ⟨stm (engM {} 100000), 26, List.replicate 28 0, by decide +kernel⟩,
    ⟨stm (engM {} 1200000), 26, by decide +kernel⟩⟩

/-- The hypotheses of TimeIsSynchronised can be met. -/
theorem witness_TimeIsSynchronised :
    (∃ (s : State) (t1 t2 t3 t4 : Int), s.m.fabric.assigned = true ∧ s.m.clk.locked = true ∧ s.m.fabric.coord ≠
      s.m.clk.master ∧ s.m.parentPort.isSome = true ∧ s.m.clk.stepped = true) ∧
    (∃ (s : State) (t1 t2 t3 t4 : Int), s.m.fabric.assigned = true ∧ s.m.clk.locked = true ∧ s.m.fabric.coord ≠
      s.m.clk.master ∧ s.m.parentPort.isSome = true ∧ s.m.clk.stepped = false) ∧
    (∃ s : State, s.m.fabric.assigned = true ∧ s.m.fabric.coord ≠ s.m.clk.master ∧ s.m.clk.syncLost = false ∧
      s.m.clk.lastGood + usCc 100000 ≤ s.m.cc) :=
  ⟨⟨stm { engM {} 100000 with clk := { mach.clk with master := 1, stepped := true } }, 0, 0, 0, 0, by decide +kernel⟩,
    ⟨stm { engM {} 100000 with clk := { mach.clk with master := 1 } }, 0, 0, 0, 0, by decide +kernel⟩,
    ⟨stm { engM {} 100000 with clk := { cc := 120000000, master := 1 } }, by decide +kernel⟩⟩

/-- The hypotheses of DebugCommandsActOnDebugContexts can be met. -/
theorem witness_DebugCommandsActOnDebugContexts :
    (∃ (s : State) (f : FnIx) (tag : BitVec 16) (x : Cmd) (y : Ctx), s.m.Turn f tag.toNat 0x0180 x ∧ s.m.ctx x.cid =
      some y ∧ y.st = .admitted ∧ y.dbg = true ∧ (y.entry (le x.arg 0 4) (le x.arg 4 1)).isSome = true) ∧
    (∃ (s : State) (f : FnIx) (tag : BitVec 16) (x : Cmd) (y : Ctx), s.m.Turn f tag.toNat 0x0180 x ∧ s.m.ctx x.cid =
      some y ∧ y.st = .admitted ∧ y.dbg = false) ∧
    (∃ (s : State) (f : FnIx) (tag : BitVec 16) (x : Cmd) (y : Ctx),
      let core := le x.arg 0 4
      let h := le x.arg 4 1
      let n := le x.arg 5 4
      let c := s.m.runs core
      s.m.Turn f tag.toNat 0x0181 x ∧ s.m.ctx x.cid = some y ∧ y.st = .admitted ∧ n ≤ 0xFFFFFF ∧ h ≤ 31 ∧ core <
        nCores ∧ y.dbg = true ∧ ((s.m.core c).huddle h).owner = some (BitVec.ofNat 10 x.cid)) ∧
    (∃ (s : State) (f : FnIx) (tag : BitVec 16) (x : Cmd) (y : Ctx),
      let core := le x.arg 0 4
      let h := le x.arg 4 1
      let n := le x.arg 5 4
      s.m.Turn f tag.toNat 0x0181 x ∧ s.m.ctx x.cid = some y ∧ y.st = .admitted ∧ n ≤ 0xFFFFFF ∧ h ≤ 31 ∧ core <
        nCores ∧ y.dbg = false) ∧
    (∃ (s : State) (f : FnIx) (tag : BitVec 16) (x : Cmd) (y : Ctx),
      let core := le x.arg 0 4
      let sl := le x.arg 4 1
      let space := le x.arg 5 1
      let off := le x.arg 6 8
      let c := s.m.runs core
      s.m.Turn f tag.toNat 0x0182 x ∧ s.m.ctx x.cid = some y ∧ y.st = .admitted ∧ y.dbg = true ∧ 0 < x.len ∧ (y.entry
        core sl).isSome = true ∧ x.fn ≠ mgmtFn ∧ space = 0xF ∧ ∃ b, (s.m.begun x).slotBytes c sl off x.len = some b) ∧
    (∃ (s : State) (f : FnIx) (tag : BitVec 16) (x : Cmd) (y : Ctx),
      let core := le x.arg 0 4
      let sl := le x.arg 4 1
      let space := le x.arg 5 1
      let off := le x.arg 6 8
      s.m.Turn f tag.toNat 0x0182 x ∧ s.m.ctx x.cid = some y ∧ y.st = .admitted ∧ y.dbg = true ∧ 0 < x.len ∧ (y.entry
        core sl).isSome = true ∧ x.fn ≠ mgmtFn ∧ space ≤ 1 ∧ ∃ q, s.m.loadPlace core sl space off x.len false = some
        q) :=
  ⟨⟨stm (dbgM (cmd 0x0180 [])), 0, 1, cmd 0x0180 [], { ctx0 with dbg := true }, turnOf (by decide +kernel),
    by decide +kernel⟩,
    ⟨hst (cmd 0x0180 []), 0, 1, cmd 0x0180 [], ctx0, turnOf (by decide +kernel), by decide +kernel⟩,
    ⟨stm (dbgM (cmd 0x0181 hudArg)), 0, 1, cmd 0x0181 hudArg, { ctx0 with dbg := true }, turnOf (by decide +kernel),
      by decide +kernel⟩,
    ⟨hst (cmd 0x0181 hudArg), 0, 1, cmd 0x0181 hudArg, ctx0, turnOf (by decide +kernel), by decide +kernel⟩,
    ⟨stm (dbgM slotRead), 0, 1, slotRead, { ctx0 with dbg := true }, turnOf (by decide +kernel), by decide +kernel,
      by decide +kernel, by decide +kernel, by decide +kernel, by decide +kernel, by decide +kernel, by decide +kernel,
      (((dbgM slotRead).begun slotRead).slotBytes 0 0 0x100 256).getD [], by decide +kernel⟩,
    ⟨stm (dbgM winRead), 0, 1, winRead, { ctx0 with dbg := true }, turnOf (by decide +kernel), by decide +kernel,
      by decide +kernel, by decide +kernel, by decide +kernel, by decide +kernel, by decide +kernel, by decide +kernel,
      ((dbgM winRead).loadPlace 0 0 0 0 4096 false).getD {}, by decide +kernel⟩⟩

/-- The hypotheses of TraceUnitsCapture can be met. -/
theorem witness_TraceUnitsCapture :
    (∃ (s : State) (f : FnIx) (tag : BitVec 16) (x : Cmd),
      let fd := le x.arg 0 1
      s.m.Turn f tag.toNat 0x0183 x ∧ fd ≤ 55 ∧ ∃ b, le x.arg 1 1 = 1 ∧ x.fn ≠ mgmtFn ∧ 180 ≤ x.len ∧ traceCfgOk
        (padTo b x.len) = true) ∧
    (∃ (s : State) (f : FnIx) (tag : BitVec 16) (x : Cmd),
      let fd := le x.arg 0 1
      s.m.Turn f tag.toNat 0x0183 x ∧ fd ≤ 55 ∧ le x.arg 1 1 = 2) ∧
    (∃ (s : State) (f : FnIx) (tag : BitVec 16) (x : Cmd),
      let fd := le x.arg 0 1
      s.m.Turn f tag.toNat 0x0183 x ∧ fd ≤ 55 ∧ le x.arg 1 1 = 3) ∧
    (∃ (s : State) (f : FnIx) (tag : BitVec 16) (x : Cmd),
      let fd := le x.arg 0 1
      s.m.Turn f tag.toNat 0x0183 x ∧ fd ≤ 55 ∧ ∃ c, le x.arg 1 1 = 4 ∧ le x.arg 2 1 ≤ 3 ∧ (s.m.field
        fd).trace.caps[le x.arg 2 1]? = some c) ∧
    (∃ (s : State) (f : FieldIx) (src : Fin 4) (e : TEvent) (rest : List TEvent), (s.m.field f).trace.waiting = e ::
      rest ∧ (s.m.field f).trace.lastCc ≤ s.m.cc ∧ e.src = src) ∧
    (∃ (s : State) (f : FieldIx) (src : Fin 4) (mark : Bool) (data : Bytes), ((s.m.field f).trace.waiting = [] ∨
      s.m.cc < (s.m.field f).trace.lastCc ∨ ∃ e rest, (s.m.field f).trace.waiting = e :: rest ∧ (e.src ≠ src ∨ e.mark
      ≠ mark ∨ e.data ≠ data))) ∧
    (∃ (s : State) (f : FieldIx),
      let t := (s.m.field f).trace
      t.st = .rearm ∧ t.since + usCc 1000 ≤ s.m.cc) ∧
    (∃ (t : Trace) (mask cc : Nat) (x : TSample), t.st = .armed ∧ mask = 0 ∧ t.samples.length = t.pre) ∧
    (∃ (t : Trace) (mask cc : Nat) (x : TSample), t.st = .armed ∧ mask ≠ 0) ∧
    (∃ (t : Trace) (mask cc : Nat) (x : TSample), t.st = .post ∧ t.postLeft ≤ 1) :=
  ⟨⟨hst { cmd 0x0183 [55, 1] with len := 180 }, 0, 1, { cmd 0x0183 [55, 1] with len := 180 }, turnOf
    (by decide +kernel), by decide +kernel, [], by decide +kernel⟩,
    ⟨hst (cmd 0x0183 [55, 2]), 0, 1, cmd 0x0183 [55, 2], turnOf (by decide +kernel), by decide +kernel⟩,
    ⟨hst (cmd 0x0183 [55, 3]), 0, 1, cmd 0x0183 [55, 3], turnOf (by decide +kernel), by decide +kernel⟩,
    ⟨stm { hostM (cmd 0x0183 [55, 4, 3]) with fields := .replicate 56 { trace := { caps := .replicate 4 {} } } }, 0, 1,
      cmd 0x0183 [55, 4, 3], turnOf (by decide +kernel), by decide +kernel, {}, by decide +kernel⟩,
    ⟨stm
      { mach with fields := .replicate 56 { trace := { waiting := [{ src := 3, mark := true }], lastCc := 100000 } } },
      55, 3, { src := 3, mark := true }, [], by decide +kernel⟩,
    ⟨stm
      { mach with fields := .replicate 56 { trace := { waiting := [{ src := 3, mark := true }], lastCc := 100000 } } },
      55, 2, true, [], Or.inr (Or.inr ⟨{ src := 3, mark := true }, [], by decide +kernel⟩)⟩,
    ⟨stm { mach with clk := { cc := 1200000 }, fields := .replicate 56 { trace := { st := .rearm } } }, 55,
      by decide +kernel⟩,
    ⟨{ st := .armed, pre := 1, samples := [{}] }, 0, 0, {}, by decide +kernel⟩,
    ⟨{ st := .armed }, 255, 0, {}, by decide +kernel⟩,
    ⟨{ st := .post, postLeft := 1 }, 1, 0, {}, by decide +kernel⟩⟩

/-- The hypotheses of LifecycleCommands can be met. -/
theorem witness_LifecycleCommands :
    (∃ (s : State) (f : FnIx) (tag : BitVec 16) (x : Cmd), s.m.Turn f tag.toNat 0x0190 x ∧ x.fn ≠ mgmtFn ∧ 4096 ≤
      x.len) ∧
    (∃ (s : State) (f : FnIx) (tag : BitVec 16) (x : Cmd) (l : Life), s.m.Turn f tag.toNat 0x0191 x ∧ s.m.isRestart x
      = false ∧ s.m.boot.life ≠ .retired ∧ le x.arg 1 1 < 2 ∧ lifeOf (le x.arg 0 1) = some l ∧ s.m.boot.life.next l =
      true ∧ s.m.ctxs = [] ∧ l ≠ .retired) ∧
    (∃ (s : State) (f : FnIx) (tag : BitVec 16) (x : Cmd) (l : Life), s.m.Turn f tag.toNat 0x0191 x ∧ s.m.isRestart x
      = false ∧ s.m.boot.life ≠ .retired ∧ le x.arg 1 1 < 2 ∧ lifeOf (le x.arg 0 1) = some l ∧ s.m.boot.life.next l =
      true ∧ s.m.ctxs ≠ []) ∧
    (∃ (s : State) (f : FnIx) (tag : BitVec 16) (x : Cmd) (l : Life), s.m.Turn f tag.toNat 0x0191 x ∧ s.m.isRestart x
      = false ∧ s.m.boot.life ≠ .retired ∧ le x.arg 1 1 < 2 ∧ lifeOf (le x.arg 0 1) = some l ∧ s.m.boot.life.next l =
      false) ∧
    (∃ (s : State) (f : FnIx) (tag : BitVec 16) (x : Cmd), s.m.Turn f tag.toNat 0x0191 x ∧ s.m.isRestart x = true ∧ 9
      ≤ s.m.boot.stage ∧ s.m.boot.recovering = false ∧ s.m.boot.going = true) ∧
    (∃ (s : State) (f : FnIx) (tag : BitVec 16) (x : Cmd) (d : Bytes),
      let b := padTo d x.len
      let i := imageFrom b
      s.m.Turn f tag.toNat 0x0192 x ∧ x.fn ≠ mgmtFn ∧ 256 ≤ x.len ∧ le b 0 4 = 1 ∧ s.m.imageOk i = true) ∧
    (∃ (s : State) (f : FnIx) (tag : BitVec 16) (x : Cmd),
      let c := le x.arg 4 4
      s.m.Turn f tag.toNat 0x0193 x ∧ le x.arg 0 1 = 1 ∧ s.m.boot.life = .service ∧ c < nCores ∧ s.m.coreOut c = false
        ∧ isAnchor c = false) ∧
    (∃ (s : State) (f : FnIx) (tag : BitVec 16) (x : Cmd),
      let g := le x.arg 4 4
      s.m.Turn f tag.toNat 0x0193 x ∧ le x.arg 0 1 = 2 ∧ s.m.boot.life = .service ∧ g < 56 ∧ s.m.boot.minimal = false
        ∧ s.m.holdsField g = false) :=
  ⟨⟨hst { cmd 0x0190 [] with len := 4096 }, 0, 1, { cmd 0x0190 [] with len := 4096 }, turnOf (by decide +kernel),
    by decide +kernel⟩,
    ⟨stm { hostM (cmd 0x0191 [3]) with ctxs := [] }, 0, 1, cmd 0x0191 [3], .service, turnOf (by decide +kernel),
      by decide +kernel⟩,
    ⟨hst (cmd 0x0191 [4]), 0, 1, cmd 0x0191 [4], .retired, turnOf (by decide +kernel), by decide +kernel⟩,
    ⟨hst (cmd 0x0191 [1]), 0, 1, cmd 0x0191 [1], .provisioned, turnOf (by decide +kernel), by decide +kernel⟩,
    ⟨hst (cmd 0x0191 [2, 1]), 0, 1, cmd 0x0191 [2, 1], turnOf (by decide +kernel), by decide +kernel⟩,
    ⟨hst { cmd 0x0192 [] with len := 256 }, 0, 1, { cmd 0x0192 [] with len := 256 }, toBytes 4 1 ++ toBytes 2
      siliconStep, turnOf (by decide +kernel), by decide +kernel⟩,
    ⟨stm (serviceM (cmd 0x0193 [1])), 0, 1, cmd 0x0193 [1], turnOf (by decide +kernel), by decide +kernel⟩,
    ⟨stm (serviceM (cmd 0x0193 [2, 0, 0, 0, 55])), 0, 1, cmd 0x0193 [2, 0, 0, 0, 55], turnOf (by decide +kernel),
      by decide +kernel⟩⟩

/-- The hypotheses of MarginsAreKept can be met. -/
theorem witness_MarginsAreKept :
    (∃ (s : State) (c : CoreIx) (ps : Nat), 3 ≤ s.m.boot.stage ∧ (s.m.field (fieldOf c)).ring = .on ∧ 40 ≤ ps) ∧
    (∃ (s : State) (c : CoreIx) (ps : Nat), 3 ≤ s.m.boot.stage ∧ (s.m.field (fieldOf c)).ring = .on ∧ ps < 40 ∧ 2 ≤
      (s.m.core c).lowSlack ∧ s.m.mayRepair c = true) ∧
    (∃ (s : State) (c : CoreIx) (ps : Nat), 3 ≤ s.m.boot.stage ∧ (s.m.field (fieldOf c)).ring = .on ∧ ps < 40 ∧ 2 ≤
      (s.m.core c).lowSlack ∧ s.m.mayRepair c = false) ∧
    (∃ (x : Margins) (cc kind unit_ : Nat) (v : Int), ∃ r, r ∈ (x.take cc kind unit_ v).readings) ∧
    (∃ (x : Margins) (cc kind unit_ : Nat) (v : Int), kind = 1 ∧ ∃ d, x.day.slack = some d) ∧
    (∃ s : State, 3 ≤ s.m.boot.stage ∧ s.m.boot.dayAt + dayCc ≤ s.m.cc) ∧
    (∃ (s : State) (f : FnIx) (tag : BitVec 16) (x : Cmd), s.m.Turn f tag.toNat 0x0150 x ∧ le x.arg 0 1 = 4 ∧ x.len <
      7232) ∧
    (∃ (s : State) (f : FnIx) (tag : BitVec 16) (x : Cmd), s.m.Turn f tag.toNat 0x0150 x ∧ le x.arg 0 1 = 4 ∧ 7232 ≤
      x.len) :=
  ⟨⟨st core0, 0, 40, by decide +kernel⟩,
    ⟨st { core0 with lowSlack := 2 }, 0, 39, by decide +kernel⟩,
    ⟨stm { mk { core0 with lowSlack := 2 } with boot := { mach.boot with stage := 8 } }, 0, 39, by decide +kernel⟩,
    ⟨{}, 0, 1, 0, 5, { kind := 1, value := 5 }, by decide +kernel⟩,
    ⟨{ day := { slack := some 3 } }, 0, 1, 0, 5, by decide +kernel, 3, by decide +kernel⟩,
    ⟨stm { mach with clk := { cc := dayCc } }, by decide +kernel⟩,
    ⟨hst { cmd 0x0150 [4] with len := 7231 }, 0, 1, { cmd 0x0150 [4] with len := 7231 }, turnOf (by decide +kernel),
      by decide +kernel⟩,
    ⟨hst { cmd 0x0150 [4] with len := 7232 }, 0, 1, { cmd 0x0150 [4] with len := 7232 }, turnOf (by decide +kernel),
      by decide +kernel⟩⟩

/-- The hypotheses of PortsServeCommands can be met. -/
theorem witness_PortsServeCommands :
    (∃ (s : State) (p : Fin 2), s.m.hostUp p = true) ∧
    (∃ (s : State) (p : Fin 2), s.m.hostUp p = false ∧ s.m.hostUp (1 - p.val) = true ∧ s.m.host.dom p ≠ .off ∧ 2 ≤
      s.m.boot.stage) ∧
    (∃ (s : State) (f : FnIx), f.val < mgmtFn ∧ (∀ e ∈ s.m.ctxs, e.2.owner = f.val → s.m.ctxMoving e.2 = false)) ∧
    (∃ (s : State) (p : Fin 2), (∀ e ∈ s.m.ctxs, portOf e.2.owner = p.val → s.m.ctxMoving e.2 = false)) ∧
    (∃ s : State, s.m.host.host0 = .on ∧ s.m.hostUp 0 = false) ∧
    (∃ s : State, s.m.host.host1 = .on ∧ s.m.hostUp 1 = false) ∧
    (∃ s : State, s.m.host.mgmt = .on) ∧
    (∃ s : State, s.m.host.mgmt = .ret) ∧
    (∃ s : State, s.m.smbusUp = true ∧ (s.m.boot.ready = true ∨ s.m.boot.minimal = true)) ∧
    (∃ s : State, s.m.smbusUp = true ∧ ∃ key : BitVec 8, key ≠ 0xA5) ∧
    (∃ s : State, s.m.smbusUp = true ∧ s.m.boot.off = false) ∧
    (∃ s : State, s.m.smbusUp = true ∧ ∃ key : BitVec 8, key ≠ 0x5A) ∧
    (∃ s : State, s.m.smbusUp = true ∧ ∃ v : BitVec 8, 8 ≤ v.toNat) ∧
    (∃ s : State, s.m.smbusUp = true ∧ ∃ v : BitVec 8, v.toNat < 8 ∧ bitOf v.toNat 2 = true) ∧
    (∃ (s : State) (seq : BitVec 32) (entry data : Bytes), 2 ≤ s.m.boot.stage ∧ s.m.host.mgmt = .on ∧ data.length ≤
      1024) :=
  ⟨⟨stm mach, 1, by decide +kernel⟩,
    ⟨stm { mach with host := { mach.host with portUp := vset (.replicate 2 true) 0 false } }, 0, by decide +kernel⟩,
    ⟨hst (cmd 0 []), 0, by decide +kernel⟩,
    ⟨hst (cmd 0 []), 0, by decide +kernel⟩,
    ⟨stm { mach with host := { host0 := .on } }, by decide +kernel⟩,
    ⟨stm { mach with host := { host1 := .on } }, by decide +kernel⟩,
    ⟨stm mach, by decide +kernel⟩,
    ⟨stm { mach with host := { mgmt := .ret } }, by decide +kernel⟩,
    ⟨stm mach, by decide +kernel⟩,
    ⟨stm mach, by decide +kernel, 0xA4, by decide +kernel⟩,
    ⟨stm mach, by decide +kernel⟩,
    ⟨stm mach, by decide +kernel, 0x5B, by decide +kernel⟩,
    ⟨stm mach, by decide +kernel, 8, by decide +kernel⟩,
    ⟨stm mach, by decide +kernel, 7, by decide +kernel⟩,
    ⟨stm mach, 0, [], List.replicate 1024 0, by decide +kernel⟩⟩

/-- The hypotheses of FieldsSleepAndWake can be met. -/
theorem witness_FieldsSleepAndWake :
    (∃ (s : State) (f : FieldIx), (s.m.field f).sleep = .awake ∧ (s.m.field f).ring = .on ∧ s.m.boot.stage = 9 ∧
      s.m.boot.recovering = false ∧ (s.m.field f).fcHung = false ∧ (s.m.field f).fcFenced = false ∧ (s.m.field
      f).abortAt = none ∧ s.m.portReserved f = false ∧ (∀ e ∈ s.m.coresOf f, e.2.quiet s.m.cc = true ∧ e.2.pwr.busyAt
      + usCc 1000 ≤ s.m.cc)) ∧
    (∃ (s : State) (c : CoreIx),
      let f := fieldOf c
      let k := s.m.core c
      (s.m.field f).sleep = .preparing ∧ aget (s.m.field f).answers c.val = none ∧ k.inWindow s.m.cc = false ∧
        s.m.coreEnabled c = true ∧ k.refusal = 0) ∧
    (∃ (s : State) (c : CoreIx),
      let f := fieldOf c
      let k := s.m.core c
      (s.m.field f).sleep = .preparing ∧ aget (s.m.field f).answers c.val = none ∧ k.inWindow s.m.cc = false ∧
        s.m.coreEnabled c = true ∧ k.refusal ≠ 0) ∧
    (∃ (s : State) (f : FieldIx), (s.m.field f).sleep = .preparing ∧ s.m.refusers f = [] ∧ (∀ c ∈ fieldCores f,
      s.m.coreEnabled c = true → aget (s.m.field f).answers c = some 0)) ∧
    (∃ (s : State) (f : FieldIx), (s.m.field f).sleep = .preparing ∧ s.m.refusers f ≠ []) ∧
    (∃ (s : State) (f : FieldIx), (s.m.field f).sleep = .committed ∧ (∃ e ∈ s.m.coresOf f, e.2.wakeEvent e.1 = true ∨
      e.2.ubWaits e.1 = true)) :=
  ⟨⟨stm { mach with cores := [(55296, core0)], clk := { cc := 1200000 } }, 24, by decide +kernel⟩,
    ⟨stm { mk core0 with fields := .replicate 56 { onField with sleep := .preparing } }, 0, by decide +kernel⟩,
    ⟨stm { mk (slotC { ctl := ctl0 }) with fields := .replicate 56 { onField with sleep := .preparing } }, 0,
      by decide +kernel⟩,
    ⟨stm agreedM, 0, by decide +kernel, agreed_none, fun c h _ => agreed_all c h⟩,
    ⟨stm { mk core0 with fields := .replicate 56 { onField with sleep := .preparing, answers := [(0, 3)] } }, 0,
      by decide +kernel⟩,
    ⟨stm { mk (slotC parked) with fields := .replicate 56 { onField with sleep := .committed } }, 0, by decide +kernel⟩⟩

/-- The hypotheses of PowerAndCoolingActOnLimits can be met. -/
theorem witness_PowerAndCoolingActOnLimits :
    (∃ (s : State) (fixed draw prot : Nat) (ds : List Nat), 3 ≤ s.m.boot.stage ∧ s.m.power.budgetAt + usCc 1000 ≤
      s.m.cc) ∧
    (∃ (s : State) (f : FieldIx) (draw : Nat), (s.m.field f).ring = .on ∧ (s.m.field f).fcHung = false ∧ 0 <
      s.m.power.budgetAt) ∧
    (∃ (s : State) (mv : Nat), 0 < s.m.boot.stage ∧ 38000 ≤ mv ∧ mv ≤ 40000 ∧ s.m.power.inputLow = false) ∧
    (∃ (s : State) (mv : Nat), 0 < s.m.boot.stage ∧ mv < 38000) ∧
    (∃ (s : State) (mv : Nat), 0 < s.m.boot.stage ∧ 60000 < mv ∧ mv ≤ 63000 ∧ s.m.power.inputHigh = false) ∧
    (∃ (s : State) (mv : Nat), 0 < s.m.boot.stage ∧ 63000 < mv) ∧
    (∃ (s : State) (mv : Nat), 0 < s.m.boot.stage ∧ 40000 < mv ∧ mv ≤ 60000) ∧
    (∃ s : State, s.m.clk.refPresent = true ∧ s.m.clk.locked = true ∧ 0 < s.m.boot.stage) ∧
    (∃ s : State, ∃ t, s.m.clk.holdover = some t ∧ t + 12000000000 ≤ s.m.cc ∧ s.m.clk.holdoverOut = false) ∧
    (∃ s : State, s.m.clk.refPresent = false ∧ s.m.clk.holdoverOut = true ∧ 9 ≤ s.m.boot.stage) ∧
    (∃ s : State, s.m.boot.stage = 1 ∧ s.m.clk.refPresent = false ∧ s.m.boot.since + 12000000000 ≤ s.m.cc) ∧
    (∃ (s : State) (inlet outlet : Int) (flow : Nat) (logic tier : Int), 0 < s.m.boot.stage ∧ s.m.boot.off = false) ∧
    (∃ (s : State) (logic tier : Int), (105 ≤ logic ∨ 100 ≤ tier) ∧ 0 < s.m.boot.stage ∧ s.m.boot.off = false) ∧
    (∃ (s : State) (hottest inlet : Int) (flow : Nat), s.m.boot.hotOff = true ∧ hottest < 85 ∧ inlet ≤ 320 ∧ 600 ≤
      flow) :=
  ⟨⟨stm { mach with clk := { cc := 1200000 } }, 0, 0, 0, [], by decide +kernel⟩,
    ⟨stm { mk core0 with power := { budgetAt := 1 } }, 0, 0, by decide +kernel⟩,
    ⟨stm mach, 38000, by decide +kernel⟩,
    ⟨stm mach, 37999, by decide +kernel⟩,
    ⟨stm mach, 63000, by decide +kernel⟩,
    ⟨stm mach, 63001, by decide +kernel⟩,
    ⟨stm mach, 60000, by decide +kernel⟩,
    ⟨stm mach, by decide +kernel⟩,
    ⟨stm { mach with clk := { cc := 12000000000, holdover := some 0 } }, 0, by decide +kernel⟩,
    ⟨stm { mach with clk := { refPresent := false, holdoverOut := true } }, by decide +kernel⟩,
    ⟨stm { mach with boot := { stage := 1 }, clk := { cc := 12000000000, refPresent := false } }, by decide +kernel⟩,
    ⟨stm mach, 0, 0, 0, 0, 0, by decide +kernel⟩,
    ⟨stm mach, 105, 0, by decide +kernel⟩,
    ⟨stm { mach with boot := { hotOff := true, off := true } }, 84, 320, 600, by decide +kernel⟩⟩

/-- The hypotheses of StartGoesThroughItsStages can be met. -/
theorem witness_StartGoesThroughItsStages :
    (∃ (s : State) (mv : Nat), s.m.boot.stage = 0 ∧ s.m.boot.off = false ∧ 40000 < mv ∧ mv ≤ 63000) ∧
    (∃ (s : State), s.m.boot.stage = 1 ∧ s.m.boot.going = true ∧ s.m.clk.refPresent = true) ∧
    (∃ (s : State), s.m.boot.stage = 2 ∧ s.m.boot.going = true ∧ ∃ ok : Bool, s.m.imageOk s.m.activeImage = true) ∧
    (∃ (s : State) (k : Fin 8), s.m.boot.stage = 3 ∧ s.m.boot.going = true ∧ s.m.boot.minimal = false ∧ s.m.boot.wave
      = k.val ∧ s.m.boot.since + usCc (50000 * k.val) ≤ s.m.cc) ∧
    (∃ (s : State) (fcBad ringBad : List FieldIx) (pllOk : Bool) (coreBad : List CoreIx) (subBad : List (CoreIx ×
      TierIx × Fin 16)) (thermBad loopBad : List FieldIx), s.m.boot.stage = 4 ∧ s.m.boot.going = true ∧
      s.m.boot.minimal = false ∧ ∃ f l, fcBad = f :: l) ∧
    (∃ (s : State) (fcBad ringBad : List FieldIx) (pllOk : Bool) (coreBad : List CoreIx) (subBad : List (CoreIx ×
      TierIx × Fin 16)) (thermBad loopBad : List FieldIx), s.m.boot.stage = 4 ∧ s.m.boot.going = true ∧
      s.m.boot.minimal = false ∧ ∃ f l, fcBad = [] ∧ ringBad = f :: l) ∧
    (∃ (s : State) (fcBad ringBad : List FieldIx) (pllOk : Bool) (coreBad : List CoreIx) (subBad : List (CoreIx ×
      TierIx × Fin 16)) (thermBad loopBad : List FieldIx), s.m.boot.stage = 4 ∧ s.m.boot.going = true ∧
      s.m.boot.minimal = false ∧ fcBad = [] ∧ ringBad = [] ∧ pllOk = false) ∧
    (∃ (s : State) (fcBad ringBad : List FieldIx) (pllOk : Bool) (coreBad : List CoreIx) (subBad : List (CoreIx ×
      TierIx × Fin 16)) (thermBad loopBad : List FieldIx), s.m.boot.stage = 4 ∧ s.m.boot.going = true ∧
      s.m.boot.minimal = false ∧ fcBad = [] ∧ ringBad = [] ∧ pllOk = true) ∧
    (∃ (s : State) (inFull failed : List (CoreIx × TierIx)) (domainBad : List (FieldIx × TierIx)), s.m.boot.stage = 5
      ∧ s.m.boot.going = true ∧ ∃ d l, domainBad = d :: l) ∧
    (∃ (s : State) (inFull failed : List (CoreIx × TierIx)) (domainBad : List (FieldIx × TierIx)), s.m.boot.stage = 5
      ∧ s.m.boot.going = true ∧ domainBad = []) ∧
    (∃ (s : State) (trained : List (FieldIx × BitVec 16)), s.m.boot.stage = 6 ∧ s.m.boot.going = true ∧ s.m.log.place
      = none) ∧
    (∃ (s : State) (outcome : List (FieldIx × Bool × BitVec 16)), s.m.boot.stage = 7 ∧ s.m.boot.going = true) ∧
    (∃ (s : State), s.m.boot.stage = 8 ∧ s.m.boot.going = true) ∧
    (∃ s : State, 3 ≤ s.m.boot.stage ∧ s.m.boot.beatAt + usCc 10000 ≤ s.m.cc) ∧
    (∃ (s : State) (f : FieldIx), s.m.boot.stage = 9 ∧ (s.m.eng f).st = .idle ∧ (s.m.eng f).fenced = false ∧
      s.m.engPort f < 9 ∧ (s.m.field f).light = .ret) ∧
    (∃ (s : State) (k : Fin 8), s.m.boot.stage = 3 ∧ s.m.boot.going = true ∧ s.m.boot.minimal = false ∧ s.m.boot.wave
      = k.val ∧ s.m.boot.since + usCc (50000 * k.val) ≤ s.m.cc ∧ ∃ f : Nat, f < 56 ∧ f % 8 = k.val) ∧
    (∃ (s : State) (k : Fin 8), s.m.boot.stage = 3 ∧ s.m.boot.going = true ∧ s.m.boot.minimal = false ∧ s.m.boot.wave
      = k.val ∧ s.m.boot.since + usCc (50000 * k.val) ≤ s.m.cc ∧ ∃ c : CoreIx, fieldOf c % 8 = k.val ∧ s.m.coreOut c =
      false) ∧
    (∃ (s : State) (k : Fin 8), s.m.boot.stage = 3 ∧ s.m.boot.going = true ∧ s.m.boot.minimal = false ∧ s.m.boot.wave
      = k.val ∧ s.m.boot.since + usCc (50000 * k.val) ≤ s.m.cc ∧ ∃ c : CoreIx, (fieldOf c % 8 ≠ k.val ∨ s.m.coreOut c
      = true)) :=
  ⟨⟨State.reset, 63000, by decide +kernel⟩,
    ⟨stageS 1 0 0, by decide +kernel⟩,
    ⟨stageS 2 0 0, by decide +kernel, by decide +kernel, true, by decide +kernel⟩,
    ⟨stageS 3 0 0, 0, by decide +kernel⟩,
    ⟨stageS 4 8 0, [0], [], true, [], [], [], [], by decide +kernel, by decide +kernel, by decide +kernel, 0, [],
      by decide +kernel⟩,
    ⟨stageS 4 8 0, [], [55], true, [], [], [], [], by decide +kernel, by decide +kernel, by decide +kernel, 55, [],
      by decide +kernel⟩,
    ⟨stageS 4 8 0, [], [], false, [], [], [], [], by decide +kernel⟩,
    ⟨stageS 4 8 0, [], [], true, [0], [(0, 1, 15)], [55], [55], by decide +kernel⟩,
    ⟨stageS 5 8 0, [], [], [(55, 1)], by decide +kernel, by decide +kernel, (55, 1), [], by decide +kernel⟩,
    ⟨stageS 5 8 0, [(0, 1)], [(0, 0)], [], by decide +kernel⟩,
    ⟨stageS 6 8 0, [(0, 0xFFFF)], by decide +kernel⟩,
    ⟨stageS 7 8 0, [(0, true, 0)], by decide +kernel⟩,
    ⟨stageS 8 8 0, by decide +kernel⟩,
    ⟨stageS 9 8 12000000, by decide +kernel⟩,
    ⟨stm { mach with fields := .replicate 56 { onField with light := .ret } }, 26, by decide +kernel⟩,
    ⟨stageS 3 7 420000000, 7, by decide +kernel, by decide +kernel, by decide +kernel, by decide +kernel,
      by decide +kernel, 55, by decide +kernel⟩,
    ⟨stageS 3 0 0, 0, by decide +kernel, by decide +kernel, by decide +kernel, by decide +kernel, by decide +kernel, 0,
      by decide +kernel⟩,
    ⟨stageS 3 7 420000000, 7, by decide +kernel, by decide +kernel, by decide +kernel, by decide +kernel,
      by decide +kernel, 0, by decide +kernel⟩⟩

/-- The hypotheses of StartFailuresAndRecovery can be met. -/
theorem witness_StartFailuresAndRecovery :
    (∃ (s : State) (st ms r : Nat), (st, ms, r) ∈ [(2, 10000, 0x0205), (3, 1000, 0x0302), (4, 60000, 0x0404), (5,
      150000, 0x0502), (8, 5000, 0x0802)] ∧ s.m.boot.stage = st ∧ s.m.boot.going = true ∧ s.m.boot.minimal = false ∧
      s.m.boot.since + usCc (ms * 1000) < s.m.cc) ∧
    (∃ (s : State) (r : Nat), s.m.boot.failed = some r ∧ s.m.boot.fails < 2) ∧
    (∃ (s : State) (r : Nat), s.m.boot.failed = some r ∧ r / 256 = 2 ∧ r ≠ 0x0205 ∧ s.m.imageOk (if s.m.boot.activeB
      then s.m.boot.imgA else s.m.boot.imgB) = false) ∧
    (∃ (s : State) (r : Nat), s.m.boot.failed = some r ∧ r / 256 = 2 ∧ s.m.imageOk (if s.m.boot.activeB then
      s.m.boot.imgA else s.m.boot.imgB) = true ∧ s.m.boot.fails < 2) ∧
    (∃ (s : State) (r : Nat), s.m.boot.failed = some r ∧ 2 ≤ s.m.boot.fails ∧ r / 256 ≠ 2) ∧
    (∃ (s : State) (t : Nat), s.m.boot.failedAt = some t ∧ t + usCc 1000000 ≤ s.m.cc ∧ s.m.boot.noImage = false) ∧
    (∃ (s : State) (inFull : List (CoreIx × TierIx)), s.m.boot.going = true ∧ s.m.boot.stage = 9 ∧ s.m.boot.ready =
      true) ∧
    (∃ s : State, 3 ≤ s.m.boot.stage ∧ s.m.boot.beatAt + usCc 500000 ≤ s.m.cc) :=
  ⟨⟨stageS 2 0 12000000001, 2, 10000, 0x0205, by decide +kernel⟩,
    ⟨stm { mach with boot := { stage := 5, failed := some 0x0502, fails := 1 } }, 0x0502, by decide +kernel⟩,
    ⟨stm { mach with boot := { stage := 2, failed := some 0x0201 } }, 0x0201, by decide +kernel⟩,
    ⟨stm { mach with boot := { stage := 2, failed := some 0x0201, fails := 1, imgB := mach.boot.imgA } }, 0x0201,
      by decide +kernel⟩,
    ⟨stm { mach with boot := { stage := 5, failed := some 0x0502, fails := 2 } }, 0x0502, by decide +kernel⟩,
    ⟨stm { mach with boot := { stage := 5, failedAt := some 0 }, clk := { cc := 1200000000 } }, 0, by decide +kernel⟩,
    ⟨stm mach, [], by decide +kernel⟩,
    ⟨stageS 9 8 600000000, by decide +kernel⟩⟩

/-- The hypotheses of SlicesAndRepairs can be met. -/
theorem witness_SlicesAndRepairs :
    (∃ (s : State) (c : CoreIx), s.m.mayTest (fieldOf c) = true ∧ (s.m.coreEnabled c = true ∨ s.m.coreBench c = true)
      ∧ s.m.inMove c = false ∧ s.m.workAt (s.m.indexOf c) = [] ∧ (s.m.coreBench c = true ∨ s.m.indexOf c = c)) ∧
    (∃ (s : State) (c : CoreIx), s.m.mayTest (fieldOf c) = true ∧ (s.m.coreEnabled c = true ∨ s.m.coreBench c = true)
      ∧ s.m.inMove c = false ∧ ∃ (i : TierIx) (sa : Fin 16), (s.m.core c).colsUsed i sa < 64) ∧
    (∃ (s : State) (c : CoreIx), s.m.mayTest (fieldOf c) = true ∧ (s.m.coreEnabled c = true ∨ s.m.coreBench c = true)
      ∧ s.m.inMove c = false ∧ ∃ (i : TierIx) (sa : Fin 16), 64 ≤ (s.m.core c).colsUsed i sa ∧ (s.m.core c).rowsUsed i
      sa < 128) ∧
    (∃ (s : State) (f : FieldIx) (cores : List CoreIx), s.m.mayTest f = true ∧ (s.m.eng f).fenced = false) ∧
    (∃ (s : State) (f : FieldIx) (cores : List CoreIx), s.m.mayTest f = true ∧ s.m.benchIdle f = true) ∧
    (∃ (s : State) (f : FieldIx) (b : Nat), benchOf (roleOf f) = some b ∧ s.m.boot.stage = 9 ∧ (s.m.eng f).fenced =
      true ∧ roleOf f < 4 ∧ s.m.benchIdle b = true ∧ (∀ g ∈ s.m.fabric.engs.toList, g.standsFor ≠ some f.val) ∧ ∃
      lanes : BitVec 16, 15 ≤ laneCount lanes) ∧
    (∃ (s : State) (f : FieldIx) (b : Nat), benchOf (roleOf f) = some b ∧ s.m.boot.stage = 9 ∧ (s.m.eng f).fenced =
      true ∧ roleOf f < 4 ∧ s.m.benchIdle b = true ∧ (∀ g ∈ s.m.fabric.engs.toList, g.standsFor ≠ some f.val) ∧ ∃
      lanes : BitVec 16, laneCount lanes < 15) ∧
    (∃ (s : State) (c : CoreIx) (i : TierIx),
      let k := s.m.core c
      let pos := vget k.care.pos i
      let off := cellOff i (pos / subWords) (pos % subWords / 32) (pos % 32 / 4) (pos % 4)
      k.pwr.bankctl = .on ∧ vget k.pwr.sr i = false ∧ vget (s.m.field (fieldOf c)).tiers i = .on ∧ s.m.tierServed c i
        = true ∧ pos + 1 < tierWords ∧ k.poisonU.contains (off / 32) = false ∧ ∃ (sym : Fin 36) (err : BitVec 8), err
        ≠ 0 ∧ aget k.soft (off / 32) = none) ∧
    (∃ (s : State) (c : CoreIx) (i : TierIx), s.m.boot.stage = 9 ∧ (s.m.core c).pwr.bankctl ≠ .off ∧ vget (s.m.core
      c).care.overdue i = false ∧ vget (s.m.core c).care.passStart i + 48 * 3600 * 1200000000 ≤ s.m.cc) ∧
    (∃ (s : State) (c : CoreIx) (i : TierIx) (sa : Fin 16) (col : Fin 9216), s.m.mayTest (fieldOf c) = true ∧
      (s.m.core c).care.declared.contains (i.val, sa.val, col.val) = true ∧ (s.m.core c).colsUsed i sa < 64) ∧
    (∃ (s : State) (c : CoreIx) (i : TierIx) (sa : Fin 16) (col : Fin 9216), s.m.mayTest (fieldOf c) = true ∧
      (s.m.core c).care.declared.contains (i.val, sa.val, col.val) = true ∧ 64 ≤ (s.m.core c).colsUsed i sa) ∧
    (∃ (s : State) (c : CoreIx) (i : TierIx) (sa : Fin 16) (row : Fin 768), s.m.mayTest (fieldOf c) = true ∧ 2 <
      ((s.m.core c).care.cells.filter fun e => e.1 == i.val && e.2.1 == sa.val && e.2.2.1 == row.val).length ∧
      (s.m.core c).rowsUsed i sa < 128) ∧
    (∃ (s : State) (c : CoreIx) (i : TierIx) (sa : Fin 16) (row : Fin 768), s.m.mayTest (fieldOf c) = true ∧ 2 <
      ((s.m.core c).care.cells.filter fun e => e.1 == i.val && e.2.1 == sa.val && e.2.2.1 == row.val).length ∧ 128 ≤
      (s.m.core c).rowsUsed i sa) :=
  ⟨⟨st core0, 0, by decide +kernel⟩,
    ⟨st core0, 0, by decide +kernel, by decide +kernel, by decide +kernel, 1, 15, by decide +kernel⟩,
    ⟨st (careC { cols := cols64 }), 0, by decide +kernel, by decide +kernel, by decide +kernel, 1, 15,
      by decide +kernel⟩,
    ⟨st core0, 0, [0], by decide +kernel⟩,
    ⟨st core0, 24, [], by decide +kernel⟩,
    ⟨stm { mach with fabric := { engs := vset (.replicate 56 {}) 0 { st := .down, fenced := true } } }, 0, (benchOf
      2).getD 0, by decide +kernel, by decide +kernel, by decide +kernel, by decide +kernel, by decide +kernel,
      by decide +kernel, 0x7FFF, by decide +kernel⟩,
    ⟨stm { mach with fabric := { engs := vset (.replicate 56 {}) 0 { st := .down, fenced := true } } }, 0, (benchOf
      2).getD 0, by decide +kernel, by decide +kernel, by decide +kernel, by decide +kernel, by decide +kernel,
      by decide +kernel, 0, by decide +kernel⟩,
    ⟨st (careC { pos := .replicate 2 (tierWords - 2) }), 0, 1, by decide +kernel, by decide +kernel, by decide +kernel,
      by decide +kernel, by decide +kernel, by decide +kernel, 31, 255, by decide +kernel⟩,
    ⟨stm { mk core0 with clk := { cc := 48 * 3600 * 1200000000 } }, 0, 1, by decide +kernel⟩,
    ⟨st (careC { declared := [(1, 15, 9215)] }), 0, 1, 15, 9215, by decide +kernel⟩,
    ⟨st (careC { declared := [(1, 15, 9215)], cols := cols64 }), 0, 1, 15, 9215, by decide +kernel⟩,
    ⟨st (careC { cells := cells3 }), 0, 1, 15, 767, by decide +kernel⟩,
    ⟨st (careC { cells := cells3, rows := (List.range 128).map fun i => (1, 15, i) }), 0, 1, 15, 767,
      by decide +kernel⟩⟩

/-- The hypotheses of SubstitutionsAndLosses can be met. -/
theorem witness_SubstitutionsAndLosses :
    (∃ (s : State) (c : CoreIx) (reason : BitVec 4),
      let idx := s.m.indexOf c
      s.m.mayRepair c = true ∧ 0 < reason.toNat ∧ reason.toNat < 7 ∧ s.m.coreOut c = false ∧ s.m.workAt idx = [] ∧
        (s.m.coreBench c = true ∨ idx = c)) ∧
    (∃ (s : State) (c : CoreIx) (reason : BitVec 4),
      let idx := s.m.indexOf c
      s.m.mayRepair c = true ∧ 0 < reason.toNat ∧ reason.toNat < 7 ∧ s.m.coreOut c = false ∧ ∃ i b, s.m.coreBench c =
        false ∧ s.m.workAt idx ≠ [] ∧ isAnchor c = false ∧ s.m.substSlot idx = some i ∧ s.m.chooseBench c false = some
        b ∧ s.m.inFlightTo c idx = false ∧ (s.m.field (fieldOf c)).sleep ≠ .committed ∧ (s.m.field (fieldOf b)).sleep
        ≠ .committed ∧ (∀ j, j < 6 → vget (s.m.core c).pwr.banks j ≠ .off)) ∧
    (∃ (s : State) (c : CoreIx) (reason : BitVec 4), s.m.mayRepair c = true ∧ 0 < reason.toNat ∧ reason.toNat < 7 ∧
      s.m.coreEnabled c = true ∧ s.m.workAt (s.m.indexOf c) ≠ []) ∧
    (∃ (s : State) (i : Fin 64),
      let e := vget s.m.wafer.subst i
      e.valid = true ∧ e.holding = false ∧ (∀ x ∈ s.m.ctxs, s.m.refersTo x.1 x.2 e.orig = false) ∧ e.orig ≠ e.stand) :=
  ⟨⟨st core0, 0, 6, by decide +kernel⟩,
    (subst_meets.elim fun b h => ⟨hst (cmd 0 []), 0, 1, by decide +kernel, by decide +kernel, by decide +kernel,
      by decide +kernel, 0, b, by decide +kernel, by decide +kernel, by decide +kernel, by decide +kernel, h.1,
      by decide +kernel, by decide +kernel, h.2, by decide +kernel⟩),
    ⟨hst (cmd 0 []), 0, 1, by decide +kernel⟩,
    ⟨stm
      { hostM (cmd 0 []) with wafer := { plan with subst := vset (.replicate 64 {}) 63 { orig := 2, stand := 383, valid := true } } },
      63, by decide +kernel⟩⟩

/-- The hypotheses of SentryAndFieldControllers can be met. -/
theorem witness_SentryAndFieldControllers :
    (∃ (s : State) (c : CoreIx) (delta : BitVec 32) (p : SenPkt) (rest : List SenPkt) (sl : Nat) (spare : Bool) (live
      : List Nat) (m : Mach),
      let k := s.m.core c
      k.packets = p :: rest ∧ (k.slotsOf p.cid.toNat).head? = some sl ∧ k.clocksRun s.m.cc = true ∧ k.lastIssue ≠ some
        s.m.cc ∧ cycleRemoved k.pwr s.m.cc = false ∧ (p.kind = 1 ∨ busyIn k.eng.busyTo s.m.cc = false) ∧
        s.m.countCycle c = (live, m) ∧ (m.core c).seq.choose (sl :: live) = some (sl, spare)) ∧
    (∃ (s : State) (delta : BitVec 32) (i r : Nat),
      let x := lget s.m.mismatches i
      (s.m.mismatches.findIdx? fun x => x.refereeCrc.isNone) = some i ∧ s.m.refereeOf x.pkt = some r ∧ (s.m.core
        r).refereeAt = none) ∧
    (∃ (s : State) (ok : Bool) (x : Mismatch) (rest : List Mismatch), s.m.mismatches = x :: rest ∧ x.refereeCrc.isSome
      = true ∧ s.m.mayAct x = true) ∧
    (∃ (s : State) (f : FieldIx), (s.m.field f).ring = .on ∧ (s.m.field f).fcHung = false ∧ s.m.boot.stage = 9 ∧
      (s.m.field f).lastBeat + usCc 5000 ≤ s.m.cc) ∧
    (∃ (s : State) (f : FieldIx), (s.m.field f).fcHung = true ∧ (s.m.field f).hangs.length < 3) ∧
    (∃ (s : State) (f : FieldIx), (s.m.field f).fcHung = true ∧ 3 ≤ (s.m.field f).hangs.length) :=
  ⟨⟨st pktC, 0, 0, { cid := 5, kind := 1 }, [], 0, false, ((st pktC).m.countCycle 0).1, ((st pktC).m.countCycle 0).2,
    by decide +kernel, by decide +kernel, by decide +kernel, by decide +kernel, by decide +kernel, by decide +kernel,
    pair_eta _, by decide +kernel⟩,
    (referee_found.elim fun r h => ⟨stm mismM, 0, 0, r, by decide +kernel, h⟩),
    ⟨stm { mach with mismatches := [{ refereeCrc := some 0 }] }, true, { refereeCrc := some 0 }, [], by decide +kernel⟩,
    ⟨stm { mach with clk := { cc := 6000000 } }, 55, by decide +kernel⟩,
    ⟨hungS [1, 2], 55, by decide +kernel⟩,
    ⟨hungS [1, 2, 3], 55, by decide +kernel⟩⟩

/-- The hypotheses of RegistersHoldWhatIsWritten can be met. -/
theorem witness_RegistersHoldWhatIsWritten :
    (∃ (a : SlotArch) (n k : Nat) (v : BitVec 64), n < 32 ∧ k < 32) ∧
    (∃ (a : SlotArch) (n k : Nat) (v : Bool), n < 8 ∧ k < 8 ∧ n = 0) :=
  ⟨⟨{}, 31, 0, 0, by decide +kernel⟩,
    ⟨{}, 0, 7, true, by decide +kernel⟩⟩

/-- The hypotheses of SpecialValuesAndNaNs can be met. -/
theorem witness_SpecialValuesAndNaNs :
    (∃ (subn : Bool) (w a b c a1 b1 x i : Nat) (g : Gens), vFmt w ∈ [0xA, 4, 9, 0xB, 2, 3] ∧ i < fmtCount (vFmt w) ∧
      let f := vFmt w
      let p := elem a (fmtWidth f) i
      let q := elem b (fmtWidth f) i
      fmtIsInt f = false ∧ (vOp w = 5 ∨ vOp w = 6) ∧ (fdecode f p = .nan ∨ fdecode f q = .nan)) ∧
    (∃ (subn : Bool) (w a b c a1 b1 x i : Nat) (g : Gens), vFmt w ∈ [0xA, 4, 9, 0xB, 2, 3] ∧ i < fmtCount (vFmt w) ∧
      let f := vFmt w
      let p := elem a (fmtWidth f) i
      let q := elem b (fmtWidth f) i
      fmtIsInt f = false ∧ (vOp w = 5 ∨ vOp w = 6) ∧ ∃ n n' e e', fdecode f p = .fin n 0 e ∧ fdecode f q = .fin n' 0
        e') ∧
    (∃ (subn : Bool) (w a b c a1 b1 x i : Nat) (g : Gens), vFmt w ∈ [0xA, 4, 9, 0xB, 2, 3] ∧ i < fmtCount (vFmt w) ∧
      let f := vFmt w
      let p := elem a (fmtWidth f) i
      let q := elem b (fmtWidth f) i
      fmtIsInt f = false ∧ vOp w = 7 ∧ (fdecode f p = .nan ∨ fdecode f q = .nan)) ∧
    (∃ (subn : Bool) (w a b c a1 b1 x i : Nat) (g : Gens), vFmt w ∈ [0xA, 4, 9, 0xB, 2, 3] ∧ i < fmtCount (vFmt w) ∧
      let f := vFmt w
      let p := elem a (fmtWidth f) i
      let q := elem b (fmtWidth f) i
      fmtIsInt f = false ∧ vOp w = 7 ∧ ∃ n n' e e', fdecode f p = .fin n 0 e ∧ fdecode f q = .fin n' 0 e') ∧
    (∃ (subn : Bool) (w a b c a1 b1 x i : Nat) (g : Gens), vFmt w ∈ [0xA, 4, 9, 0xB, 2, 3] ∧ i < fmtCount (vFmt w) ∧
      let f := vFmt w
      let p := elem a (fmtWidth f) i
      let q := elem b (fmtWidth f) i
      fmtIsInt f = true ∧ ∃ exact : Int, ((vOp w = 1 ∧ exact = intOf f p + intOf f q) ∨ (vOp w = 2 ∧ exact = intOf f p
        - intOf f q) ∨ (vOp w = 3 ∧ exact = intOf f p * intOf f q)) ∧ vOvf w = false) ∧
    (∃ (subn : Bool) (w a b c a1 b1 x i : Nat) (g : Gens), vFmt w ∈ [0xA, 4, 9, 0xB, 2, 3] ∧ i < fmtCount (vFmt w) ∧
      let f := vFmt w
      let p := elem a (fmtWidth f) i
      let q := elem b (fmtWidth f) i
      fmtIsInt f = true ∧ ∃ exact : Int, ((vOp w = 1 ∧ exact = intOf f p + intOf f q) ∨ (vOp w = 2 ∧ exact = intOf f p
        - intOf f q) ∨ (vOp w = 3 ∧ exact = intOf f p * intOf f q)) ∧ vOvf w = true) ∧
    (∃ f : Nat, f ∈ [0, 1, 4, 9, 0xA]) ∧
    (∃ (f rm rnd : Nat) (subn : Bool) (x y : Nat), f ∈ [4, 9, 0xA] ∧ (fdecode f x = .nan ∨ fdecode f y = .nan) ∧ ∃ op
      : Nat, op ∈ [1, 2, 3]) :=
  ⟨⟨false, vWord 5 0xA, 0x7FC00000 * 2 ^ 992, 0, 0, 0, 0, 0, 31, .replicate 32 0, by decide +kernel⟩,
    ⟨false, vWord 6 0xA, 0, 0, 0, 0, 0, 0, 31, .replicate 32 0, by decide +kernel, by decide +kernel, by decide +kernel,
      by decide +kernel, false, false, -149, -149, by decide +kernel⟩,
    ⟨false, vWord 7 0xA, 0x7FC00000 * 2 ^ 992, 0, 0, 0, 0, 0, 31, .replicate 32 0, by decide +kernel⟩,
    ⟨false, vWord 7 0xA, 0, 0, 0, 0, 0, 0, 31, .replicate 32 0, by decide +kernel, by decide +kernel, by decide +kernel,
      by decide +kernel, false, false, -149, -149, by decide +kernel⟩,
    ⟨false, vWord 1 2, 127, 127, 0, 0, 0, 0, 0, .replicate 32 0, by decide +kernel, by decide +kernel,
      by decide +kernel, 254, by decide +kernel⟩,
    ⟨false, vWord 1 2 + 4, 127, 127, 0, 0, 0, 0, 0, .replicate 32 0, by decide +kernel, by decide +kernel,
      by decide +kernel, 254, by decide +kernel⟩,
    ⟨0xA, by decide +kernel⟩,
    ⟨4, 0, 0, false, 0x7FC0, 0, by decide +kernel, by decide +kernel, 3, by decide +kernel⟩⟩

/-- The hypotheses of HuddlesReleaseAndPass can be met. -/
theorem witness_HuddlesReleaseAndPass :
    (∃ (h : Huddle) (cc : Nat), h.target ≠ 0 ∧ h.state = 1 ∧ h.target.toNat ≤ h.count.toNat ∧ h.releasedAt ≠ some cc ∧
      h.mode = 0) ∧
    (∃ (h : Huddle) (cc : Nat), h.target ≠ 0 ∧ h.state = 1 ∧ h.target.toNat ≤ h.count.toNat ∧ h.releasedAt ≠ some cc ∧
      h.mode = 1) ∧
    (∃ (h : Huddle) (cc : Nat), h.target ≠ 0 ∧ h.state = 1 ∧ h.target.toNat ≤ h.count.toNat ∧ h.releasedAt ≠ some cc ∧
      h.mode = 2) ∧
    (∃ (h : Huddle) (cc : Nat), (h.state ≠ 1 ∨ h.count.toNat < h.target.toNat ∨ h.target = 0 ∨ (h.mode = 0 ∧
      h.releasedAt = some cc))) ∧
    (∃ (h : Huddle) (seen : BitVec 8) (cc : Nat), h.passAt ≤ cc ∧ h.mode.toNat < 3 ∧ h.state.toNat < 3) ∧
    (∃ (k : Core) (sl h cc : Nat), sl < 4 ∧ h < 32 ∧
      let u := k.huddle h
      u.target = 0) ∧
    (∃ (k : Core) (sl h cc : Nat), sl < 4 ∧ h < 32 ∧
      let u := k.huddle h
      u.target ≠ 0 ∧ u.mode = 0) ∧
    (∃ (k : Core) (sl h cc : Nat), sl < 4 ∧ h < 32 ∧
      let u := k.huddle h
      u.target ≠ 0 ∧ u.mode = 1) ∧
    (∃ (k : Core) (sl h cc : Nat), sl < 4 ∧ h < 32 ∧
      let u := k.huddle h
      u.target ≠ 0 ∧ u.mode = 2) ∧
    (∃ (k : Core) (h amount cc : Nat) (own : Bool), h < 32 ∧ (k.huddle h).target = 0 ∧ (k.huddle h).state ≠ 0 ∧ (∀ y,
      (k.huddle h).cyc = some y → y.at_ ≠ cc) ∧ ∃ seen : BitVec 8, (k.huddle h).passAt ≤ cc) :=
  ⟨⟨(hud31 0).huddle 31, 0, by decide +kernel⟩,
    ⟨(hud31 1).huddle 31, 0, by decide +kernel⟩,
    ⟨(hud31 2).huddle 31, 0, by decide +kernel⟩,
    ⟨{}, 0, by decide +kernel⟩,
    ⟨{ mode := 2, state := 2 }, 0, 0, by decide +kernel⟩,
    ⟨core0, 3, 31, 0, by decide +kernel⟩,
    ⟨hud31 0, 3, 31, 0, by decide +kernel⟩,
    ⟨hud31 1, 3, 31, 0, by decide +kernel⟩,
    ⟨hud31 2, 3, 31, 0, by decide +kernel⟩,
    ⟨core0.onHuddle 31 fun h => { h with state := 1 }, 31, 0, 0, true, by decide +kernel, by decide +kernel,
      by decide +kernel, of_none (by decide +kernel), 0, by decide +kernel⟩⟩

/-- The hypotheses of ConditionMessages can be met. -/
theorem witness_ConditionMessages :
    (∃ x : QMsg, x.chunks = []) :=
  ⟨{}, by decide +kernel⟩

/-- The hypotheses of CoordinatesNameCoresAndFields can be met. -/
theorem witness_CoordinatesNameCoresAndFields :
    (∃ x y : Nat, x < 384 ∧ y < 336) ∧
    (∃ f lx ly : Nat, f < 56 ∧ lx < 48 ∧ ly < 48) ∧
    (∃ space c off : Nat, c < nCores ∧ off < 2 ^ 27) ∧
    (∃ (f : Nat) (c : Nat), f < 56) ∧
    (∃ f : Nat, f < 56) :=
  ⟨⟨383, 335, by decide +kernel⟩,
    ⟨55, 47, 47, by decide +kernel⟩,
    ⟨15, 129023, 134217727, by decide +kernel⟩,
    ⟨55, 0, by decide +kernel⟩,
    ⟨55, by decide +kernel⟩⟩


/-! ## Commands that are not well formed are refused, one for each check -/

theorem too_long : dataOk (some (List.replicate (2 ^ 32) 0)) (2 ^ 32 - 1) = false := by
  simp only [dataOk, List.length_replicate]
  exact decide_eq_false (by omega)

theorem test_wf_tail_entry : Instr.wf (.dbCmdTailWrite 0 0 0 (some [List.replicate 63 0])) = false := by decide +kernel
theorem test_wf_retrain_width : Instr.wf (.linkRetrainDone 0 .east 0) = false := by decide +kernel
theorem test_wf_configure : Instr.wf (.ctxConfigure 0 0 (some (List.replicate (2 ^ 32) 0))) = false := by
  unfold Instr.wf
  exact too_long
theorem test_wf_load : Instr.wf (.loadHostToMemory 0 0 (some (List.replicate (2 ^ 32) 0))) = false := by
  unfold Instr.wf
  exact too_long
theorem test_wf_region : Instr.wf (.loadFlowRegion 0 0 (some (List.replicate (2 ^ 32) 0))) = false := by
  unfold Instr.wf
  exact too_long
theorem test_wf_message : Instr.wf (.loadMessage 0 0 (some (List.replicate 257 0))) = false := by decide +kernel
theorem test_wf_log : Instr.wf (.logWrite 5 0 0 0 0 (List.replicate 257 0)) = false := by decide +kernel
theorem test_wf_frame : Instr.wf (.fabricMessageReceive 0 (List.replicate 127 0)) = false := by decide +kernel
theorem test_wf_transit : Instr.wf (.frameTransit 0 (List.replicate 129 0)) = false := by decide +kernel
theorem test_wf_credit : Instr.wf (.credit 0 (List.replicate 19 0)) = false := by decide +kernel
theorem test_wf_let : Instr.wf (.fabricLet 0 [0, 0, 0]) = false := by decide +kernel
theorem test_wf_error_cause : Instr.wf (.frameError 0 0 0) = false := by decide +kernel
theorem test_wf_foul_code : Instr.wf (.foul 0 0 (List.replicate 128 0)) = false := by decide +kernel
theorem test_wf_foul_frame : Instr.wf (.foul 0 1 (List.replicate 127 0)) = false := by decide +kernel
theorem test_wf_foul_receive : Instr.wf (.foulFrameReceive 0 (List.replicate 23 0)) = false := by decide +kernel
theorem test_wf_ident : Instr.wf (.ident 0 (List.replicate 27 0)) = false := by decide +kernel
theorem test_wf_sample : Instr.wf (.traceSample 0 1 false (List.replicate 21 0)) = false := by decide +kernel
theorem test_wf_datagram : Instr.wf (.mgmtDatagram 0 (List.replicate 63 0) [] true) = false := by decide +kernel
theorem test_wf_flow : Instr.wf (.thermalLimit 0 0 (2 ^ 16) 0 0) = false := by decide +kernel
theorem test_wf_accepted : Instr.wf (.fabricMessageReceive 0 (List.replicate 128 0)) = true := by decide +kernel

/-! ## The spec's worked examples -/

/-- R22's example: the message from core (10, 20) to core (200, 150) takes 341 cycles, the longest path 757. -/
theorem test_path_length : (coreAt 10 20, coreAt 200 150, fieldOf 57800, wayCost 7690 57800, wayCost 0 129023) =
    (7690, 57800, 28, 341, 757) := by decide +kernel

def fp1 : Mach := { wafer := { fp := [(57800, { alt := 57800 })] } }

def fp2 : Mach := { wafer := { fp := [(57800, { state := 3, alt := 57803, reason := 3 }), (57803, { alt := 57800 })] } }

/-- The example after R47: the entry of an enabled core, and its field entry. -/
theorem test_core_entry : fp1.fpEntry 57800 = 0x00E1C810 ∧ (fp1.fieldEntry 28).take 4 = [28, 4, 8, 2] := by decide +kernel

/-- The example of R416: the entries of a core and its stand-in, and the substitution entry. -/
theorem test_substituted_entries : fp2.fpEntry 57800 = 0x06E1CB13 ∧ fp2.fpEntry 57803 = 0x00E1C810 ∧
    substEntry { orig := 57800, stand := 57803, valid := true } = toBytes 4 0x8000E1C8 ++ toBytes 4 0x0000E1CB := by
  decide +kernel

/-- The header of the flit of the example after R206. -/
def exFlit : Flit := { src := 19297, cid := 90, tag := 0x87, target := 0x12D320400000, pay := 77 }

theorem test_header : exFlit.header / 2 ^ 16 = 0x00012D3204000000E1C000B44B61 ∧ exFlit.det = false := by decide +kernel

/-- A router takes the flit in as it was sent, and knows it by its CRC when one bit of it changes (R177). -/
theorem test_wire : Flit.ofWire exFlit exFlit.wire = exFlit ∧ wireGood exFlit.wire = true ∧ wireGood (exFlit.wire ^^^ 2 ^ 300) = false := by
  decide +kernel

/-- One issue cycle of the weighted round-robin: the slot taken, and the round after it. -/
def issueOf (q : Wrr) (ready : List Nat) : Nat × Wrr :=
  match q.choose ready with
  | some x => (x.1, q.taken x.1 x.2)
  | none => (9, q)

def issuesOf : Wrr → List (List Nat) → List Nat
  | _, [] => []
  | q, r :: rs => (issueOf q r).1 :: issuesOf (issueOf q r).2 rs

/-- The example of R56: slots with WEIGHT 10, 4 and 0 over a round. -/
theorem test_round : issuesOf { credit := #v[10, 4, 0, 0] }
    (List.replicate 3 [0, 1, 2] ++ List.replicate 4 [1, 2] ++ List.replicate 9 [0, 1, 2]) =
      [0, 1, 0, 1, 1, 1, 1] ++ List.replicate 8 0 ++ [2] := by decide +kernel

def exBundle : Nat := 0x400064070001104E8112800000000000

/-- The example of R92: FENCE 2, HUD.SIG with s7 and 1, and VFMA v4, q2, v1, v4 in FP32. -/
theorem test_bundle : (bFence exBundle, bStop exBundle, sOp (bS exBundle), sRs1 (bS exBundle), sImm (bS exBundle)) =
      (2, false, 0x19, 7, 1) ∧
    (vOp (bV exBundle), vDst (bV exBundle), vSrc1 (bV exBundle), vSrc2 (bV exBundle), vSrc3 (bV exBundle), vFmt (bV exBundle)) =
      (4, 4, 0x3A, 1, 4, 0xA) ∧
    sIllegal (bS exBundle) = false ∧ vIllegal (bV exBundle) = false ∧ bT exBundle = 0 := by decide +kernel

/-- A TILE.MAC of sixteen INT8 products x × 127 into column 0. -/
def intMac (ovf : Bool) (x : Nat) (r : AccRow) : AccRow :=
  macRow 2 2 16 false false false ovf false 0 0 (((List.range 16).map fun k => x * 2 ^ (8 * k)).sum)
    (((List.range 16).map fun k => 127 * 2 ^ (256 * k)).sum) [] [] 0 r

def row0 : AccRow := { isInt := true, main := 0x7FFEB940 }

/-- The example of R106: saturation loses what wrapping restores. -/
theorem test_saturate : (intMac false 127 row0).main = 0x7FFFFFFF ∧ (intMac false 129 (intMac false 127 row0)).main = 0x7FFC0FEF := by
  decide +kernel
theorem test_wrap : (intMac true 127 row0).main = 0x8002A950 ∧ (intMac true 129 (intMac true 127 row0)).main = 0x7FFEB940 := by
  decide +kernel

/-- Column 0 of the FP16 TILE.MAC of the example of R110. -/
def halfMac (exact : Bool) : Nat :=
  (accumulate true false ([(0x3E01, 0x3D03), (0xB800, 0x4000)].map fun p =>
    scaledProduct 9 exact (fdecode 9 p.1) (scaleVal 0 0) (fdecode 9 p.2) (scaleVal 0 0))).1

/-- The example of R110: 923,392 × 2^−20 in split-3, 923,395 × 2^−20 in split-4; both store 0x3B0C as FP16. -/
theorem test_split : fdecode 0xA (halfMac false) = .fin false (923392 * 16) (-24) ∧
    fdecode 0xA (halfMac true) = .fin false (923395 * 16) (-24) := by decide +kernel
theorem test_split_store : fround 9 0 0 false false true (fdecode 0xA (halfMac false)) = 0x3B0C ∧
    fround 9 0 0 false false true (fdecode 0xA (halfMac true)) = 0x3B0C := by decide +kernel

/-- The example of R122: a generator's advance, and a conversion to BF16 under SR8 in lane 5. -/
theorem test_advance : advance 0xF000000000000001 = 0xF1E0000040822041 := by decide +kernel
theorem test_stochastic :
    let r := vcvt 0xA 4 5 false false true (0x3F80F800 * 2 ^ 160) (vset (.replicate 32 0) 5 0xF000000000000001)
    elem r.1 16 5 = 0x3F81 ∧ vget r.2 5 = 0xF1E0000040822041 := by decide +kernel

/-- The block-scaled example after R122: the codes of FP4 and FP8-E4M3, scales 0x7E and 0x81, and 9.875 in column 0. -/
theorem test_block_scaled : (accumulate true false ([(0x7, 0x39), (0xB, 0x40), (0x1, 0xA8), (0x5, 0x2E)].map fun p =>
    scaledProduct 7 false (fdecode 7 p.1) (scaleVal 1 0x7E) (fdecode 0 p.2) (scaleVal 1 0x81))).1 = 0x411E0000 := by
  decide +kernel

/-- The remote window of the example of R145. -/
def exWindow : SlotCtl :=
  { win := vset (vset (.replicate 8 0) 2 (BitVec.ofNat 64 (96 + 48 * 2 ^ 9 + 0x200000 * 2 ^ 18 + 2 ^ 61))) 6
      (BitVec.ofNat 64 (143 + 95 * 2 ^ 9 + 0x5FFFFF * 2 ^ 18)) }

/-- It reaches wafer address 0x12D3_2040_0000, and only reads. -/
theorem test_remote_window :
    ((remoteAt exWindow 0x8000101220200000 8 false).map fun p => waOf p.space p.core p.off) = some 0x12D320400000 ∧
    remoteAt exWindow 0x8000101220200000 8 true = none := by decide +kernel

/-- The example of R172: the cell of row 412, column 1,033 of sub-array 5 lies in byte 0x67_02F5. -/
theorem test_cell : cellOff 0 5 412 (1033 / 1152) (1033 % 1152 / 288) + 1033 % 288 / 8 = 0x6702F5 := by decide +kernel

def exErrs : Core :=
  { care := { errs := { sub := 5, row := 100, col := 2000, readOne := true } ::
      ([412, 415, 416, 421, 430].map fun r => { sub := 5, row := r, col := 1033 }) } }

/-- Its errors are a bit-line fault at column 1,033 and a cell fault at column 2,000. -/
theorem test_bit_line : (exErrs.endPass 0 0).care.declared = [(0, 5, 1033)] ∧
    (exErrs.endPass 0 0).care.cells = [(0, 5, 100, 2000)] := by decide +kernel

/-- T_99 of the example of R273, in microseconds. -/
def t99 (units : Nat) : Nat :=
  fracUs (modelTime [{ core := 57800, weight := 8 }] [{ resource := 4, inst := 57800, units := units }]
    { dclass := 2, dl := 1500, pct := 2, c := 600000, u := 25165824, lp := 60000 })

theorem test_latency_model : (t99 30, t99 40, t99 35) = (1665, 1263, 1435) := by decide +kernel

/-- A module whose other context reserves 25 units of the under-bank of core 57,800. -/
def exTenant : Mach :=
  { ctxs := [(9, { st := .admitted, slots := [{ core := 57800, weight := 2 }],
                   resv := [{ resource := 4, inst := 57800, units := 25 }] })] }

/-- The admission example of R273: 40 units more are refused, 35 are admitted. -/
theorem test_admission : exTenant.test2 5 [{ core := 57800, weight := 8 }] [{ resource := 4, inst := 57800, units := 40 }] [] =
      some { status := 0x0301, resource := 4, inst := 57800, demand := 65, capacity := 60 } ∧
    exTenant.test2 5 [{ core := 57800, weight := 8 }] [{ resource := 4, inst := 57800, units := 35 }] [] = none := by decide +kernel

/-- The refusal of the example of R345, and its completion entry. -/
def exRefusal : Refuse := { status := 0x0301, resource := 4, inst := 57800, demand := 65, capacity := 60 }

theorem test_completion :
    cplBytes { tag := 0x42, status := 0x0301, res1 := BitVec.ofNat 128 exRefusal.detail } 0x13 true =
    [0x42, 0, 1, 3, 0x13, 0, 1, 0] ++ List.replicate 8 0 ++ [4, 0, 0xC8, 0xE1, 0, 0, 0x41, 0, 0, 0, 0x3C, 0, 0, 0, 0, 0] := by
  decide +kernel

/-- A device of a fabric with sizes 16, 16, 32 and 32 at a coordinate, every engine ACTIVE. -/
def devAt (co : Nat) : Mach :=
  { engM {} 0 with fabric := { (engM {} 0).fabric with coord := BitVec.ofNat 25 co, sizes := 0x7DF3CF } }

/-- The legs of the example of R305: W plus, Y minus and X plus, on VC 1 from the link of each dateline. -/
theorem test_legs : [0x78508F, 0x7C508F, 0x04508F, 0x04500F, 0x04538F].map (fun co => (devAt co).route 0x45383) =
    [.out 7 0, .out 7 1, .out 2 0, .out 2 1, .out 1 1] := by decide +kernel

def exParked (edge : Bool) : Slot := { parked with ali := { depth := 1, wakeSel := if edge then 2 else 0 } }

/-- The core of the example of R363 in cycle 1,004, with TIMER pending in its PARKED slot 1. -/
def exPark (edge : Bool) : Mach :=
  { mk { core0 with pwr := { up with park := some 1000 }, slots := vset (.replicate 4 {}) 1 (exParked edge) } with
      clk := { cc := 1004, tclk := 8333, locked := true } }

/-- A level cancels the drop. -/
theorem test_park_level : (((commitWindowEndAt 0 (exPark false)).core 0).pwr.logic,
    ((commitWindowEndAt 0 (exPark false)).core 0).pwr.cntBounce) = (.on, 1) := by decide +kernel

/-- An edge is lost, and CORE_LOGIC enters RET. -/
theorem test_park_edge : (((commitWindowEndAt 0 (exPark true)).core 0).pwr.logic,
    ((commitWindowEndAt 0 (exPark true)).core 0).pwr.cntEdgelost) = (.ret, 1) := by decide +kernel

def exBoot : Boot :=
  { minimal := true, fault := true, life := .field, fails := 3, failStage := 4, failReason := 0x0401 }

/-- ST_STATE in the example of R392. -/
theorem test_st_state : ({ boot := exBoot } : Mach).stState = 0x000004010403004E := by decide +kernel

/-- A failed start of the example of R402, its stage 3 left out: the controller of field 37 fails its BIST. -/
def exStart (m : Mach) : Mach := startFailureAt (startBistAt [37] [] true [] [] [] [] ((bootAt .good true m).toStage 4))

def exTrial : Mach :=
  { boot := { stage := 2, life := .field, imgB := { present := true, step := 0x3141, signed := true }, activeB := true } }

/-- After the first failure image A is ACTIVE again. -/
theorem test_start_failure : (exStart exTrial).boot.activeB = false ∧ (exStart exTrial).boot.fails = 1 := by decide +kernel

/-- A slot with fraction 1/64 in step 5 that has run n eligible matrix operations. -/
def exSampled (n : Nat) : Bool :=
  (senCount { ctl := { stepCount := 5 }, ali := { frac := 2, nMat := n } } 1000 0 0).2

/-- The example of R423: PHASE is 33. -/
theorem test_sampled : [32, 33, 34, 96, 97].map exSampled = [false, true, false, false, true] := by decide +kernel

/-- The example of R451: 34 °C at the inlet limits 36 kW to 30 kW, 31 °C leaves the limit, 27 °C lifts it. -/
theorem test_inlet_limit :
    let p : Power := { cap := 36000 }
    let p1 := p.limits 340 0 1000 50 50
    let p2 := p1.limits 310 0 1000 50 50
    (p1.effective, p2.effective, (p2.limits 270 0 1000 50 50).effective) = (30000, 30000, 36000) := by decide +kernel

/-- The IDCODE has the fields of R454: version 1, part 0xB31A, manufacturer 0x27B. -/
theorem test_idcode : (tapInstructionAt .idcode {}).tapReads.map (fun w => (w >>> 28, (w >>> 12) % 65536, (w >>> 1) % 2048)) =
    some (1, 0xB31A, 0x27B) := by decide

/-! ## A step -/

/-- A step on an empty queue is one cycle (R15). -/
theorem test_tick : (tick mach).clk.cc = 100001 := by decide +kernel

/-- A host command with a bad argument completes with BAD_ARG (R333). -/
theorem test_bad_arg : (ringCreateAt 0 1 (hostM (cmd 0x0001 (List.replicate 24 0)))).host.cmds.map
    (fun x => x.result.map fun e => e.status) = [some 0x0102] := by decide +kernel

end Sys2Proof.Tests
end

section
/-! PROOF. Sparse memory and its canonical form (R14, log 5). -/

namespace Sys2Proof.Machine

open Sys2Proof

theorem memRead_length (m : Mem) (a n : Nat) : (memRead m a n).length = n := by simp [memRead]

theorem memRead_getElem (m : Mem) (a n i : Nat) (h : i < (memRead m a n).length) :
    (memRead m a n)[i] = memByte m (a + i) := by simp [memRead]

/-- A read of the bytes written gives them. -/
theorem memRead_memWrite_self (m : Mem) (a : Nat) (bs : Bytes) : memRead (memWrite m a bs) a bs.length = bs := by
  refine List.ext_getElem (memRead_length _ _ _) fun i _ hi => ?_
  rw [memRead_getElem, memByte_memWrite_in m a bs i hi]

/-- Every byte outside the written ones is as before. -/
theorem memByte_memWrite_outside (m : Mem) (a : Nat) (bs : Bytes) {x : Nat} (h : x < a ∨ a + bs.length ≤ x) :
    memByte (memWrite m a bs) x = memByte m x :=
  h.elim (memByte_memWrite_below m a bs) (memByte_memWrite_above m a bs)

/-- A core is alike its canonical form. -/
theorem Core.canon_same (k : Core) : Core.Same k.canon k := ⟨rfl, fun a => ⟨k.canon_sramByte a, k.canon_ubByte a⟩⟩

/-- Every core of the canonical module is alike the core it was made of. -/
theorem Mach.core_canon_same (m : Mach) (c : Nat) : Core.Same (m.canon.core c) (m.core c) := by
  rw [Mach.core_canon]
  exact Core.canon_same _

/-- The canonical form changes memories alone: those of the cores and that of the host. -/
theorem Mach.canon_with_memories (m : Mach) : { m.canon with cores := m.cores, host := m.host } = m ∧
    { m.canon.host with mem := m.host.mem } = m.host := ⟨rfl, rfl⟩

/-- Settles O4: the laws of the canonical form, and of a byte written or left alone. -/
theorem memoriesReadWhatWasWritten : Obligations.MemoriesReadWhatWasWritten := by
  unfold Obligations.MemoriesReadWhatWasWritten
  exact ⟨⟨Mach.core_canon_same, Mach.canon_hostByte, Mach.canon_with_memories, Mach.canon_of_memWf⟩,
    fun m a bs => ⟨memRead_memWrite_self m a bs, fun _ => memByte_memWrite_outside m a bs, memWrite_wf m a bs⟩⟩

end Sys2Proof.Machine
end

section
/-! PROOF. The cores of a module as shipped (R7): what a draw of cores gives, how many cores the bench keeps, and the counts
that follow from them whichever cores were drawn. -/

namespace Sys2Proof.Machine

open Sys2Proof

/-! ## Draws of different cores -/

theorem le_nthFree (l : List Nat) (k : Nat) : k ≤ nthFree l k := by
  induction l generalizing k with
  | nil => exact Nat.le_refl k
  | cons x r ih =>
    rw [nthFree]
    split
    · exact Nat.le_of_succ_le (ih (k + 1))
    · exact Nat.le_refl k

theorem nthFree_le (l : List Nat) (k : Nat) : nthFree l k ≤ k + l.length := by
  induction l generalizing k with
  | nil => exact Nat.le_refl k
  | cons x r ih =>
    have h := ih (k + 1)
    rw [nthFree, List.length_cons]
    split <;> omega

/-- The number found free in a rising list is not in it. -/
theorem nthFree_not_mem (l : List Nat) (k : Nat) (hl : l.Pairwise (· < ·)) : nthFree l k ∉ l := by
  induction l generalizing k with
  | nil => exact List.not_mem_nil
  | cons x r ih =>
    obtain ⟨hx, hr⟩ := List.pairwise_cons.mp hl
    rw [nthFree, List.mem_cons, not_or]
    split
    · have := le_nthFree r (k + 1)
      exact ⟨by omega, ih (k + 1) hr⟩
    · exact ⟨by omega, fun hk => by have := hx k hk; omega⟩

theorem insertRising_perm (x : Nat) (l : List Nat) : (insertRising x l).Perm (x :: l) := by
  induction l with
  | nil => exact .refl _
  | cons y r ih =>
    rw [insertRising]
    split
    · exact .refl _
    · exact (ih.cons y).trans (.swap x y r)

/-- A number put in its place leaves a rising list rising. -/
theorem insertRising_pairwise (x : Nat) (l : List Nat) (hl : l.Pairwise (· < ·)) (hx : x ∉ l) :
    (insertRising x l).Pairwise (· < ·) := by
  induction l with
  | nil => exact List.pairwise_singleton _ _
  | cons y r ih =>
    obtain ⟨hy, hr⟩ := List.pairwise_cons.mp hl
    obtain ⟨hxy, hxr⟩ : ¬x = y ∧ x ∉ r := by rwa [List.mem_cons, not_or] at hx
    rw [insertRising]
    split
    · rename_i hlt
      exact List.pairwise_cons.mpr ⟨fun z hz => (List.mem_cons.mp hz).elim (· ▸ hlt) fun h => Nat.lt_trans hlt (hy z h), hl⟩
    · refine List.pairwise_cons.mpr ⟨fun z hz => ?_, ih hr hxr⟩
      obtain rfl | h := List.mem_cons.mp ((insertRising_perm x r).mem_iff.mp hz)
      · omega
      · exact hy z h

theorem drawCores_length (f : Nat → Nat) (n : Nat) : (drawCores f n).length = n := by
  induction n with
  | zero => rfl
  | succ n ih => rw [drawCores, (insertRising_perm _ _).length_eq, List.length_cons, ih]

/-- The cores of a draw are different and rise. -/
theorem drawCores_pairwise (f : Nat → Nat) (n : Nat) : (drawCores f n).Pairwise (· < ·) := by
  induction n with
  | zero => exact .nil
  | succ n ih => exact insertRising_pairwise _ _ ih (nthFree_not_mem _ _ ih)

theorem drawCores_nodup (f : Nat → Nat) (n : Nat) : (drawCores f n).Nodup :=
  (drawCores_pairwise f n).imp Nat.ne_of_lt

/-- A draw of at most as many cores as there are draws cores of the module. -/
theorem drawCores_lt (f : Nat → Nat) (n : Nat) (hn : n ≤ nCores) : ∀ c ∈ drawCores f n, c < nCores := by
  induction n with
  | zero => exact fun c hc => absurd hc List.not_mem_nil
  | succ n ih =>
    intro c hc
    rw [drawCores] at hc
    obtain rfl | h := List.mem_cons.mp ((insertRising_perm _ _).mem_iff.mp hc)
    · have hle := nthFree_le (drawCores f n) (f n % (nCores - n))
      have hlt := Nat.mod_lt (f n) (Nat.sub_pos_of_lt hn)
      rw [drawCores_length] at hle
      omega
    · exact ih (by omega) c h

theorem factorySpares_eq : factorySpares = drawCores Config.factoryBench 6144 := by unfold factorySpares; rfl
theorem factoryFenced_eq : factoryFenced = drawCores Config.factoryDefect (Config.defectCount % 4609) := by
  unfold factoryFenced; rfl
theorem factoryBench_eq : factoryBench = (factoryFenced.filter fun c => !factorySpares.contains c).foldl takeBench
    (factorySpares.filter fun c => !factoryFenced.contains c) := by unfold factoryBench; rfl

theorem factorySpares_length : factorySpares.length = 6144 := by rw [factorySpares_eq, drawCores_length]
theorem factorySpares_nodup : factorySpares.Nodup := factorySpares_eq ▸ drawCores_nodup _ _
theorem factoryFenced_nodup : factoryFenced.Nodup := factoryFenced_eq ▸ drawCores_nodup _ _

theorem factoryFenced_length_le : factoryFenced.length ≤ 4608 := by
  rw [factoryFenced_eq, drawCores_length]
  exact Nat.le_of_lt_succ (Nat.mod_lt _ (by omega))

theorem lt_of_mem_factorySpares {c : Nat} (h : c ∈ factorySpares) : c < nCores :=
  drawCores_lt _ _ (by unfold nCores; omega) c (factorySpares_eq ▸ h)

theorem lt_of_mem_factoryFenced {c : Nat} (h : c ∈ factoryFenced) : c < nCores := by
  have hn : Config.defectCount % 4609 < 4609 := Nat.mod_lt _ (by omega)
  exact drawCores_lt _ _ (by unfold nCores; omega) c (factoryFenced_eq ▸ h)

/-! ## The bench after the defective cores have been replaced -/

/-- The best of a list of candidates is one of them where the better of two is one of the two. -/
theorem pickBest_mem (better : Nat → Nat → Nat) (hb : ∀ a b, better a b = a ∨ better a b = b) (l : List Nat) (b : Nat)
    (h : pickBest better l = some b) : b ∈ l := by
  cases l with
  | nil => cases h
  | cons a r =>
    obtain rfl := Option.some.inj h
    induction r generalizing a with
    | nil => exact List.mem_singleton.mpr rfl
    | cons x r ih =>
      rw [List.foldl_cons]
      obtain hx | hx := hb a x <;> rw [hx]
      · exact List.cons_subset_cons a (List.subset_cons_self x r) (ih a rfl)
      · exact List.mem_cons_of_mem a (ih x rfl)

theorem closer_eq_or (c a b : Nat) : closer c a b = a ∨ closer c a b = b := by
  unfold closer
  extract_lets far
  split
  · exact .inr rfl
  · exact .inl rfl

theorem takeBench_sublist (bench : List Nat) (c : Nat) : (takeBench bench c).Sublist bench := by
  unfold takeBench
  split
  · exact List.erase_sublist
  · exact .refl _

/-- Each replacement takes one core from the bench. -/
theorem takeBench_length (bench : List Nat) (c : Nat) : (takeBench bench c).length = bench.length - 1 := by
  unfold takeBench
  split
  case h_1 b h => exact List.length_erase_of_mem (pickBest_mem _ (closer_eq_or c) bench b h)
  case h_2 h =>
    cases bench with
    | nil => rfl
    | cons a r => cases h

theorem foldl_takeBench_sublist (cs bench : List Nat) : (cs.foldl takeBench bench).Sublist bench := by
  induction cs generalizing bench with
  | nil => exact .refl _
  | cons c r ih => exact (ih _).trans (takeBench_sublist bench c)

theorem foldl_takeBench_length (cs bench : List Nat) : (cs.foldl takeBench bench).length = bench.length - cs.length := by
  induction cs generalizing bench with
  | nil => rfl
  | cons c r ih => rw [List.foldl_cons, ih, takeBench_length, List.length_cons]; omega

theorem length_filter_add_not (p : Nat → Bool) (l : List Nat) :
    (l.filter p).length + (l.filter fun c => !p c).length = l.length := by
  induction l with
  | nil => rfl
  | cons c r ih =>
    rw [List.filter_cons, List.filter_cons, List.length_cons]
    cases p c <;> simp only [Bool.not_true, Bool.not_false, Bool.false_eq_true, if_true, if_false, List.length_cons] <;> omega

/-- Two lists without repetition: what the one has beyond the other differs in number as the lists do. -/
theorem length_filter_not_contains_add (l l' : List Nat) (h : l.Nodup) (h' : l'.Nodup) :
    (l.filter fun c => !l'.contains c).length + l'.length = (l'.filter fun c => !l.contains c).length + l.length := by
  have hcommon : (l.filter fun c => l'.contains c).Perm (l'.filter fun c => l.contains c) :=
    (List.perm_ext_iff_of_nodup (h.filter _) (h'.filter _)).mpr fun c => by simp [and_comm]
  have hl := length_filter_add_not (fun c => l'.contains c) l
  have hl' := length_filter_add_not (fun c => l.contains c) l'
  have := hcommon.length_eq
  omega

/-- The bench at shipment holds the spares less one core for each defective one. -/
theorem factoryBench_length : factoryBench.length + factoryFenced.length = 6144 := by
  have hdiff := length_filter_not_contains_add _ _ factorySpares_nodup factoryFenced_nodup
  have hfenced := factoryFenced_length_le
  have hlen := foldl_takeBench_length (factoryFenced.filter fun c => !factorySpares.contains c)
    (factorySpares.filter fun c => !factoryFenced.contains c)
  rw [← factoryBench_eq] at hlen
  rw [factorySpares_length] at hdiff
  omega

theorem factoryBench_sublist : factoryBench.Sublist (factorySpares.filter fun c => !factoryFenced.contains c) :=
  factoryBench_eq ▸ foldl_takeBench_sublist _ _

theorem factoryBench_nodup : factoryBench.Nodup := factoryBench_sublist.nodup (factorySpares_nodup.filter _)

/-- A bench core is a spare that is not defective. -/
theorem mem_spares_of_mem_factoryBench {c : Nat} (h : c ∈ factoryBench) : c ∈ factorySpares ∧ c ∉ factoryFenced := by
  simpa using factoryBench_sublist.subset h

/-! ## The counts -/

theorem factoryCore_state (c : Nat) :
    (factoryCore c).state = if c ∈ factoryFenced then 2 else if c ∈ factoryBench then 1 else 0 := by
  unfold factoryCore
  simp only [List.contains_iff_mem]
  split
  · rfl
  · split <;> rfl

/-- A list of different cores is as long as the part of all cores that it names. -/
theorem length_filter_allCores (p : Nat → Bool) (l : List Nat) (hl : l.Nodup) (hp : ∀ c, p c = true ↔ c ∈ l)
    (hlt : ∀ c ∈ l, c < nCores) : (allCores.filter p).length = l.length := by
  have hall : allCores.Nodup := by unfold allCores; exact List.nodup_range
  refine ((List.perm_ext_iff_of_nodup (hall.filter p) hl).mpr fun c => ?_).length_eq
  rw [List.mem_filter, mem_allCores, hp]
  exact ⟨And.right, fun h => ⟨hlt c h, h⟩⟩

/-- Where every core of a list is in one of three states, the three counts make up the list. -/
theorem Mach.countState_add (m : Mach) (cs : List Nat) (h : ∀ c ∈ cs, (m.fpCore c).state < 3) :
    m.countState cs 0 + m.countState cs 1 + m.countState cs 2 = cs.length := by
  unfold Mach.countState
  induction cs with
  | nil => rfl
  | cons c r ih =>
    have hr := ih fun d hd => h d (List.mem_cons_of_mem c hd)
    have hc : (m.fpCore c).state = 0 ∨ (m.fpCore c).state = 1 ∨ (m.fpCore c).state = 2 := by
      have := h c List.mem_cons_self
      omega
    obtain hc | hc | hc := hc <;> simp [hc] <;> omega

/-- The module as shipped has recorded no other floor plan. -/
theorem fpCore_reset (c : Nat) : State.reset.m.fpCore c = factoryCore c := rfl

theorem factoryCore_fenced_iff (c : Nat) : (factoryCore c).state = 2 ↔ c ∈ factoryFenced := by
  rw [factoryCore_state]
  by_cases hfenced : c ∈ factoryFenced
  · simp only [hfenced, if_true]
  · by_cases hbench : c ∈ factoryBench <;> simp [hfenced, hbench]

theorem factoryCore_bench_iff (c : Nat) : (factoryCore c).state = 1 ↔ c ∈ factoryBench := by
  rw [factoryCore_state]
  by_cases hbench : c ∈ factoryBench
  · simp [hbench, (mem_spares_of_mem_factoryBench hbench).2]
  · by_cases hfenced : c ∈ factoryFenced <;> simp [hfenced, hbench]

theorem countState_reset_fenced : State.reset.m.countState allCores 2 = factoryFenced.length :=
  length_filter_allCores _ _ factoryFenced_nodup (fun c => beq_iff_eq.trans (factoryCore_fenced_iff c))
    fun _ => lt_of_mem_factoryFenced

theorem countState_reset_bench : State.reset.m.countState allCores 1 = factoryBench.length :=
  length_filter_allCores _ _ factoryBench_nodup (fun c => beq_iff_eq.trans (factoryCore_bench_iff c))
    fun _ h => lt_of_mem_factorySpares (mem_spares_of_mem_factoryBench h).1

theorem factoryCore_state_lt (c : Nat) : (factoryCore c).state < 3 := by
  rw [factoryCore_state]
  by_cases hfenced : c ∈ factoryFenced
  · simp [hfenced]
  · by_cases hbench : c ∈ factoryBench <;> simp [hfenced, hbench]

theorem length_allCores : allCores.length = 129024 := by
  unfold allCores
  exact List.length_range

/-- Settles O60: the defective cores drawn and the cores on the bench together are as many as the spares drawn, so the rest of
the module, the enabled ones, are always the same number. -/
theorem factoryCounts : Obligations.FactoryCounts := by
  unfold Obligations.FactoryCounts
  have hsum := State.reset.m.countState_add allCores fun c _ => factoryCore_state_lt c
  have hnone : State.reset.m.countState allCores 3 = 0 := by
    refine List.length_eq_zero_iff.mpr (List.filter_eq_nil_iff.mpr fun c _ h => ?_)
    have := factoryCore_state_lt c
    rw [fpCore_reset, beq_iff_eq] at h
    omega
  have hbench := factoryBench_length
  have hfenced := factoryFenced_length_le
  rw [countState_reset_fenced, countState_reset_bench, length_allCores] at hsum
  rw [countState_reset_fenced, countState_reset_bench]
  exact ⟨by omega, hfenced, by omega, hnone, length_allCores⟩

end Sys2Proof.Machine
end

section
/-! PROOF. What the life log, events, the status pins and a start afresh leave as they are. -/

namespace Sys2Proof.Machine

open Sys2Proof

/-! ## The life log and events -/

/-- A life-log record touches the life log alone. -/
theorem Mach.logRec_log (m : Mach) (type field cid : Nat) (detail : Bytes) :
    ∃ l, m.logRec type field cid detail = { m with log := l } := by
  unfold Mach.logRec
  split
  · exact ⟨m.log, rfl⟩
  · exact ⟨_, rfl⟩

/-- A life-log counter touches the life log alone. -/
theorem Mach.logCount_log (m : Mach) (off : Nat) : ∃ l, m.logCount off = { m with log := l } := by
  unfold Mach.logCount
  split
  · exact ⟨m.log, rfl⟩
  · exact ⟨_, rfl⟩

@[simp] theorem Mach.logRec_clk (m : Mach) (t f c : Nat) (d : Bytes) : (m.logRec t f c d).clk = m.clk := by
  obtain ⟨l, h⟩ := m.logRec_log t f c d
  rw [h]
@[simp] theorem Mach.logRec_cores (m : Mach) (t f c : Nat) (d : Bytes) : (m.logRec t f c d).cores = m.cores := by
  obtain ⟨l, h⟩ := m.logRec_log t f c d
  rw [h]
@[simp] theorem Mach.logRec_wafer (m : Mach) (t f c : Nat) (d : Bytes) : (m.logRec t f c d).wafer = m.wafer := by
  obtain ⟨l, h⟩ := m.logRec_log t f c d
  rw [h]
@[simp] theorem Mach.logRec_boot (m : Mach) (t f c : Nat) (d : Bytes) : (m.logRec t f c d).boot = m.boot := by
  obtain ⟨l, h⟩ := m.logRec_log t f c d
  rw [h]
@[simp] theorem Mach.logCount_cores (m : Mach) (off : Nat) : (m.logCount off).cores = m.cores := by
  obtain ⟨l, h⟩ := m.logCount_log off
  rw [h]
@[simp] theorem Mach.logCount_wafer (m : Mach) (off : Nat) : (m.logCount off).wafer = m.wafer := by
  obtain ⟨l, h⟩ := m.logCount_log off
  rw [h]
@[simp] theorem Mach.logCount_boot (m : Mach) (off : Nat) : (m.logCount off).boot = m.boot := by
  obtain ⟨l, h⟩ := m.logCount_log off
  rw [h]

/-- An event to a context's owner touches the host interface alone. -/
theorem Mach.raiseOwner_host (m : Mach) (cid : Nat) (e : Cpl) : ∃ h, m.raiseOwner cid e = { m with host := h } := by
  unfold Mach.raiseOwner
  split
  · exact ⟨_, rfl⟩
  · exact ⟨m.host, rfl⟩

/-- A change of a context touches the contexts alone. -/
theorem Mach.onCtx_ctxs (m : Mach) (cid : Nat) (f : Ctx → Ctx) : ∃ x, m.onCtx cid f = { m with ctxs := x } := by
  unfold Mach.onCtx
  split
  · exact ⟨_, rfl⟩
  · exact ⟨m.ctxs, rfl⟩

/-! ## Maps and vectors -/

theorem aget_isSome_iff {β : Type} (m : AMap β) (k : Nat) : (aget m k).isSome = true ↔ k ∈ m.map (·.1) := by
  induction m with
  | nil => simp
  | cons e r ih =>
    obtain ⟨k', v⟩ := e
    rw [aget_cons, List.map_cons, List.mem_cons, ← ih]
    by_cases h : k' = k
    · simp [h]
    · simp [h, Ne.symm h]

theorem aget_aset_isSome {β : Type} (m : AMap β) (k : Nat) (v : β) (j : Nat) (h : (aget m j).isSome = true) :
    (aget (aset m k v) j).isSome = true := by
  by_cases hj : j = k
  · simp [hj]
  · rwa [aget_aset_ne m v hj]

theorem vget_map {α β : Type} [Inhabited α] [Inhabited β] {n : Nat} (v : Vector α n) (f : α → β) {i : Nat} (h : i < n) :
    vget (v.map f) i = f (vget v i) := by
  simp [vget, h]

/-- A listed core after every listed core has been changed. -/
theorem Mach.core_mapCores (m : Mach) (f : Nat → Core → Core) (c : Nat) (h : (aget m.cores c).isSome = true) :
    (m.mapCores f).core c = f c (m.core c) := by
  obtain ⟨k, hk⟩ := Option.isSome_iff_exists.mp h
  simp [Mach.core, Mach.mapCores, hk]

/-- Whether a core is out of service is read from the floor plan alone. -/
theorem Mach.coreOut_congr (m m' : Mach) (h : m'.wafer.fp = m.wafer.fp) (c : Nat) : m'.coreOut c = m.coreOut c := by
  unfold Mach.coreOut Mach.fpCore
  rw [h]

/-! ## A start afresh -/

/-- A core that is not listed has nothing that survives a start. -/
theorem Core.reborn_default : Core.reborn {} = {} := rfl

/-- Every core after a start afresh is what survives of it. -/
theorem Mach.core_afresh (m : Mach) (stage : Nat) (ports : Bool) (c : Nat) :
    (m.afresh stage ports).core c = (m.core c).reborn := by
  have h : (m.afresh stage ports).cores = amap m.cores fun _ k => k.reborn := rfl
  unfold Mach.core
  rw [h, aget_amap]
  cases aget m.cores c with
  | none => exact Core.reborn_default.symm
  | some k => rfl

end Sys2Proof.Machine
end

section
/-! PROOF. Which slots a recovery halts, and what it leaves of the placement of each (R404, R405). -/

namespace Sys2Proof.Machine

open Sys2Proof

/-! ## Changes of the module that keep something of every slot -/

/-- From m to m' the floor plan's entries, the boot state and, of every slot, what π reads of it stay, and a listed core stays
listed. -/
structure Mach.Keeps {α : Type} (π : Slot → α) (m m' : Mach) : Prop where
  fp : m'.wafer.fp = m.wafer.fp
  gen : m'.wafer.gen = m.wafer.gen
  boot : m'.boot = m.boot
  listed : ∀ c, (aget m.cores c).isSome = true → (aget m'.cores c).isSome = true
  slot : ∀ c i, i < 4 → π ((m'.core c).slot i) = π ((m.core c).slot i)

section
variable {α : Type} {π : Slot → α}

theorem Mach.Keeps.of_cores {m m' : Mach} (hc : m'.cores = m.cores) (hfp : m'.wafer.fp = m.wafer.fp)
    (hgen : m'.wafer.gen = m.wafer.gen) (hb : m'.boot = m.boot) : Mach.Keeps π m m' :=
  ⟨hfp, hgen, hb, fun c h => by rwa [hc], fun c i _ => by simp [Mach.core, hc]⟩

theorem Mach.Keeps.refl (m : Mach) : Mach.Keeps π m m := .of_cores rfl rfl rfl rfl

theorem Mach.Keeps.trans {m m' m'' : Mach} (h : Mach.Keeps π m m') (h' : Mach.Keeps π m' m'') : Mach.Keeps π m m'' :=
  ⟨h'.fp.trans h.fp, h'.gen.trans h.gen, h'.boot.trans h.boot, fun c hc => h'.listed c (h.listed c hc),
    fun c i hi => (h'.slot c i hi).trans (h.slot c i hi)⟩

/-- What keeps every slot keeps all that is read of it. -/
theorem Mach.Keeps.of_id {m m' : Mach} (h : Mach.Keeps id m m') : Mach.Keeps π m m' :=
  ⟨h.fp, h.gen, h.boot, h.listed, fun c i hi => congrArg π (h.slot c i hi)⟩

theorem Mach.Keeps.foldl {β : Type} (f : Mach → β → Mach) (hf : ∀ m x, Mach.Keeps π m (f m x)) (l : List β) (m : Mach) :
    Mach.Keeps π m (l.foldl f m) := by
  induction l generalizing m with
  | nil => exact .refl m
  | cons x r ih => exact (hf m x).trans (ih _)

/-- A change of one core that keeps what is read of its slots. -/
theorem Mach.Keeps.onCore (m : Mach) (c : Nat) (f : Core → Core) (hf : ∀ k i, i < 4 → π ((f k).slot i) = π (k.slot i)) :
    Mach.Keeps π m (m.onCore c f) := by
  refine ⟨rfl, rfl, rfl, fun d => aget_aset_isSome _ _ _ d, fun d i hi => ?_⟩
  by_cases hd : d = c
  · rw [hd, Mach.core_onCore_self, hf _ i hi]
  · rw [Mach.core_onCore_ne m f hd]

/-- A change of every listed core that keeps what is read of its slots. -/
theorem Mach.Keeps.mapCores (m : Mach) (f : Nat → Core → Core) (hf : ∀ c k i, i < 4 → π ((f c k).slot i) = π (k.slot i)) :
    Mach.Keeps π m (m.mapCores f) := by
  refine ⟨rfl, rfl, rfl, fun d hd => ?_, fun d i hi => ?_⟩
  · simpa [Mach.mapCores] using hd
  · unfold Mach.core Mach.mapCores
    rw [aget_amap]
    cases aget m.cores d with
    | none => rfl
    | some k => exact hf d k i hi

theorem Mach.Keeps.onSlot (m : Mach) (c s : Nat) (f : Slot → Slot) (hf : ∀ v, π (f v) = π v) :
    Mach.Keeps π m (m.onSlot c s f) := by
  refine .onCore m c _ fun k i hi => ?_
  by_cases h : i = s
  · subst h
    rw [Core.slot_onSlot_self k i f hi, hf]
  · rw [Core.slot_onSlot_ne k f h]

end

/-! ## The steps of a recovery before the cores come back -/

/-- Of a slot, what its placement is: whether it is EMPTY, its context and its windows. -/
def Slot.place (v : Slot) : Bool × BitVec 10 × Vector (BitVec 64) 8 := (decide (v.ctl.st = .empty), v.ctl.cid, v.ctl.win)

theorem forceHalt_place (v : Slot) (cause addr : Nat) : (forceHalt v cause addr).place = v.place := by
  unfold forceHalt
  cases h : v.ctl.st <;> simp [Slot.place, haltCtl, h]

theorem Mach.stopWork_keeps (m : Mach) : Mach.Keeps Slot.place m m.stopWork :=
  .foldl _ (fun m (x : Nat × Nat) => .onSlot m x.1 x.2 _ fun v => forceHalt_place v 6 0) _ _

theorem Core.slot_kick (k : Core) (cc i : Nat) : (k.kick cc).slot i = k.slot i := rfl

theorem Core.slot_wipe (k : Core) (space lo n i : Nat) : (k.wipe space lo n).slot i = k.slot i := by
  unfold Core.wipe
  split <;> rfl

theorem Core.slot_saveEntries (k : Core) (i : Nat) : k.saveEntries.slot i = k.slot i := rfl

theorem Mach.kickField_keeps (m : Mach) (f : Nat) : Mach.Keeps id m (m.kickField f) := by
  unfold Mach.kickField
  extract_lets m1
  have h1 : Mach.Keeps id m m1 := .of_cores rfl rfl rfl rfl
  exact h1.trans (.foldl _ (fun m c => .onCore m c _ fun k i _ => k.slot_kick m1.cc i) _ _)

theorem Mach.raiseOwner_keeps (m : Mach) (cid : Nat) (e : Cpl) : Mach.Keeps id m (m.raiseOwner cid e) := by
  obtain ⟨h, he⟩ := m.raiseOwner_host cid e
  rw [he]
  exact .of_cores rfl rfl rfl rfl

theorem Mach.onCtx_keeps (m : Mach) (cid : Nat) (f : Ctx → Ctx) : Mach.Keeps id m (m.onCtx cid f) := by
  obtain ⟨x, he⟩ := m.onCtx_ctxs cid f
  rw [he]
  exact .of_cores rfl rfl rfl rfl

theorem Mach.loseTier_keeps (m : Mach) (c t : Nat) : Mach.Keeps id m (m.loseTier c t) := by
  unfold Mach.loseTier
  extract_lets idx lo hit
  have hwipe : Mach.Keeps id m (m.onCore c fun k => k.wipe 1 lo 0xC00000) := .onCore m c _ fun k i _ => k.slot_wipe 1 lo _ i
  exact hwipe.trans (.foldl _ (fun m e => m.raiseOwner_keeps _ _) _ _)

/-- A recovery keeps the placement of every slot until each listed core in service is recovered, and every slot after that. -/
theorem Mach.recover_parts (m : Mach) (inFull : List (Nat × Nat)) : ∃ m0 : Mach,
    Mach.Keeps Slot.place (m.pins fun b => { b with ready := false }) m0 ∧
    Mach.Keeps id (m0.mapCores fun c k => if m0.coreOut c then k else k.recovered m0.cc) (m.recover inFull) := by
  unfold Mach.recover
  extract_lets m1 subst wafer fabric m2 m3 stale lost m4 fields m5
  refine ⟨m3, ?_, ?_⟩
  · have h1 : Mach.Keeps Slot.place (m.pins fun b => { b with ready := false }) m1 :=
      (Mach.stopWork_keeps _).trans (.of_cores rfl rfl rfl rfl)
    have h2 : Mach.Keeps Slot.place m1 m2 := .of_cores rfl rfl rfl rfl
    have h3 : Mach.Keeps Slot.place m2 m3 := by
      unfold m3
      split
      · exact (Mach.Keeps.foldl _ Mach.kickField_keeps _ _).of_id
      · exact .refl m2
    exact h1.trans (h2.trans h3)
  · have h4 : Mach.Keeps id m4 { m4 with fields := fields } := .of_cores rfl rfl rfl rfl
    have h5 : Mach.Keeps id { m4 with fields := fields } m5 :=
      .foldl _ (fun m x => (m.loseTier_keeps _ _).trans (.onCore _ _ _ (by exact fun _ _ _ => rfl))) _ _
    refine (h4.trans h5).trans (.foldl _ (fun m e => ?_) _ _)
    extract_lets low
    split
    · exact .refl m
    · exact (m.onCtx_keeps _ _).trans (Mach.raiseOwner_keeps _ _ _)

/-! ## A slot after a recovery -/

/-- What R404 says of a slot v that reads w after a recovery: halted with CAUSE 6, its placement kept, where it was not EMPTY. -/
def Slot.Recovered (v w : Slot) : Prop :=
  (v.ctl.st ≠ .empty → w.ctl.st = .halted ∧ w.ctl.cause = 6 ∧ w.ctl.cid = v.ctl.cid ∧ w.ctl.win = v.ctl.win ∧
    w.arch = ({} : Slot).arch) ∧
  (v.ctl.st = .empty → w.ctl.st = .empty)

/-- It turns on the placement of the slot alone. -/
theorem Slot.Recovered.of_place {v v' w : Slot} (h : v'.place = v.place) (hw : Slot.Recovered v' w) : Slot.Recovered v w := by
  simp only [Slot.place, Prod.mk.injEq, decide_eq_decide] at h
  obtain ⟨hiff, hcid, hwin⟩ := h
  unfold Slot.Recovered at hw ⊢
  rwa [← hcid, ← hwin, ne_eq, ← hiff]

theorem recoveredSlot_recovered (v : Slot) : Slot.Recovered v (recoveredSlot v) := by
  unfold recoveredSlot
  split
  · rename_i h
    exact ⟨fun hn => absurd h hn, fun _ => rfl⟩
  · rename_i h
    exact ⟨fun _ => ⟨rfl, rfl, rfl, rfl, rfl⟩, fun he => absurd he h⟩

theorem Core.allEmpty_iff (k : Core) : k.allEmpty = true ↔ ∀ i, i < 4 → (k.slot i).ctl.st = .empty := by
  have hslot (i : Nat) (hi : i < 4) : k.slot i = k.slots[i] := by simp [Core.slot, vget, hi]
  unfold Core.allEmpty
  rw [List.all_eq_true]
  constructor
  · intro h i hi
    rw [hslot i hi]
    exact beq_iff_eq.mp (h _ (Vector.mem_toList_iff.mpr (Vector.getElem_mem hi)))
  · intro h v hv
    obtain ⟨i, hi, rfl⟩ := Vector.mem_iff_getElem.mp (Vector.mem_toList_iff.mp hv)
    rw [← hslot i hi]
    exact beq_iff_eq.mpr (h i hi)

/-- A core with a slot that is not EMPTY does not drop. -/
theorem Core.emptyDrop_of_occupied (k : Core) (h : k.allEmpty = false) : k.emptyDrop = k := by
  simp [Core.emptyDrop, h]

/-- The drop of CORE_LOGIC leaves the control registers of every slot. -/
theorem Core.dropTo_slot_ctl (k : Core) (depth i : Nat) (hi : i < 4) : ((k.dropTo depth).slot i).ctl = (k.slot i).ctl := by
  unfold Core.dropTo
  split
  · rfl
  · simp only [Core.slot]
    rw [vget_map _ _ hi]

/-- The slots of a core that drops because all are EMPTY are EMPTY still. -/
theorem Core.emptyDrop_slot_st (k : Core) (h : k.allEmpty = true) (i : Nat) (hi : i < 4) :
    (k.emptyDrop.slot i).ctl.st = .empty := by
  have hk := k.allEmpty_iff.mp h i hi
  unfold Core.emptyDrop
  split
  · exact hk
  · split
    · simp [Core.lost, Core.slot, vget, hi]
    · extract_lets up low
      have hup : up.slot i = k.slot i := by
        unfold up
        split <;> rfl
      exact ((congrArg SlotCtl.st (Core.dropTo_slot_ctl up _ i hi)).trans (by rw [hup])).trans hk

/-- A slot of a recovered core. -/
theorem Core.recovered_slot (k : Core) (cc i : Nat) (hi : i < 4) : Slot.Recovered (k.slot i) ((k.recovered cc).slot i) := by
  obtain ⟨k', hslots, hk'⟩ : ∃ k' : Core, k'.slots = k.slots.map recoveredSlot ∧ k.recovered cc = k'.emptyDrop := ⟨_, rfl, rfl⟩
  have hslot : k'.slot i = recoveredSlot (k.slot i) := by
    unfold Core.slot
    rw [hslots, vget_map _ _ hi]
  have hrec := recoveredSlot_recovered (k.slot i)
  rw [hk']
  cases hall : k'.allEmpty with
  | false => rwa [Core.emptyDrop_of_occupied k' hall, hslot]
  | true =>
    have hempty := k'.allEmpty_iff.mp hall i hi
    refine ⟨fun hne => ?_, fun _ => k'.emptyDrop_slot_st hall i hi⟩
    have hhalted := (hrec.1 hne).1
    rw [← hslot, hempty] at hhalted
    cases hhalted

/-! ## The whole recovery -/

/-- The slots of a listed core in service after steps 1 to 6 of a recovery. -/
theorem Mach.recover_slot (m : Mach) (inFull : List (Nat × Nat)) (c i : Nat) (hi : i < 4)
    (hc : (aget m.cores c).isSome = true) (hin : m.coreOut c = false) :
    Slot.Recovered ((m.core c).slot i) (((m.recover inFull).core c).slot i) := by
  obtain ⟨m0, hbefore, hafter⟩ := m.recover_parts inFull
  have hslot : ((m.recover inFull).core c).slot i = ((m0.core c).recovered m0.cc).slot i := by
    have h := hafter.slot c i hi
    rwa [m0.core_mapCores _ c (hbefore.listed c hc), Mach.coreOut_congr m m0 hbefore.fp, hin, if_neg Bool.false_ne_true] at h
  rw [hslot]
  exact ((m0.core c).recovered_slot m0.cc i hi).of_place (hbefore.slot c i hi)

theorem Mach.recover_gen (m : Mach) (inFull : List (Nat × Nat)) : (m.recover inFull).wafer.gen = m.wafer.gen := by
  obtain ⟨m0, hbefore, hafter⟩ := m.recover_parts inFull
  exact hafter.gen.trans hbefore.gen

/-- Of the boot state a recovery changes READY, and ALERT_N with it. -/
theorem Mach.recover_boot (m : Mach) (inFull : List (Nat × Nat)) :
    (m.recover inFull).boot = (m.pins fun b => { b with ready := false }).boot := by
  obtain ⟨m0, hbefore, hafter⟩ := m.recover_parts inFull
  exact hafter.boot.trans hbefore.boot

/-- The end of stage 8 leaves every slot as it is. -/
theorem Mach.toReady_slot (m : Mach) (clearFails : Bool) (c i : Nat) (hi : i < 4) :
    ((m.toReady clearFails).core c).slot i = (m.core c).slot i := by
  have hlog : (m.startRec.logCount 0x38).core c = m.core c := by
    unfold Mach.core Mach.startRec
    rw [Mach.logCount_cores, Mach.logRec_cores]
  have hsave : Mach.Keeps id (m.startRec.logCount 0x38) ((m.startRec.logCount 0x38).mapCores fun _ k => k.saveEntries) :=
    .mapCores _ _ fun _ k i _ => k.slot_saveEntries i
  exact (hsave.slot c i hi).trans (congrArg (fun k => k.slot i) hlog)

theorem Mach.toReady_gen (m : Mach) (clearFails : Bool) : (m.toReady clearFails).wafer.gen = m.wafer.gen := by
  simp [Mach.toReady, Mach.toStage, Mach.pins, Mach.mapCores, Mach.startRec]

theorem Mach.toReady_fails (m : Mach) : (m.toReady false).boot.fails = m.boot.fails := by
  simp [Mach.toReady, Mach.toStage, Mach.pins, Mach.mapCores, Mach.startRec]

end Sys2Proof.Machine
end

section
/-! PROOF. Failed starts, the watchdog, and the loss of input power (R16, R381, R389, R401 to R403, R445). -/

namespace Sys2Proof.Machine

open Sys2Proof

/-! ## What the rows run -/

theorem exec_stageTimeout (s : State) : exec .stageTimeout s = .next (s.to (stageTimeoutAt s.m)) := rfl
theorem exec_startFailure (s : State) : exec .startFailure s = .next (s.to (startFailureAt s.m)) := rfl
theorem exec_startRetry (s : State) : exec .startRetry s = .next (s.to (startRetryAt s.m)) := rfl
theorem exec_wholeDeviceRecovery (inFull : List (CoreIx × TierIx)) (inTime : Bool) (s : State) :
    exec (.wholeDeviceRecovery inFull inTime) s =
      .next (s.to (recoveryAt (inFull.map fun x => (x.1.val, x.2.val)) inTime s.m)) := rfl
theorem exec_wcWatchdogExpiry (s : State) : exec .wcWatchdogExpiry s = .next (s.to (watchdogAt s.m)) := rfl
theorem exec_inputPowerLoss (s : State) : exec .inputPowerLoss s = .next (s.to (inputPowerLossAt s.m)) := rfl

/-! ## Limits of stages, and the retry -/

/-- The limits and reasons of R381 and R401. -/
theorem stageLimit_of_mem (st ms r : Nat)
    (h : (st, ms, r) ∈ [(2, 10000, 0x0205), (3, 1000, 0x0302), (4, 60000, 0x0404), (5, 150000, 0x0502), (8, 5000, 0x0802)]) :
    stageLimit st = some (ms, r) := by
  simp only [List.mem_cons, Prod.mk.injEq, List.not_mem_nil, or_false] at h
  obtain ⟨rfl, rfl, rfl⟩ | ⟨rfl, rfl, rfl⟩ | ⟨rfl, rfl, rfl⟩ | ⟨rfl, rfl, rfl⟩ | ⟨rfl, rfl, rfl⟩ := h <;> rfl

/-- A stage past its limit fails the start. -/
theorem stageTimeoutAt_late (m : Mach) (ms r : Nat) (hl : stageLimit m.boot.stage = some (ms, r)) (hgo : m.boot.going = true)
    (hmin : m.boot.minimal = false) (hlate : m.boot.since + usCc (ms * 1000) < m.cc) : stageTimeoutAt m = m.failStart r := by
  unfold stageTimeoutAt
  rw [hl]
  exact m.when_pos _ _ (by simp [hgo, hmin, hlate])

/-- A second after a failed start the WC starts again. -/
theorem startRetryAt_due (m : Mach) (t : Nat) (hf : m.boot.failedAt = some t) (ht : t + usCc 1000000 ≤ m.cc)
    (himg : m.boot.noImage = false) : startRetryAt m = m.afresh 2 true := by
  unfold startRetryAt
  rw [hf]
  exact m.when_pos _ _ (by simp [ht, himg])

/-! ## A failed start -/

/-- The image that is not ACTIVE. -/
def Mach.otherImage (m : Mach) : Image := if m.boot.activeB then m.boot.imgA else m.boot.imgB

/-- Whether the other slot becomes ACTIVE after a start that failed with REASON r: in stage 2, or on the trial of an image not yet
confirmed, where the other image passes (R389). -/
def Mach.failureSwaps (m : Mach) (r : Nat) : Bool :=
  (r / 256 = 2 || 2 < r / 256 && m.boot.running == b2n m.boot.activeB && !m.boot.loaded.confirmed) && m.imageOk m.otherImage

/-- Whether the boot ROM is left with no image that passes (R389). -/
def Mach.failureStuck (m : Mach) (r : Nat) : Bool := r / 256 = 2 && r ≠ 0x0205 && !m.imageOk m.otherImage

/-- The boot state once a failed start is recorded, but for ALERT_N. -/
def Mach.failureBoot (m : Mach) (r : Nat) (alert : Bool) : Boot :=
  { m.boot with failed := none, failedAt := some m.cc, fails := min 255 (m.boot.fails + 1), failStage := r / 256,
                failReason := BitVec.ofNat 16 r, activeB := if m.failureSwaps r then !m.boot.activeB else m.boot.activeB,
                noImage := m.failureStuck r, fault := m.boot.fault || m.failureStuck r, ready := false, alert := alert }

/-- START_FAILURE records the failure, and the third in a row with an image left leads to minimal mode. -/
theorem startFailureAt_eq (m : Mach) (r : Nat) (h : m.boot.failed = some r) : ∃ (m1 : Mach) (alert : Bool),
    m1.boot = m.failureBoot r alert ∧ m1.cores = m.cores ∧
    startFailureAt m = if 3 ≤ min 255 (m.boot.fails + 1) && !m.failureStuck r then m1.toMinimal else m1 := by
  unfold startFailureAt
  rw [h]
  exact ⟨_, _, by rw [Mach.logCount_boot, Mach.logRec_boot]; rfl, by rw [Mach.logCount_cores, Mach.logRec_cores]; rfl, rfl⟩

/-- A failure that is not the third in a row, or leaves no image, is recorded and nothing more. -/
theorem startFailureAt_recorded (m : Mach) (r : Nat) (h : m.boot.failed = some r)
    (hstay : m.boot.fails < 2 ∨ m.failureStuck r = true) :
    (∃ alert, (startFailureAt m).boot = m.failureBoot r alert) ∧ (startFailureAt m).cores = m.cores := by
  obtain ⟨m1, alert, hboot, hcores, heq⟩ := startFailureAt_eq m r h
  have hno : ¬(3 ≤ min 255 (m.boot.fails + 1) && !m.failureStuck r) = true := by
    obtain hf | hs := hstay
    · have : ¬3 ≤ min 255 (m.boot.fails + 1) := by omega
      simp [this]
    · simp [hs]
  rw [heq, if_neg hno]
  exact ⟨⟨alert, hboot⟩, hcores⟩

/-- The third failure in a row with an image left. -/
theorem startFailureAt_third (m : Mach) (r : Nat) (h : m.boot.failed = some r) (hf : 2 ≤ m.boot.fails)
    (hs : m.failureStuck r = false) : ∃ m1 : Mach, startFailureAt m = m1.toMinimal := by
  obtain ⟨m1, _, _, _, heq⟩ := startFailureAt_eq m r h
  have hthird : 3 ≤ min 255 (m.boot.fails + 1) := by omega
  exact ⟨m1, by rw [heq, if_pos (by simp [hthird, hs])]⟩

theorem Mach.failureStuck_of_stage (m : Mach) (r : Nat) (h : r / 256 ≠ 2) : m.failureStuck r = false := by
  simp [Mach.failureStuck, h]

theorem Mach.failureStuck_of_ok (m : Mach) (r : Nat) (h : m.imageOk m.otherImage = true) : m.failureStuck r = false := by
  simp [Mach.failureStuck, h]

theorem Mach.failureStuck_of_bad (m : Mach) (r : Nat) (hst : r / 256 = 2) (hr : r ≠ 0x0205)
    (h : m.imageOk m.otherImage = false) : m.failureStuck r = true := by
  simp [Mach.failureStuck, hst, hr, h]

theorem Mach.failureSwaps_of_bad (m : Mach) (r : Nat) (h : m.imageOk m.otherImage = false) : m.failureSwaps r = false := by
  simp [Mach.failureSwaps, h]

theorem Mach.failureSwaps_of_ok (m : Mach) (r : Nat) (hst : r / 256 = 2) (h : m.imageOk m.otherImage = true) :
    m.failureSwaps r = true := by
  simp [Mach.failureSwaps, hst, h]

/-! ## Recovery, watchdog and input power -/

/-- A recovery from READY: the cores, the floor plan and the boot state are those of its steps 1 to 6, and it ends in READY or in
a failed start with REASON 0x0901. -/
theorem recoveryAt_eq (m : Mach) (inFull : List (Nat × Nat)) (inTime : Bool) (hgo : m.boot.going = true)
    (hst : m.boot.stage = 9) (hready : m.boot.ready = true) : ∃ m1 : Mach,
    m1.cores = (m.recover inFull).cores ∧ m1.wafer = (m.recover inFull).wafer ∧ m1.boot = (m.recover inFull).boot ∧
    recoveryAt inFull inTime m = if inTime then m1.publishPlan.toReady false
      else ({ m1 with boot := { m1.boot with recovering := false } }).failStart 0x0901 := by
  unfold recoveryAt
  rw [Mach.when_pos _ _ _ (by simp [hgo, hst, hready])]
  let counted := (m.recover inFull).logCount 0x80
  exact ⟨{ counted with clk := { counted.clk with holdoverOut := false } }, Mach.logCount_cores _ 0x80,
    Mach.logCount_wafer _ 0x80, Mach.logCount_boot _ 0x80, rfl⟩

/-- After 500 ms without a heartbeat the WC starts again, with FAULT_N asserted. -/
theorem watchdogAt_due (m : Mach) (hst : 3 ≤ m.boot.stage) (hbeat : m.boot.beatAt + usCc 500000 ≤ m.cc) :
    ∃ m1 : Mach, m1.clk = m.clk ∧ watchdogAt m = (m1.afresh 2 true).faultPins := by
  unfold watchdogAt
  rw [Mach.when_pos _ _ _ (by simp [hst, hbeat])]
  exact ⟨_, Mach.logRec_clk m 0x0F 0xFFFF 0xFFFF (toBytes 1 4), rfl⟩

/-- With the input power every core loses what a start loses. -/
theorem core_inputPowerLossAt (m : Mach) (c : Nat) : (inputPowerLossAt m).core c = (m.core c).reborn := by
  unfold inputPowerLossAt
  extract_lets
  exact Mach.core_afresh _ 0 false c

theorem inputPowerLossAt_recs (m : Mach) : (inputPowerLossAt m).log.recs = m.log.recs := by
  change (if m.boot.life = .retired then m.log else { m.log with cnt := _ }).recs = m.log.recs
  split <;> rfl

end Sys2Proof.Machine
end

section
/-! PROOF. Failed starts and recoveries (O51), from the rows' lemmas. -/

namespace Sys2Proof.Machine

open Sys2Proof

/-- A recovery done in time. -/
theorem wholeDeviceRecovery_inTime (s : State) (inFull : List (CoreIx × TierIx)) (hgo : s.m.boot.going = true)
    (hst : s.m.boot.stage = 9) (hready : s.m.boot.ready = true) :
    ∃ t, exec (.wholeDeviceRecovery inFull true) s = .next t ∧ t.pending = s.pending ∧ t.m.boot.stage = 9 ∧
      t.m.boot.ready = true ∧ t.m.boot.recovering = false ∧ t.m.boot.fails = s.m.boot.fails ∧
      t.m.wafer.gen = s.m.wafer.gen + 1 ∧
      ∀ (c : CoreIx) (i : Nat), i < 4 → c.val ∈ s.m.cores.map (·.1) → s.m.coreOut c = false →
        Slot.Recovered ((s.m.core c).slot i) ((t.m.core c).slot i) := by
  obtain ⟨m1, hcores, hwafer, hboot, heq⟩ :=
    recoveryAt_eq s.m (inFull.map fun x => (x.1.val, x.2.val)) true hgo hst hready
  rw [if_pos rfl] at heq
  refine ⟨_, exec_wholeDeviceRecovery inFull true s, rfl, ?_⟩
  rw [heq]
  have hcore (c : Nat) : m1.publishPlan.core c = (s.m.recover (inFull.map fun x => (x.1.val, x.2.val))).core c := by
    change (aget m1.cores c).getD {} = _
    rw [hcores]
    rfl
  refine ⟨rfl, rfl, rfl, ?_, ?_, fun c i hi hc hin => ?_⟩
  · rw [State.to_m, Mach.canon_boot, Mach.toReady_fails]
    change m1.boot.fails = _
    rw [hboot, Mach.recover_boot]
    rfl
  · rw [State.to_m, Mach.canon_wafer, Mach.toReady_gen]
    change m1.wafer.gen + 1 = _
    rw [hwafer, Mach.recover_gen]
  · rw [State.to_m, Mach.core_canon, Core.slot_canon, Mach.toReady_slot _ _ _ _ hi, hcore]
    exact s.m.recover_slot _ c i hi ((aget_isSome_iff _ _).mpr hc) hin

/-- A recovery that takes too long. -/
theorem wholeDeviceRecovery_late (s : State) (inFull : List (CoreIx × TierIx)) (hgo : s.m.boot.going = true)
    (hst : s.m.boot.stage = 9) (hready : s.m.boot.ready = true) :
    ∃ t, exec (.wholeDeviceRecovery inFull false) s = .next t ∧ t.pending = s.pending ∧ t.m.boot.failed = some 0x0901 ∧
      t.m.boot.ready = false := by
  obtain ⟨m1, -, -, hboot, heq⟩ := recoveryAt_eq s.m (inFull.map fun x => (x.1.val, x.2.val)) false hgo hst hready
  rw [if_neg Bool.false_ne_true] at heq
  refine ⟨_, exec_wholeDeviceRecovery inFull false s, rfl, ?_⟩
  rw [heq]
  refine ⟨rfl, ?_⟩
  change m1.boot.ready = false
  rw [hboot, Mach.recover_boot]
  rfl

/-- A failed start, by what it leads to. -/
theorem startFailure_outcomes (s : State) (r : Nat) (hr : s.m.boot.failed = some r) :
    (s.m.boot.fails < 2 → ∃ t, exec .startFailure s = .next t ∧ t.pending = s.pending ∧ t.m.boot.failed = none ∧
      t.m.boot.failedAt = some s.m.cc ∧ t.m.boot.fails = s.m.boot.fails + 1 ∧ t.m.boot.failStage = r / 256 ∧
      t.m.boot.failReason = BitVec.ofNat 16 r ∧ t.m.boot.ready = false ∧ t.m.boot.stage = s.m.boot.stage ∧
      (∀ c, Core.Same (t.m.core c) (s.m.core c))) ∧
    (r / 256 = 2 → r ≠ 0x0205 → s.m.imageOk s.m.otherImage = false →
      ∃ t, exec .startFailure s = .next t ∧ t.pending = s.pending ∧ t.m.boot.noImage = true ∧ t.m.boot.fault = true ∧
        t.m.boot.activeB = s.m.boot.activeB) ∧
    (r / 256 = 2 → s.m.imageOk s.m.otherImage = true → s.m.boot.fails < 2 →
      ∃ t, exec .startFailure s = .next t ∧ t.pending = s.pending ∧ t.m.boot.activeB = !s.m.boot.activeB ∧
        t.m.boot.noImage = false) ∧
    (2 ≤ s.m.boot.fails → r / 256 ≠ 2 → ∃ t, exec .startFailure s = .next t ∧ t.pending = s.pending ∧ t.m.boot.minimal = true ∧
      t.m.boot.stage = 3 ∧ t.m.boot.ready = false ∧ t.m.boot.fault = true ∧ t.m.ctxs = []) := by
  refine ⟨fun hf => ?_, fun hst hne himg => ?_, fun hst himg hf => ?_, fun hf hst => ?_⟩ <;>
    refine ⟨_, exec_startFailure s, rfl, ?_⟩
  · obtain ⟨⟨alert, hboot⟩, hcores⟩ := startFailureAt_recorded s.m r hr (.inl hf)
    have hfails : min 255 (s.m.boot.fails + 1) = s.m.boot.fails + 1 := by omega
    have hcore (c : Nat) : (startFailureAt s.m).core c = s.m.core c := by
      unfold Mach.core
      rw [hcores]
    simp only [State.to_m, Mach.canon_boot, hboot]
    exact ⟨rfl, rfl, hfails, rfl, rfl, rfl, rfl, fun c => hcore c ▸ Mach.core_canon_same _ c⟩
  · have hstuck := s.m.failureStuck_of_bad r hst hne himg
    obtain ⟨⟨alert, hboot⟩, -⟩ := startFailureAt_recorded s.m r hr (.inr hstuck)
    simp [hboot, Mach.failureBoot, hstuck, s.m.failureSwaps_of_bad r himg]
  · obtain ⟨⟨alert, hboot⟩, -⟩ := startFailureAt_recorded s.m r hr (.inl hf)
    simp [hboot, Mach.failureBoot, s.m.failureStuck_of_ok r himg, s.m.failureSwaps_of_ok r hst himg]
  · obtain ⟨m1, h1⟩ := startFailureAt_third s.m r hr hf (s.m.failureStuck_of_stage r hst)
    rw [h1]
    exact ⟨rfl, rfl, rfl, rfl, rfl⟩

/-- Settles O51: each row's lemma, read at the state that the row answers. -/
theorem startFailuresAndRecovery : Obligations.StartFailuresAndRecovery := by
  unfold Obligations.StartFailuresAndRecovery
  refine ⟨?timeout, startFailure_outcomes, ?retry, ?recovery, ?watchdog, ?power⟩
  case timeout =>
    rintro s st ms r hmem rfl hgo hmin hlate
    rw [exec_stageTimeout, stageTimeoutAt_late s.m ms r (stageLimit_of_mem _ ms r hmem) hgo hmin hlate]
  case retry =>
    intro s t hf ht himg
    rw [exec_startRetry, startRetryAt_due s.m t hf ht himg]
  case recovery =>
    intro s inFull hgo hst hready
    exact ⟨wholeDeviceRecovery_inTime s inFull hgo hst hready, wholeDeviceRecovery_late s inFull hgo hst hready⟩
  case watchdog =>
    intro s hst hbeat
    obtain ⟨m1, hclk, h1⟩ := watchdogAt_due s.m hst hbeat
    refine ⟨_, exec_wcWatchdogExpiry s, rfl, ?_⟩
    rw [h1, ← hclk]
    exact ⟨rfl, rfl, rfl, rfl, rfl⟩
  case power =>
    intro s
    refine ⟨_, exec_inputPowerLoss s, rfl, rfl, rfl, rfl, rfl, rfl, rfl, rfl, rfl, rfl, inputPowerLossAt_recs s.m, rfl,
      fun c a => ?_, fun a => Mach.canon_hostByte _ a⟩
    rw [State.to_m, Mach.core_canon, Core.canon_sramByte, Core.canon_ubByte, core_inputPowerLossAt]
    exact ⟨rfl, rfl⟩

end Sys2Proof.Machine
end

section
/-! PROOF. Coordinates, core indices, fields and wafer addresses (R18, R19, R146). -/

namespace Sys2Proof.Machine

open Sys2Proof

/-! ## Coordinates and core indices (R18) -/

theorem coreX_coreAt (x y : Nat) (hx : x < 384) : coreX (coreAt x y) = x := by
  unfold coreX coreAt
  omega

theorem coreY_coreAt (x y : Nat) (hx : x < 384) : coreY (coreAt x y) = y := by
  unfold coreY coreAt
  omega

theorem coreAt_coreX_coreY (c : Nat) : coreAt (coreX c) (coreY c) = c := Nat.div_add_mod' c 384

theorem coreX_lt (c : Nat) : coreX c < 384 := Nat.mod_lt c (by decide)

theorem coreY_lt (c : Nat) (hc : c < nCores) : coreY c < 336 := Nat.div_lt_of_lt_mul hc

theorem coreAt_lt (x y : Nat) (hx : x < 384) (hy : y < 336) : coreAt x y < nCores := by
  unfold coreAt nCores
  omega

/-! ## Fields (R19) -/

theorem fieldOf_coreAt (x y : Nat) (hx : x < 384) : fieldOf (coreAt x y) = y / 48 * 8 + x / 48 := by
  rw [fieldOf, coreX_coreAt x y hx, coreY_coreAt x y hx]

/-- The eight fields of each of the seven rows of fields. -/
theorem fieldOf_lt (c : Nat) (hc : c < nCores) : fieldOf c < 56 := by
  have hx := coreX_lt c
  have hy := coreY_lt c hc
  unfold fieldOf
  omega

/-- Column and row of the field of a core, as R19 names them. -/
theorem fieldOf_split (c : Nat) : fieldOf c % 8 = coreX c / 48 ∧ fieldOf c / 8 = coreY c / 48 := by
  have hx := coreX_lt c
  unfold fieldOf
  omega

/-- The core with local coordinates lx and ly of field f. -/
def coreInField (f lx ly : Nat) : Nat := coreAt (f % 8 * 48 + lx) (f / 8 * 48 + ly)

theorem coreInField_lt (f lx ly : Nat) (hf : f < 56) (hlx : lx < 48) (hly : ly < 48) : coreInField f lx ly < nCores :=
  coreAt_lt _ _ (by omega) (by omega)

theorem fieldOf_coreInField (f lx ly : Nat) (hlx : lx < 48) (hly : ly < 48) : fieldOf (coreInField f lx ly) = f := by
  rw [coreInField, fieldOf_coreAt _ _ (by omega)]
  omega

/-- The local coordinates of a core of a field (R19). -/
theorem local_coreInField (f lx ly : Nat) (hlx : lx < 48) (hly : ly < 48) :
    coreX (coreInField f lx ly) % 48 = lx ∧ coreY (coreInField f lx ly) % 48 = ly := by
  rw [coreInField, coreX_coreAt _ _ (by omega), coreY_coreAt _ _ (by omega)]
  omega

/-- A core is the one with its local coordinates in its field. -/
theorem coreInField_fieldOf (c : Nat) : coreInField (fieldOf c) (coreX c % 48) (coreY c % 48) = c := by
  obtain ⟨hi, hj⟩ := fieldOf_split c
  rw [coreInField, hi, hj, Nat.div_add_mod', Nat.div_add_mod', coreAt_coreX_coreY]

theorem mem_fieldCores_iff_local (f c : Nat) : c ∈ fieldCores f ↔ ∃ lx ly, lx < 48 ∧ ly < 48 ∧ coreInField f lx ly = c := by
  simp only [fieldCores, List.mem_map, List.mem_range]
  constructor
  · rintro ⟨i, hi, rfl⟩
    exact ⟨i % 48, i / 48, by omega, by omega, rfl⟩
  · rintro ⟨lx, ly, hlx, hly, rfl⟩
    have hmod : (ly * 48 + lx) % 48 = lx := by omega
    have hdiv : (ly * 48 + lx) / 48 = ly := by omega
    exact ⟨ly * 48 + lx, by omega, by rw [hmod, hdiv]; rfl⟩

/-- The cores of a field are those whose field it is. -/
theorem mem_fieldCores (f c : Nat) (hf : f < 56) : c ∈ fieldCores f ↔ c < nCores ∧ fieldOf c = f := by
  rw [mem_fieldCores_iff_local]
  constructor
  · rintro ⟨lx, ly, hlx, hly, rfl⟩
    exact ⟨coreInField_lt f lx ly hf hlx hly, fieldOf_coreInField f lx ly hlx hly⟩
  · rintro ⟨-, rfl⟩
    exact ⟨coreX c % 48, coreY c % 48, Nat.mod_lt _ (by decide), Nat.mod_lt _ (by decide), coreInField_fieldOf c⟩

theorem fieldCores_length (f : Nat) : (fieldCores f).length = 2304 := by
  rw [fieldCores, List.length_map, List.length_range]

/-! ## Wafer addresses (R146) -/

/-- A core's index fits the 17 bits that a wafer address has for it. -/
theorem waCore_waOf (space c off : Nat) (hc : c < nCores) (hoff : off < 2 ^ 27) : waCore (waOf space c off) = c := by
  unfold nCores at hc
  unfold waCore waOf fld
  omega

/-- Settles O59: the lemmas on coordinates, fields and wafer addresses. -/
theorem coordinatesNameCoresAndFields : Obligations.CoordinatesNameCoresAndFields := by
  unfold Obligations.CoordinatesNameCoresAndFields
  refine ⟨?grid, ?index, ?block, waCore_waOf, mem_fieldCores, fun f _ => fieldCores_length f⟩
  case grid =>
    intro x y hx hy
    have hc := coreAt_lt x y hx hy
    exact ⟨rfl, Nat.le_of_lt_succ hc, coreX_coreAt x y hx, coreY_coreAt x y hx, fieldOf_coreAt x y hx,
      Nat.le_of_lt_succ (fieldOf_lt _ hc)⟩
  case index =>
    intro c
    exact ⟨coreAt_coreX_coreY c, coreX_lt c, coreY_lt c c.isLt⟩
  case block =>
    intro f lx ly hf hlx hly
    exact ⟨coreInField_lt f lx ly hf hlx hly, fieldOf_coreInField f lx ly hlx hly, local_coreInField f lx ly hlx hly⟩

end Sys2Proof.Machine
end

section
/-! PROOF. Frames that arrive and leave (O40): the branch of each row that a frame, an attachment, a request or a waiting
message takes (R30, R285, R289, R295 to R303, log 51). -/

namespace Sys2Proof.Machine

open Sys2Proof

/-! ## What the rows run -/

theorem exec_fabricMessageReceive (e : FieldIx) (fr : Bytes) (s : State) :
    exec (.fabricMessageReceive e fr) s = .next (s.to (messageReceiveAt e fr s.m)) := rfl
theorem exec_frameTransit (e : FieldIx) (fr : Bytes) (s : State) :
    exec (.frameTransit e fr) s = .next (s.to (transitAt e fr s.m)) := rfl
theorem exec_fabricAttachmentSend (c : CoreIx) (s : State) :
    exec (.fabricAttachmentSend c) s = .next (s.to (attachmentSendAt c s.m)) := rfl
theorem exec_fabricTimeout (id : Nat) (s : State) :
    exec (.fabricTimeout id) s = .next (s.to (fabricTimeoutAt id s.m)) := rfl
theorem exec_onwardLinkWaitExpiry (p : PortIx) (s : State) :
    exec (.onwardLinkWaitExpiry p) s = .next (s.to (onwardExpiryAt p s.m)) := rfl

/-! ## Frames that end here (R289, R299) -/

/-- An ordinary frame is none of the URGENT channel. -/
theorem ne_urgent_of_ordinary (chan : Nat) (h : ordinary chan = true) : (chan == 5) = false := by
  have hlt : chan < 4 := of_decide_eq_true h
  exact beq_false_of_ne (by omega)

/-- An ordinary frame that its engine takes in and that is not in transit is one that FABRIC_MESSAGE_RECEIVE is about. -/
theorem receives_ordinary (m : Mach) (e : Nat) (f : Bytes) (htake : m.takes e f = true) (hord : ordinary (frChan f) = true)
    (hend : m.isTransit e f = false) : (m.takes e f && !m.isTransit e f && !(frChan f == 5 && frOp f == 7)) = true := by
  simp [htake, hend, ne_urgent_of_ordinary _ hord]

/-- The message that a HEAD frame opens. -/
def openedBy (f : Bytes) : RxMsg :=
  { op := frOp f, tag := frTag f, err := frErr f, chan := frChan f, vc := frVc f, hdr := (frPay f).take 20,
    data := (frPay f).drop 20, n := 1 }

/-- A frame that is not next leaves its acknowledgement, and a LET where it is no duplicate. -/
theorem messageReceiveAt_outOfOrder (m : Mach) (e : Nat) (f : Bytes) (htake : m.takes e f = true)
    (hord : ordinary (frChan f) = true) (hend : m.isTransit e f = false) (hout : (m.rxAck e f).outOfOrder e f = true) :
    messageReceiveAt e f m =
      if (m.rxAck e f).isDup e f then m.rxAck e f else (m.rxAck e f).frameBad e 3 (frChan f) := by
  unfold messageReceiveAt
  rw [Mach.when_pos _ _ _ (receives_ordinary m e f htake hord hend)]
  exact if_pos hout

/-- A HEAD frame that is next in order opens its message, which is whole where the frame is its TAIL too. -/
theorem messageReceiveAt_head (m : Mach) (e : Nat) (f : Bytes) (htake : m.takes e f = true)
    (hord : ordinary (frChan f) = true) (hend : m.isTransit e f = false) (hnext : (m.rxAck e f).outOfOrder e f = false)
    (hport : (m.rxAck e f).quarantineDrop e f = false) (hhead : frHead f = true) :
    messageReceiveAt e f m =
      if frTail f then (((m.rxAck e f).takeFrame e f).onEng e fun g => { g with rx := adel g.rx (frKey f) }).wholeMsg e (openedBy f)
      else ((m.rxAck e f).takeFrame e f).onEng e fun g => { g with rx := aset g.rx (frKey f) (openedBy f) } := by
  unfold messageReceiveAt
  rw [Mach.when_pos _ _ _ (receives_ordinary m e f htake hord hend)]
  cases htail : frTail f with
  | true => simp [hnext, hport, hord, hhead, openedBy, frKey]
  | false => simp [hnext, hport, hord, hhead, openedBy, frKey]

/-! ## Frames in transit (R30, R305) -/

/-- The module once the last frame of a message in transit is taken in, before it is queued onward: the frame is counted at its
port and its message no longer open. -/
def Mach.tookTransit (m : Mach) (e : Nat) (f : Bytes) : Mach :=
  (((m.rxAck e f).takeFrame e f).portCount e 0xA0).onEng e fun g => { g with rx := adel g.rx (frKey f) }

/-- A message of one frame in transit is queued at the engine onward, and holds its buffer until it leaves. -/
theorem transitAt_whole (m : Mach) (e : Nat) (f : Bytes) (e' vc : Nat) (htake : m.takes e f = true)
    (htr : m.isTransit e f = true) (hnext : m.outOfOrder e f = false) (hport : m.quarantineDrop e f = false)
    (hhead : frHead f = true) (htail : frTail f = true) (hvia : m.transitTo e (frVc f) = some (e', vc)) :
    transitAt e f m = (m.tookTransit e f).sendFrames e' (transitSrc + e) [reFrame f vc] ((m.tookTransit e f).cc + transitCc)
      (some (e, poolOf (frChan f) (frVc f))) := by
  unfold transitAt
  rw [Mach.when_pos _ _ _ (by simp [htake, htr, hnext, hport])]
  simp only [hhead, htail, hvia, if_true]
  rfl

/-! ## The attachment of an anchor (R297 to R299) -/

/-- The request whose answer the attachment of a core sends next. -/
def Mach.answerable (m : Mach) (c : Nat) : Option InReq :=
  m.fabric.ins.find? fun q => q.anchor == c && q.host.isNone && q.meshDone && q.logDone

/-- An answer that is ready goes before any message. -/
theorem attachmentSendAt_answer (m : Mach) (c : Nat) (q : InReq) (hc : isAnchor c = true) (hq : m.answerable c = some q) :
    attachmentSendAt c m = m.respondOut c q := by
  unfold Mach.answerable at hq
  simp [attachmentSendAt, hc, hq]

/-- Whether an engine sends is not a matter of the cores. -/
theorem Mach.engine_serves_setCore (m : Mach) (c e : Nat) (k : Core) :
    ((m.setCore c k).activeSet ((m.setCore c k).engPort e)).contains ((m.setCore c k).engIndex e) =
      (m.activeSet (m.engPort e)).contains (m.engIndex e) ∧
    (m.setCore c k).portUp ((m.setCore c k).engPort e) = m.portUp (m.engPort e) := ⟨rfl, rfl⟩

/-- The core and the fabric message once its attachment has taken up the mesh message of local output key. -/
def Core.takenUp (k : Core) (key : Nat) (f : Flit) (fs : List Flit) : Core × Gather := (k.loDrop key).gather f fs

/-- A message that is whole leaves on the engine of its anchor, where no answer waits and nothing holds back its channel. -/
theorem attachmentSendAt_launch (m : Mach) (c key : Nat) (f : Flit) (fs : List Flit) (hc : isAnchor c = true)
    (hnone : m.answerable c = none) (hin : (m.core c).attachIn = some (key, f, fs))
    (hset : (m.port (m.engPort (fieldOf c))).pendingSet = none)
    (hfree : ∀ z ∈ (m.eng (fieldOf c)).queue, frChan z.f = fabChan f.chan → transitSrc ≤ z.src)
    (hwhole : ((m.core c).takenUp key f fs).2.whole = true)
    (hact : (m.activeSet (m.engPort (fieldOf c))).contains (m.engIndex (fieldOf c)) = true)
    (hup : m.portUp (m.engPort (fieldOf c)) = true) :
    attachmentSendAt c m =
      (m.setCore c ((m.core c).takenUp key f fs).1).launchMsg (fieldOf c) ((m.core c).takenUp key f fs).2 := by
  have hclear : ((m.eng (fieldOf c)).queue.any fun x => x.src < transitSrc && frChan x.f == fabChan f.chan) = false := by
    refine List.any_eq_false.mpr fun z hz hwaits => ?_
    obtain ⟨hsrc, hchan⟩ : z.src < transitSrc ∧ frChan z.f = fabChan f.chan := by simpa using hwaits
    exact absurd (hfree z hz hchan) (Nat.not_le.mpr hsrc)
  obtain ⟨hact', hup'⟩ := m.engine_serves_setCore c (fieldOf c) ((m.core c).takenUp key f fs).1
  unfold Mach.answerable at hnone
  unfold Core.takenUp at hwhole hact' hup' ⊢
  simp only [attachmentSendAt, hc, hnone, hin, hset, hclear, hwhole, hact', hup', hact, hup]
  rfl

/-! ## Requests and messages that have waited too long (R300, R303) -/

/-- The module without an outstanding request. -/
def Mach.dropReq (m : Mach) (id : Nat) : Mach :=
  { m with fabric := { m.fabric with reqs := m.fabric.reqs.filter fun x => x.id != id } }

/-- A READ unanswered for FTIMEOUT is given up, and its mover faults. -/
theorem fabricTimeoutAt_read (m : Mach) (id : Nat) (q : FReq) (hq : (m.fabric.reqs.find? fun q => q.id == id) = some q)
    (hread : q.read = true) (hlate : q.start + usCc (1000 * m.fabric.ftimeout) ≤ m.cc) :
    fabricTimeoutAt id m =
      ((m.dropReq id).onSlot q.core q.slot fun v =>
        { v with run := { v.run with rids := v.run.rids.filter (· != q.rid) } }).mvUnreachable q.core q.slot q.serial := by
  unfold fabricTimeoutAt
  rw [hq]
  simp only [hread, if_true]
  exact m.when_pos _ _ (decide_eq_true hlate)

/-- The first message that waits for an onward link is answered as unreachable after 1 ms. -/
theorem onwardExpiryAt_due (m : Mach) (p : Nat) (w : TransitMsg) (ws : List TransitMsg) (hw : (m.port p).waiting = w :: ws)
    (hlate : w.since + usCc 1000 ≤ m.cc) :
    onwardExpiryAt p m = (m.onPort p fun q => { q with waiting := ws }).unreachable w.eng w.msg := by
  unfold onwardExpiryAt
  rw [hw]
  exact m.when_pos _ _ (decide_eq_true hlate)

/-- Settles O40: each row's lemma, read at the module that the row answers. -/
theorem framesArriveAndLeave : Obligations.FramesArriveAndLeave := by
  unfold Obligations.FramesArriveAndLeave
  refine ⟨?outOfOrder, ?head, ?transit, ?answer, ?launch, ?timeout, ?expiry⟩
  case outOfOrder =>
    intro s e fr htake hord hend hout
    rw [exec_fabricMessageReceive, messageReceiveAt_outOfOrder s.m e fr htake hord hend hout]
    exact ⟨fun hdup => by rw [if_pos hdup], fun hdup => by rw [if_neg (Bool.eq_false_iff.mp hdup)]⟩
  case head =>
    intro s e fr m r key htake hord hend hnext hport hhead
    rw [exec_fabricMessageReceive, messageReceiveAt_head s.m e fr htake hord hend hnext hport hhead]
    exact ⟨fun htail => by rw [if_pos htail]; rfl, fun htail => by rw [if_neg (Bool.eq_false_iff.mp htail)]; rfl⟩
  case transit =>
    intro s e fr e' vc key htake htr hnext hport hhead htail hvia
    rw [exec_frameTransit, transitAt_whole s.m e fr e' vc htake htr hnext hport hhead htail hvia]
    rfl
  case answer =>
    intro s c q hc hq
    rw [exec_fabricAttachmentSend, attachmentSendAt_answer s.m c q hc hq]
  case launch =>
    intro s c key f fs e y hc hnone hin hset hfree hwhole hact hup
    rw [exec_fabricAttachmentSend, attachmentSendAt_launch s.m c key f fs hc hnone hin hset hfree hwhole hact hup]
    rfl
  case timeout =>
    intro s id q hq hread hlate
    rw [exec_fabricTimeout, fabricTimeoutAt_read s.m id q hq hread hlate]
    rfl
  case expiry =>
    intro s p w ws hw hlate
    rw [exec_onwardLinkWaitExpiry, onwardExpiryAt_due s.m p w ws hw hlate]

end Sys2Proof.Machine
end

section
/-! PROOF. Scalar registers and predicates (R48, R86): what is read after a write. -/

namespace Sys2Proof.Machine

open Sys2Proof

/-! ## Single bits of a number -/

theorem bitOf_eq_testBit (x i : Nat) : bitOf x i = x.testBit i := by
  rw [bitOf, Nat.testBit_eq_decide_div_mod_eq]
  rfl

/-- A number by its bit n, the bits above it and those below it. -/
theorem two_pow_split (x n : Nat) : 2 ^ n * (2 * (x / 2 ^ n / 2) + b2n (bitOf x n)) + x % 2 ^ n = x := by
  have hbit : b2n (bitOf x n) = x / 2 ^ n % 2 := by
    rcases Nat.mod_two_eq_zero_or_one (x / 2 ^ n) with h | h <;> simp [bitOf, b2n, h]
  rw [hbit, Nat.div_add_mod, Nat.div_add_mod]

/-- Bit n replaced: what is written stands there, and every other bit is as it was. -/
theorem bitOf_replace (x n k : Nat) (v : Bool) :
    bitOf (x - b2n (bitOf x n) * 2 ^ n + b2n v * 2 ^ n) k = if k = n then v else bitOf x k := by
  have hnew : x - b2n (bitOf x n) * 2 ^ n + b2n v * 2 ^ n = 2 ^ n * (2 * (x / 2 ^ n / 2) + b2n v) + x % 2 ^ n := by
    have hx := two_pow_split x n
    rw [Nat.mul_add] at hx ⊢
    rw [Nat.mul_comm (b2n (bitOf x n)), Nat.mul_comm (b2n v)]
    omega
  have hlow : x % 2 ^ n < 2 ^ n := Nat.mod_lt _ (Nat.two_pow_pos n)
  rw [hnew, bitOf_eq_testBit, bitOf_eq_testBit, Nat.testBit_two_pow_mul_add _ hlow]
  rcases Nat.lt_trichotomy k n with hk | rfl | hk
  · rw [if_pos hk, if_neg (Nat.ne_of_lt hk), Nat.testBit_mod_two_pow]
    simp [hk]
  · cases v <;> simp [b2n]
  · obtain ⟨j, rfl⟩ := Nat.exists_eq_add_of_lt hk
    have hhigh : (2 * (x / 2 ^ n / 2) + b2n v) / 2 = x / 2 ^ n / 2 := by
      cases v <;> simp [b2n]; omega
    rw [if_neg (by omega), if_neg (by omega), show n + j + 1 - n = j + 1 by omega, Nat.testBit_succ, hhigh,
      ← Nat.testBit_succ, Nat.testBit_div_two_pow]
    congr 1
    omega

/-! ## Registers -/

theorem readS_writeS (a : SlotArch) (n k : Nat) (v : BitVec 64) (hn : n < 32) :
    readS (writeS a n v) k = if k = n then v else readS a k := by
  unfold readS writeS
  split
  next h => rw [h, vget_vset_self _ _ _ hn]
  next h => exact vget_vset_ne _ _ h

/-- A write to p0 is discarded (R48). -/
theorem writeP_zero (a : SlotArch) (v : Bool) : writeP a 0 v = a := rfl

theorem writeP_s (a : SlotArch) (n : Nat) (v : Bool) : (writeP a n v).s = a.s := by
  unfold writeP
  split <;> rfl

theorem readP_zero (a : SlotArch) : readP a 0 = true := rfl

theorem readP_of_ne_zero (a : SlotArch) {k : Nat} (h : k ≠ 0) : readP a k = bitOf a.p.toNat k := by
  simp [readP, h]

theorem readP_writeP (a : SlotArch) (n k : Nat) (v : Bool) (hk : k < 8) :
    readP (writeP a n v) k = if k = 0 then true else if k = n then v else readP a k := by
  by_cases hk0 : k = 0
  · rw [if_pos hk0, hk0, readP_zero]
  rw [if_neg hk0]
  by_cases hn0 : n = 0
  · rw [hn0, writeP_zero, if_neg hk0]
  · have hp : (writeP a n v).p.toNat = (a.p.toNat - b2n (bitOf a.p.toNat n) * 2 ^ n + b2n v * 2 ^ n) % 2 ^ 8 := by
      rw [writeP, if_neg hn0, BitVec.toNat_ofNat]
    rw [readP_of_ne_zero _ hk0, readP_of_ne_zero _ hk0, hp, bitOf_eq_testBit, Nat.testBit_mod_two_pow, ← bitOf_eq_testBit,
      bitOf_replace]
    simp [hk]

/-- Settles O55: a read after a write, of a register and of a predicate. -/
theorem registersHoldWhatIsWritten : Obligations.RegistersHoldWhatIsWritten := by
  unfold Obligations.RegistersHoldWhatIsWritten
  refine ⟨fun a n k v hn _ => ⟨readS_writeS a n k v hn, rfl, rfl⟩,
    fun a n k v _ hk => ⟨readP_writeP a n k v hk, writeP_s a n v, ?_⟩⟩
  rintro rfl
  exact writeP_zero a v

end Sys2Proof.Machine
end

section
/-! PROOF. What a change of one core, of a context or of the host interface leaves of the cores. -/

namespace Sys2Proof.Machine

open Sys2Proof

/-! ## One core after a row that changes it alone -/

/-- The core that a row has changed, in the state that it answers. -/
theorem State.core_to_onCore (s : State) (c : Nat) (f : Core → Core) :
    (s.to (s.m.onCore c f)).m.core c = (f (s.m.core c)).canon := by
  rw [State.to_m, Mach.core_canon, Mach.core_onCore_self]

/-- Every other core is alike. -/
theorem State.core_to_onCore_same (s : State) (f : Core → Core) {c d : Nat} (h : d ≠ c) :
    Core.Same ((s.to (s.m.onCore c f)).m.core d) (s.m.core d) := by
  rw [State.to_m, Mach.core_canon, Mach.core_onCore_ne _ _ h]
  exact Core.canon_same _

/-! ## Slots, contexts and the host interface -/

/-- Two changes of a slot, one after the other. -/
theorem Core.onSlot_onSlot (k : Core) (s : Nat) (f g : Slot → Slot) (h : s < 4) :
    (k.onSlot s f).onSlot s g = k.onSlot s fun v => g (f v) := by
  have hslot := k.slot_onSlot_self s f h
  rw [Core.onSlot, hslot]
  simp [Core.onSlot, Core.setSlot, vset]

theorem Mach.core_onCtx (m : Mach) (cid : Nat) (f : Ctx → Ctx) (d : Nat) : (m.onCtx cid f).core d = m.core d := by
  obtain ⟨x, h⟩ := m.onCtx_ctxs cid f
  rw [h]
  rfl

theorem Mach.core_raiseOwner (m : Mach) (cid : Nat) (e : Cpl) (d : Nat) : (m.raiseOwner cid e).core d = m.core d := by
  obtain ⟨x, h⟩ := m.raiseOwner_host cid e
  rw [h]
  rfl

end Sys2Proof.Machine
end

section
/-! PROOF. Issue rounds, issue cycles, fetch faults and STOP (R52, R56, R58, R64, R73). -/

namespace Sys2Proof.Machine

open Sys2Proof

/-! ## What the rows run -/

theorem exec_issueRoundStart (c : CoreIx) (s : State) :
    exec (.issueRoundStart c) s = .next (s.to (roundStartAt c s.m)) := rfl
theorem exec_bundleIssue (r : CoreRead) (s : State) :
    exec (.bundleIssue r) s = .next (s.to (bundleIssueAt r.core r.cells s.m)) := rfl
theorem exec_nodeFire (r : CoreRead) (s : State) :
    exec (.nodeFire r) s = .next (s.to (nodeFireAt r.core r.cells s.m)) := rfl
theorem exec_moverGranule (r : CoreRead) (s : State) :
    exec (.moverGranule r) s = .next (s.to (granule r.core r.cells s.m)) := rfl
theorem exec_localUnderBankAccess (r : CoreRead) (s : State) :
    exec (.localUnderBankAccess r) s = .next (s.to (ubAccess r.core r.cells s.m)) := rfl
theorem exec_cacheLineFill (r : CoreRead) (s : State) :
    exec (.cacheLineFill r) s = .next (s.to (lineFill r.core r.cells s.m)) := rfl

/-! ## Rounds (R56) -/

theorem roundStartAt_due (m : Mach) (c : Nat) (hon : (m.core c).pwr.logic = .on) (hleft : (m.core c).seq.left = 0) :
    roundStartAt c m = m.onCore c Core.newRound := by
  unfold roundStartAt
  exact m.when_pos _ _ (by simp [hon, hleft])

/-- The credit of a slot in a new round is its WEIGHT while it runs or is parked. -/
theorem Core.credit_newRound (k : Core) (i : Nat) (h : i < 4) : vget k.newRound.seq.credit i =
    if (k.slot i).ctl.st = .running ∨ (k.slot i).ctl.st = .parked then (k.slot i).ctl.weight.toNat else 0 := by
  simp [vget, Core.newRound, h]

/-- Settles O7: the module that the row answers, and a new round read at the core. -/
theorem roundStartGivesCredits : Obligations.RoundStartGivesCredits := by
  unfold Obligations.RoundStartGivesCredits
  intro s c hon hleft
  have hcore : ((s.to (s.m.onCore c Core.newRound)).m.core c).seq = (s.m.core c).newRound.seq := by
    rw [State.core_to_onCore]
    rfl
  refine ⟨_, ?_, rfl, ?_⟩
  · rw [exec_issueRoundStart, roundStartAt_due s.m c hon hleft]
  · rw [hcore]
    exact ⟨rfl, rfl, rfl, fun i => Core.credit_newRound _ i i.isLt⟩

/-! ## Issue cycles (R52, R54, R56) -/

/-- Without cells in error the module is as it is. -/
theorem Mach.cellErrs_nil (m : Mach) (c : Nat) : m.cellErrs c [] = m := rfl

theorem Mach.cellErrs_of_ne_nil (m : Mach) (c : Nat) (cells : List CellErr) (h : cells ≠ []) :
    m.cellErrs c cells = m.onCore c fun k => cells.foldl Core.cellErr k := by
  simp [Mach.cellErrs, h]

/-- A cycle whose round-robin takes no slot is counted. -/
theorem bundleIssueAt_none (m : Mach) (c : Nat) (h : (m.issueCycle c).1 = none) :
    bundleIssueAt c [] m = (m.issueCycle c).2 := by
  have hcycle : m.issueCycle c = (none, (m.issueCycle c).2) := Prod.ext h rfl
  simp only [bundleIssueAt, Mach.cellErrs_nil]
  rw [hcycle]

/-- A slot that the round-robin takes and that holds no plane issues its bundle. -/
theorem bundleIssueAt_some (m : Mach) (c sl : Nat) (spare : Bool) (h : (m.issueCycle c).1 = some (sl, spare))
    (hp : m.isPlane c sl = false) : bundleIssueAt c [] m = (m.issueCycle c).2.issueBundle c sl spare := by
  have hcycle : m.issueCycle c = (some (sl, spare), (m.issueCycle c).2) := Prod.ext h rfl
  simp only [bundleIssueAt, Mach.cellErrs_nil]
  rw [hcycle]
  simp [hp]

/-- A bundle within the window, fetched, without fault and without a poisoned word, issues (R52, R58). -/
theorem Mach.issueBundle_issues (m : Mach) (c sl o b : Nat) (spare : Bool)
    (hw : spadAt ((m.core c).slot sl).ctl ((m.core c).slot sl).ctl.pc.toNat 16 = some o) (hp : m.spadPoison c o 16 = none)
    (hb : ((m.core c).slot sl).bundle = some b) (hf : m.bundleFault c sl b = none) :
    m.issueBundle c sl spare = m.issues c sl b false spare := by
  unfold Mach.issueBundle
  simp only [hw, hb, hf, hp]

/-- A fetch outside the window faults (R58). -/
theorem Mach.issueBundle_offside (m : Mach) (c sl : Nat) (spare : Bool)
    (hw : spadAt ((m.core c).slot sl).ctl ((m.core c).slot sl).ctl.pc.toNat 16 = none) :
    m.issueBundle c sl spare = m.preciseFault c sl 1 ((m.core c).slot sl).ctl.pc.toNat := by
  unfold Mach.issueBundle
  simp only [hw]

/-- Settles O5: an issue cycle with its choice, one without, and the cells found in error. -/
theorem bundleIssueRunsTheBundle : Obligations.BundleIssueRunsTheBundle := by
  unfold Obligations.BundleIssueRunsTheBundle
  refine ⟨?chosen, ?idle, ?cells⟩
  case chosen =>
    intro s c sl b spare m v hsome hplane ⟨o, hw, hpoison⟩ hb hf
    rw [exec_bundleIssue, bundleIssueAt_some s.m c sl spare hsome hplane,
      Mach.issueBundle_issues m c sl o b spare hw hpoison hb hf]
    rfl
  case idle =>
    intro s c hnone
    rw [exec_bundleIssue, bundleIssueAt_none s.m c hnone]
  case cells =>
    intro s c cells hne t
    have ht : t.m = s.m.cellErrs c cells := (s.m.cellErrs_of_ne_nil c cells hne).symm
    simp only [exec_bundleIssue, exec_nodeFire, exec_moverGranule, exec_localUnderBankAccess, exec_cacheLineFill, ht]
    -- Each of these rows begins with `Mach.cellErrs`, and by `Mach.cellErrs_nil` the row without cells adds nothing to it.
    exact ⟨rfl, rfl, rfl, rfl, rfl⟩

/-! ## Faults of a slot (R64) -/

/-- The report of a fault touches no core. -/
theorem Mach.core_faultEvent (m : Mach) (c s cause d : Nat) : (m.faultEvent c s cause).core d = m.core d := by
  unfold Mach.faultEvent
  rw [Mach.core_raiseOwner, Mach.core_onCtx]

/-- Of the cores, a fault changes the slot it is recorded in alone. -/
theorem Mach.core_slotFault (m : Mach) (c s cause : Nat) (imprecise : Bool) (fpc faddr d : Nat)
    (hr : m.resetting c s = false) : (m.slotFault c s cause imprecise fpc faddr).core d =
      (m.onSlot c s fun v => haltSlot v cause imprecise fpc faddr).core d := by
  unfold Mach.slotFault
  rw [hr, if_neg Bool.false_ne_true]
  extract_lets first m'
  split
  · exact m'.core_faultEvent c s cause d
  · rfl

/-- The first fault of a RUNNING slot halts it. -/
theorem haltSlot_running (v : Slot) (cause : Nat) (imprecise : Bool) (fpc faddr : Nat) (h : v.ctl.st = .running) :
    haltSlot v cause imprecise fpc faddr =
      { v with ctl := haltCtl v.ctl cause imprecise fpc faddr, run := { v.run with wakeAt := none, hwSince := none } } := by
  simp [haltSlot, firstFault, h]

/-! ## STOP without live parts (R73) -/

/-- A slot that its STOP has halted behind the bundle. -/
def Slot.afterStop (v : Slot) : Slot :=
  { v with ctl := { v.ctl with pc := v.ctl.pc + 16, st := .halted, block := 10, cause := 0, imprecise := false, more := false } }

/-- Where no branch is taken the next bundle is the one behind. -/
theorem nextPc_untaken (v : Slot) (b cc : Nat) : nextPc v b cc false = { v with ctl := { v.ctl with pc := v.ctl.pc + 16 } } := rfl

/-- A bundle with STOP and no live part halts its slot and does nothing else to any core. -/
theorem Mach.core_runBundle_stop (m : Mach) (c s b d : Nat) (h4 : s < 4) (hstop : bStop b = true)
    (hs : sLive ((m.core c).slot s).arch b = false) (hv : vLive ((m.core c).slot s).arch b = false)
    (ht : tLive ((m.core c).slot s).arch b = false) (hp : popsOf ((m.core c).slot s).arch b = ([], [], [])) :
    (m.runBundle c s b false).core d = (m.onSlot c s Slot.afterStop).core d := by
  have hrun : m.runBundle c s b false =
      ((m.onCore c fun k => k).onSlot c s fun v => { v with ctl := { v.ctl with pc := v.ctl.pc + 16 } }).onSlot c s fun v =>
        { v with ctl := { v.ctl with st := .halted, block := 10, cause := 0, imprecise := false, more := false } } := by
    simp [Mach.runBundle, hstop, hs, hv, ht, hp, dropPops, nextPc_untaken]
  rw [hrun]
  by_cases hd : d = c
  · subst hd
    simp only [Mach.onSlot_eq, Mach.core_onCore_self]
    exact (m.core d).onSlot_onSlot s _ _ h4
  · simp only [Mach.onSlot_eq, Mach.core_onCore_ne _ _ hd]

/-- Settles O6: the fault of a fetch outside the window, and a STOP without live parts, read at the core. -/
theorem fetchFaultsAndStops : Obligations.FetchFaultsAndStops := by
  unfold Obligations.FetchFaultsAndStops
  refine ⟨?offside, ?stop⟩
  case offside =>
    intro m c sl spare hsl hrun hreset hwindow v w
    have hcore : (m.issueBundle c sl spare).core c = (m.core c).onSlot sl fun u => haltSlot u 1 false v.ctl.pc.toNat 0 := by
      rw [m.issueBundle_offside c sl spare hwindow, Mach.preciseFault, m.core_slotFault _ _ _ _ _ _ _ hreset, Mach.onSlot_eq,
        Mach.core_onCore_self]
    have hslot : w = haltSlot v 1 false v.ctl.pc.toNat 0 := by
      unfold w
      rw [hcore, Core.slot_onSlot_self _ _ _ hsl]
    rw [hslot, haltSlot_running v _ _ _ _ hrun, hcore]
    refine ⟨?_, rfl, rfl, rfl⟩
    simp [haltCtl]
  case stop =>
    intro m c sl b hsl hstop hs hv ht hp v m' w
    have hcore (d : Nat) : m'.core d = (m.onSlot c sl Slot.afterStop).core d :=
      m.core_runBundle_stop c sl b d hsl hstop hs hv ht hp
    have hself : m'.core c = (m.core c).onSlot sl Slot.afterStop := by
      rw [hcore, Mach.onSlot_eq, Mach.core_onCore_self]
    have hslot : w = v.afterStop := by
      unfold w
      rw [hself, Core.slot_onSlot_self _ _ _ hsl]
    rw [hslot, hself]
    refine ⟨rfl, rfl, rfl, rfl, rfl, rfl, fun d hd => ?_⟩
    rw [hcore, Mach.onSlot_eq, Mach.core_onCore_ne _ _ hd]

end Sys2Proof.Machine
end

section
/-! PROOF. The power states of a core and the waking of its slots (R60, R62, R65, R69, R357, R362, R363). -/

namespace Sys2Proof.Machine

open Sys2Proof

/-! ## What the rows run -/

theorem exec_timerExpiry (c : CoreIx) (sl : SlotIx) (s : State) :
    exec (.timerExpiry c sl) s = .next (s.to (timerExpiryAt c sl s.m)) := rfl
theorem exec_commitWindowEnd (c : CoreIx) (s : State) :
    exec (.commitWindowEnd c) s = .next (s.to (commitWindowEndAt c s.m)) := rfl
theorem exec_slotWake (c : CoreIx) (sl : SlotIx) (s : State) :
    exec (.slotWake c sl) s = .next (s.to (slotWakeAt c sl s.m)) := rfl
theorem exec_slotWakeReturn (c : CoreIx) (sl : SlotIx) (s : State) :
    exec (.slotWakeReturn c sl) s = .next (s.to (slotWakeReturnAt c sl s.m)) := rfl
theorem exec_slotQuiesce (c : CoreIx) (sl : SlotIx) (s : State) :
    exec (.slotQuiesce c sl) s = .next (s.to (slotQuiesceAt c sl s.m)) := rfl
theorem exec_slotResume (c : CoreIx) (sl : SlotIx) (s : State) :
    exec (.slotResume c sl) s = .next (s.to (slotResumeAt c sl s.m)) := rfl

/-! ## Timers (R69) -/

/-- A core at which the timer of a slot has expired. -/
def Core.timerSet (k : Core) (s cc : Nat) : Core :=
  ({ k with pwr := { k.pwr with edges := k.pwr.edges.filter fun e => e != (s, 2) } } : Core).onSlot s fun v =>
    { v.pend 2 cc with run := { v.run with due := false } }

theorem timerExpiryAt_due (c s : Nat) (m : Mach) (h : ((m.core c).slot s).run.due = true) :
    timerExpiryAt c s m = m.onCore c fun k => k.timerSet s m.cc := by
  unfold timerExpiryAt
  exact m.when_pos _ _ h

theorem Core.slot_timerSet_self (k : Core) (s cc : Nat) (h : s < 4) :
    (k.timerSet s cc).slot s = { (k.slot s).pend 2 cc with run := { (k.slot s).run with due := false } } :=
  Core.slot_onSlot_self _ s _ h

theorem Core.slot_timerSet_ne (k : Core) (cc : Nat) {s i : Nat} (h : i ≠ s) : (k.timerSet s cc).slot i = k.slot i :=
  Core.slot_onSlot_ne _ _ h

/-! ## Commit windows (R362, R363) -/

/-- Whether a level-selected source of a PARKED slot is pending. -/
def Core.levelPends (k : Core) : Bool :=
  (List.range 4).any fun i => (k.slot i).ctl.st == .parked && (k.wakeNow i &&& ~~~ (k.slot i).edgeSel) != 0

/-- A core whose drop a level has cancelled. -/
def Core.bounced (k : Core) (cc : Nat) : Core :=
  let k := [0, 1, 2, 3].foldl (Core.bounceSlot cc) k
  { k with pwr := { k.pwr with park := none, gated := false, cntBounce := inc64 k.pwr.cntBounce } }

/-- A core that drops at the end of its commit window. -/
def Core.windowDrop (k : Core) : Core :=
  let lost := k.windowEdges
  let k := k.dropTo k.dropDepth
  let lending := if k.pwr.logic == .on then k.pwr.lending else !k.pwr.lendDis
  { k with pwr := { k.pwr with park := none, flitWake := none, lending := lending, edges := k.pwr.edges ++ lost,
                               cntEdgelost := inc64 k.pwr.cntEdgelost lost.length } }

theorem commitWindowEndAt_due (c p : Nat) (m : Mach) (hp : (m.core c).pwr.park = some p) (hcc : p + 4 ≤ m.cc)
    (hon : (m.core c).pwr.logic = .on) (hdrop : (m.core c).dropBase m.cc = true) :
    commitWindowEndAt c m = m.onCore c fun k => if k.levelPends then k.bounced m.cc else k.windowDrop := by
  unfold commitWindowEndAt
  exact m.when_pos _ _ (by simp [hp, hcc, hon, hdrop])

/-- A wake at the end of the window changes slots alone. -/
theorem Core.bounceSlot_slots (cc : Nat) (k : Core) (s : Nat) : ∃ v, Core.bounceSlot cc k s = { k with slots := v } := by
  unfold Core.bounceSlot
  extract_lets v
  split
  · exact ⟨_, rfl⟩
  · exact ⟨k.slots, rfl⟩

theorem Core.bounceSlots_slots (cc : Nat) (l : List Nat) (k : Core) :
    ∃ v, l.foldl (Core.bounceSlot cc) k = { k with slots := v } := by
  induction l generalizing k with
  | nil => exact ⟨k.slots, rfl⟩
  | cons s l ih =>
    obtain ⟨v, hv⟩ := k.bounceSlot_slots cc s
    obtain ⟨v', hv'⟩ := ih { k with slots := v }
    exact ⟨v', by rw [List.foldl_cons, hv, hv']⟩

theorem Core.bounced_eq (k : Core) (cc : Nat) : ∃ v, k.bounced cc = { k with
    slots := v, pwr := { k.pwr with park := none, gated := false, cntBounce := inc64 k.pwr.cntBounce } } := by
  obtain ⟨v, hv⟩ := Core.bounceSlots_slots cc [0, 1, 2, 3] k
  unfold Core.bounced
  rw [hv]
  exact ⟨v, rfl⟩

/-- What a drop leaves of the power state, by its depth (R357). -/
theorem Core.dropTo_pwr (k : Core) (depth : Nat) (hon : k.pwr.logic = .on) :
    (k.dropTo depth).pwr.gated = true ∧ (k.dropTo depth).pwr.logic = (if depth = 0 then .on else .ret) ∧
    (k.dropTo depth).pwr.cntEdgelost = k.pwr.cntEdgelost := by
  unfold Core.dropTo
  split
  · exact ⟨rfl, hon, rfl⟩
  · exact ⟨rfl, rfl, rfl⟩

theorem Core.dropTo_memories (k : Core) (depth : Nat) : (k.dropTo depth).sram = k.sram ∧ (k.dropTo depth).ub = k.ub := by
  unfold Core.dropTo
  split <;> exact ⟨rfl, rfl⟩

/-- At its end the commit window is over. -/
theorem Core.windowEnd_park (k : Core) (cc : Nat) (b : Bool) :
    (if b then k.bounced cc else k.windowDrop).pwr.park = none := by
  cases b <;> rfl

/-- The memories of a core at the end of its commit window. -/
theorem Core.windowEnd_memories (k : Core) (cc : Nat) (b : Bool) :
    (if b then k.bounced cc else k.windowDrop).sram = k.sram ∧ (if b then k.bounced cc else k.windowDrop).ub = k.ub := by
  cases b
  · exact k.dropTo_memories k.dropDepth
  · obtain ⟨v, hv⟩ := k.bounced_eq cc
    rw [if_pos rfl, hv]
    exact ⟨rfl, rfl⟩

/-- Settles O11: the timer's row, and the two ends of a commit window. -/
theorem timersAndCommitWindows : Obligations.TimersAndCommitWindows := by
  unfold Obligations.TimersAndCommitWindows
  refine ⟨?timer, ?window⟩
  case timer =>
    intro s c sl hdue
    have hexec := exec_timerExpiry c sl s
    rw [timerExpiryAt_due c sl s.m hdue] at hexec
    have hself := (s.m.core c).slot_timerSet_self sl s.m.cc sl.isLt
    refine ⟨_, hexec, rfl, ?_, ?_, fun i hi => ?_,
      fun d hd => s.core_to_onCore_same _ (Fin.val_ne_of_ne hd), fun a => ?_⟩
    · rw [State.core_to_onCore, Core.slot_canon, hself]
      rfl
    · rw [State.core_to_onCore, Core.slot_canon, hself]
      rfl
    · rw [State.core_to_onCore, Core.slot_canon, Core.slot_timerSet_ne _ _ (Fin.val_ne_of_ne hi)]
    · rw [State.core_to_onCore, Core.canon_sramByte, Core.canon_ubByte]
      exact ⟨rfl, rfl⟩
  case window =>
    intro s c p k level hp hcc hon hdrop
    have hlevel : level = k.levelPends := rfl
    have hexec := exec_commitWindowEnd c s
    rw [commitWindowEndAt_due c p s.m hp hcc hon hdrop] at hexec
    refine ⟨_, hexec, rfl, ?_⟩
    rw [State.core_to_onCore, Core.canon_pwr, hlevel]
    obtain ⟨hsram, hub⟩ := k.windowEnd_memories s.m.cc k.levelPends
    refine ⟨?_, fun h => ?_, fun h => ?_, fun a => ?_⟩
    · exact k.windowEnd_park s.m.cc k.levelPends
    · obtain ⟨v, hv⟩ := k.bounced_eq s.m.cc
      rw [h, if_pos rfl, hv]
      exact ⟨hon, rfl, rfl⟩
    · obtain ⟨hgated, hlogic, hlost⟩ := k.dropTo_pwr k.dropDepth hon
      rw [h]
      exact ⟨congrArg (inc64 · k.windowEdges.length) hlost, hgated, hlogic⟩
    · rw [Core.canon_sramByte, Core.canon_ubByte, hsram, hub]
      exact ⟨rfl, rfl⟩

/-! ## Waking (R62, R357) -/

/-- A core without the lost edges of a slot (R363). -/
def Core.forgetEdges (k : Core) (s : Nat) : Core :=
  { k with pwr := { k.pwr with edges := k.pwr.edges.filter fun e => e.1 != s } }

/-- A number counted where a condition holds. -/
theorem mul_b2n (n : Nat) (b : Bool) : n * b2n b = if b = true then n else 0 := by
  cases b
  · exact Nat.mul_zero n
  · exact Nat.mul_one n

theorem wakeSlot_ctl (v : Slot) (sources : BitVec 4) (aborted : Bool) (cc : Nat) : (wakeSlot v sources aborted cc).ctl =
    { v.ctl with st := .running, wakeCause := BitVec.ofNat 6 (sources.toNat + 16 * b2n aborted) } := rfl

theorem wakeSlot_arch (v : Slot) (sources : BitVec 4) (aborted : Bool) (cc : Nat) :
    (wakeSlot v sources aborted cc).arch = v.arch := rfl

theorem Core.slot_forgetEdges (k : Core) (s i : Nat) : (k.forgetEdges s).slot i = k.slot i := rfl

/-- Where the clocks run and no flit has woken the core, an enabled source that is pending wakes the slot at once. -/
theorem slotWakeAt_running (c s : Nat) (m : Mach) (hst : ((m.core c).slot s).ctl.st = .parked)
    (hat : ((m.core c).slot s).run.wakeAt = none) (hnow : (m.core c).wakeNow s ≠ 0) (hwin : (m.core c).inWindow m.cc = false)
    (hstop : (m.core c).pwr.stopped = false) (hclk : (m.core c).clocksRun m.cc = true)
    (hflit : (m.core c).pwr.flitWake = none) :
    slotWakeAt c s m = m.onCore c fun k =>
      (k.forgetEdges s).onSlot s fun v => wakeSlot v ((m.core c).wakeNow s) false m.cc := by
  unfold slotWakeAt
  rw [m.when_pos _ _ (by simpa [hst, hat, hwin, hstop, hclk, hflit] using hnow)]
  unfold Mach.onCore
  exact congrArg (m.setCore c) (if_pos hclk)

/-- Where they do not run, a source that no commit window has lost starts the wake. -/
theorem slotWakeAt_stopped (c s : Nat) (m : Mach) (hst : ((m.core c).slot s).ctl.st = .parked)
    (hat : ((m.core c).slot s).run.wakeAt = none) (hnow : (m.core c).wakeNow s &&& ~~~ (m.core c).lostEdges s ≠ 0)
    (hwin : (m.core c).inWindow m.cc = false) (hstop : (m.core c).pwr.stopped = false)
    (hclk : (m.core c).clocksRun m.cc = false) :
    slotWakeAt c s m = m.onCore c fun k => (k.forgetEdges s).onSlot s fun v =>
      { v with run := { v.run with wakeAt := some (m.cc + (m.core c).wakeTime - 1), wakeSrc := (m.core c).wakeNow s } } := by
  unfold slotWakeAt
  rw [m.when_pos _ _ (by simpa [hst, hat, hwin, hstop, hclk] using hnow)]
  unfold Mach.onCore
  exact congrArg (m.setCore c) (if_neg (Bool.eq_false_iff.mp hclk))

/-- A core at the end of a slot's wake time: its clocks run. -/
def Core.wakeEnd (k : Core) (cc : Nat) : Core :=
  let k := if k.clocksRun cc then k else k.powerUp (cc + 1)
  { k with pwr := { k.pwr with flitWake := none } }

theorem Core.slot_wakeEnd (k : Core) (cc i : Nat) : (k.wakeEnd cc).slot i = k.slot i := by
  unfold Core.wakeEnd
  split <;> rfl

/-- Where the clocks did not run, CORE_LOGIC and the banks are ON (R357). -/
theorem Core.wakeEnd_pwr (k : Core) (cc : Nat) (h : k.clocksRun cc = false) : (k.wakeEnd cc).pwr.logic = .on ∧
    (k.wakeEnd cc).pwr.gated = false ∧ (k.wakeEnd cc).pwr.banks = .replicate 6 .on := by
  unfold Core.wakeEnd
  rw [if_neg (Bool.eq_false_iff.mp h)]
  exact ⟨rfl, rfl, rfl⟩

/-- A slot whose wake time has passed, its cause the sources of the wake event. -/
def Slot.wakeReturn (v : Slot) (cc : Nat) : Slot :=
  wakeSlot { v with run := { v.run with aborted := false } } v.run.wakeSrc v.run.aborted cc

theorem slotWakeReturnAt_due (c s w : Nat) (m : Mach) (hst : ((m.core c).slot s).ctl.st = .parked)
    (hat : ((m.core c).slot s).run.wakeAt = some w) (hcc : w ≤ m.cc) :
    slotWakeReturnAt c s m = m.onCore c fun k => (k.wakeEnd m.cc).onSlot s fun v => v.wakeReturn m.cc := by
  unfold slotWakeReturnAt
  exact m.when_pos _ _ (by simp [hst, hat, hcc])

/-- The wake time by the power state (R357). -/
theorem Core.wakeTime_eq (k : Core) : k.wakeTime =
    (if k.pwr.banks.toList.any (fun b => b != .on) then 1200 else if k.pwr.logic = .on then 4 else 120) +
    (if k.pwr.fsWake = true then 600 else 0) := by
  simp only [Core.wakeTime, beq_iff_eq]

/-- Settles O12: a wake at once, the start of a wake, its end, and its length. -/
theorem parkedSlotsWake : Obligations.ParkedSlotsWake := by
  unfold Obligations.ParkedSlotsWake
  refine ⟨?atOnce, ?start, ?finish, Core.wakeTime_eq⟩
  case atOnce =>
    intro s c sl k hst hat hnow hwin hstop hclk hflit
    have hexec := exec_slotWake c sl s
    rw [slotWakeAt_running c sl s.m hst hat hnow hwin hstop hclk hflit] at hexec
    refine ⟨_, hexec, rfl, ?_⟩
    rw [State.core_to_onCore, Core.slot_canon, Core.slot_onSlot_self _ _ _ sl.isLt, wakeSlot_ctl, wakeSlot_arch,
      Core.slot_forgetEdges]
    refine ⟨rfl, rfl, fun i hi => ?_, fun a => ?_⟩
    · rw [Core.slot_canon, Core.slot_onSlot_ne _ _ (Fin.val_ne_of_ne hi), Core.slot_forgetEdges]
    · rw [Core.canon_sramByte, Core.canon_ubByte]
      exact ⟨rfl, rfl⟩
  case start =>
    intro s c sl k hst hat hnow hwin hstop hclk
    have hexec := exec_slotWake c sl s
    rw [slotWakeAt_stopped c sl s.m hst hat hnow hwin hstop hclk] at hexec
    refine ⟨_, hexec, rfl, ?_⟩
    rw [State.core_to_onCore, Core.slot_canon, Core.slot_onSlot_self _ _ _ sl.isLt]
    exact ⟨rfl, rfl⟩
  case finish =>
    intro s c sl w k hst hat hcc
    have hexec := exec_slotWakeReturn c sl s
    rw [slotWakeReturnAt_due c sl w s.m hst hat hcc] at hexec
    refine ⟨_, hexec, rfl, ?_⟩
    rw [State.core_to_onCore, Core.slot_canon, Core.canon_pwr, Core.onSlot_pwr, Core.slot_onSlot_self _ _ _ sl.isLt,
      Core.slot_wakeEnd, Slot.wakeReturn, wakeSlot_ctl, wakeSlot_arch]
    refine ⟨rfl, rfl, ?_, k.wakeEnd_pwr s.m.cc⟩
    rw [mul_b2n]

/-! ## Quiescing and resuming (R60, R65) -/

/-- Where the core's field is in no committed sleep, quiescing wakes no field. -/
theorem slotQuiesceAt_awake (c s : Nat) (m : Mach) (h : (m.field (fieldOf c)).sleep ≠ .committed) :
    slotQuiesceAt c s m = m.onCore c fun k => k.onSlot s quiesceSlot := by
  unfold slotQuiesceAt Mach.wakeField
  rw [if_neg h, Mach.onSlot_eq]

/-- A slot that is neither EMPTY nor QUIESCED becomes QUIESCED and keeps the state it had. -/
theorem quiesceSlot_occupied (v : Slot) (he : v.ctl.st ≠ .empty) (hq : v.ctl.st ≠ .quiesced) :
    quiesceSlot v = { v with ctl := { v.ctl with st := .quiesced, block := 10, ready := false },
                             run := { v.run with held := some v.ctl.st, heldFault := false, wakeAt := none },
                             plane := v.plane.map fun p => { p with active := true } } := by
  unfold quiesceSlot
  split
  next h => exact absurd h he
  next h => exact absurd h hq
  next => rfl

/-- A quiesced slot resumed to the state that it holds, before any wake. -/
def Slot.resumed (v : Slot) (st : SlotSt) : Slot :=
  { v with ctl := { v.ctl with st := st }, run := { v.run with held := none, heldFault := false },
           plane := v.plane.map fun p => { p with active := true } }

/-- A quiesced slot resumed: where it was PARKED and an enabled source is pending, awake. -/
def Slot.resumedTo (v : Slot) (st : SlotSt) (now : BitVec 4) (cc : Nat) : Slot :=
  if st = .parked && now != 0 then wakeSlot (v.resumed st) now false cc else v.resumed st

theorem Slot.resumedTo_held (v : Slot) (st : SlotSt) (now : BitVec 4) (cc : Nat) (h : st = .parked → now = 0) :
    v.resumedTo st now cc = v.resumed st := by
  unfold Slot.resumedTo
  refine if_neg fun hp => ?_
  obtain ⟨hst, hnow⟩ := Bool.and_eq_true_iff.mp hp
  exact bne_iff_ne.mp hnow (h (of_decide_eq_true hst))

theorem Slot.resumedTo_woken (v : Slot) (now : BitVec 4) (cc : Nat) (h : now ≠ 0) :
    v.resumedTo .parked now cc = wakeSlot (v.resumed .parked) now false cc :=
  if_pos (bne_iff_ne.mpr h)

/-- What a QUIESCED slot is once it is resumed. -/
theorem Core.slot_resumeSlot (k : Core) (cc s : Nat) (st : SlotSt) (h : s < 4) (hq : (k.slot s).ctl.st = .quiesced)
    (hheld : (k.slot s).run.held = some st) :
    (resumeSlot cc k s).slot s = (k.slot s).resumedTo st (k.wakeNow s) cc := by
  have hslots : (resumeSlot cc k s).slots = (k.setSlot s ((k.slot s).resumedTo st (k.wakeNow s) cc)).slots := by
    unfold resumeSlot
    rw [if_pos hq, hheld]
    exact (apply_ite Core.slots _ _ _).trans (ite_self _)
  calc (resumeSlot cc k s).slot s
      = (k.setSlot s ((k.slot s).resumedTo st (k.wakeNow s) cc)).slot s := congrArg (vget · s) hslots
    _ = (k.slot s).resumedTo st (k.wakeNow s) cc := k.slot_setSlot_self s _ h

/-- Settles O13: a slot quiesced, and a quiesced slot resumed as it was held or awake. -/
theorem quiesceAndResume : Obligations.QuiesceAndResume := by
  unfold Obligations.QuiesceAndResume
  refine ⟨?quiesce, ?resume, ?wake⟩
  case quiesce =>
    intro s c sl hsleep he hq
    have hexec := exec_slotQuiesce c sl s
    rw [slotQuiesceAt_awake c sl s.m hsleep] at hexec
    refine ⟨_, hexec, rfl, ?_⟩
    have hslot := (s.m.core c).slot_onSlot_self sl quiesceSlot sl.isLt
    rw [quiesceSlot_occupied _ he hq] at hslot
    rw [State.core_to_onCore, Core.slot_canon, hslot]
    exact ⟨rfl, rfl, rfl, rfl, fun i hi => Core.slot_onSlot_ne _ _ (Fin.val_ne_of_ne hi)⟩
  case resume =>
    intro s c sl st hq hheld hnow
    refine ⟨_, exec_slotResume c sl s, rfl, ?_⟩
    rw [slotResumeAt, State.core_to_onCore, Core.slot_canon, Core.slot_resumeSlot _ _ _ st sl.isLt hq hheld,
      Slot.resumedTo_held _ _ _ _ hnow]
    exact ⟨rfl, rfl⟩
  case wake =>
    intro s c sl hq hheld hnow
    refine ⟨_, exec_slotResume c sl s, rfl, ?_⟩
    rw [slotResumeAt, State.core_to_onCore, Core.slot_canon, Core.slot_resumeSlot _ _ _ .parked sl.isLt hq hheld,
      Slot.resumedTo_woken _ _ _ hnow]
    exact ⟨rfl, rfl⟩

end Sys2Proof.Machine
end

section
/-! PROOF. Responses at the core that asked (R59, R85, R163, R179, R181). -/

namespace Sys2Proof.Machine

open Sys2Proof

/-! ## What the rows run -/

theorem exec_meshData (c : CoreIx) (ch : ChanIx) (s : State) :
    exec (.meshData c ch) s = .next (s.to (meshDataAt c ch s.m)) := rfl
theorem exec_meshAck (c : CoreIx) (s : State) : exec (.meshAck c) s = .next (s.to (meshAckAt c s.m)) := rfl
theorem exec_meshNote (c : CoreIx) (s : State) : exec (.meshNote c) s = .next (s.to (meshNoteAt c s.m)) := rfl

/-! ## Messages taken from a local output -/

/-- Taking a message changes the router alone. -/
theorem Core.loDrop_router (k : Core) (key : Nat) : ∃ r, k.loDrop key = { k with router := r } := by
  unfold Core.loDrop
  extract_lets hs k'
  split <;> exact ⟨_, rfl⟩

@[simp] theorem Core.slot_loDrop (k : Core) (key i : Nat) : (k.loDrop key).slot i = k.slot i := by
  obtain ⟨r, h⟩ := k.loDrop_router key
  rw [h]
  rfl
@[simp] theorem Core.loDrop_sram (k : Core) (key : Nat) : (k.loDrop key).sram = k.sram := by
  obtain ⟨r, h⟩ := k.loDrop_router key
  rw [h]
@[simp] theorem Core.loDrop_ub (k : Core) (key : Nat) : (k.loDrop key).ub = k.ub := by
  obtain ⟨r, h⟩ := k.loDrop_router key
  rw [h]

/-! ## Loads (R59, R181) -/

/-- A slot with a read ID free again. -/
def Slot.freeRid (v : Slot) (rid : Nat) : Slot := { v with run := { v.run with rids := v.run.rids.filter (· != rid) } }

/-- A slot without a pending access: only the list of those is another. -/
theorem dropAcc_accs (v : Slot) (p : PendAcc → Bool) :
    ∃ l, dropAcc v p = { v with run := { v.run with accs := l } } := by
  unfold dropAcc
  split
  · exact ⟨_, rfl⟩
  · exact ⟨v.run.accs, rfl⟩

theorem deliver_arch (v : Slot) (rd : Nat) (x : BitVec 64) (cc : Nat) :
    (deliver v rd x cc).arch = if rd < 32 then writeS v.arch rd x else v.arch := by
  unfold deliver
  split <;> rfl

/-- A delivery leaves the control registers and the read IDs. -/
theorem deliver_rest (v : Slot) (rd : Nat) (x : BitVec 64) (cc : Nat) :
    (deliver v rd x cc).ctl = v.ctl ∧ (deliver v rd x cc).run.rids = v.run.rids := by
  unfold deliver
  split <;> exact ⟨rfl, rfl⟩

/-- A slot to which the value of a load has come. -/
def Slot.loaded (v : Slot) (rid rd : Nat) (x : BitVec 64) (cc : Nat) : Slot :=
  deliver (dropAcc (v.freeRid rid) fun a => a.rid == some rid) rd x cc

theorem Slot.loaded_arch (v : Slot) (rid rd : Nat) (x : BitVec 64) (cc : Nat) :
    (v.loaded rid rd x cc).arch = if rd < 32 then writeS v.arch rd x else v.arch := by
  obtain ⟨l, hl⟩ := dropAcc_accs (v.freeRid rid) fun a => a.rid == some rid
  rw [Slot.loaded, deliver_arch, hl]
  rfl

theorem Slot.loaded_ctl (v : Slot) (rid rd : Nat) (x : BitVec 64) (cc : Nat) : (v.loaded rid rd x cc).ctl = v.ctl := by
  obtain ⟨l, hl⟩ := dropAcc_accs (v.freeRid rid) fun a => a.rid == some rid
  rw [Slot.loaded, (deliver_rest _ rd x cc).1, hl]
  rfl

/-- Its read ID is free. -/
theorem Slot.loaded_rid_free (v : Slot) (rid rd : Nat) (x : BitVec 64) (cc : Nat) :
    rid ∉ (v.loaded rid rd x cc).run.rids := by
  obtain ⟨l, hl⟩ := dropAcc_accs (v.freeRid rid) fun a => a.rid == some rid
  have hrids : (v.loaded rid rd x cc).run.rids = v.run.rids.filter (· != rid) := by
    rw [Slot.loaded, (deliver_rest _ rd x cc).2, hl]
    rfl
  rw [hrids, List.mem_filter]
  exact fun h => bne_iff_ne.mp h.2 rfl

/-- DATA with no error reaches the register of the load that waits for it. -/
theorem Mach.dataLoad_good (m : Mach) (c s rid : Nat) (f : Flit) (a : PendAcc) (herr : f.err = false) (hbad : f.bad = [])
    (hacc : (((m.core c).slot s).run.accs.find? fun a => a.rid == some rid) = some a) :
    m.dataLoad c s rid f = (m.onSlot c s fun v => dropAcc v fun a => a.rid == some rid).onSlot c s fun v =>
      deliver v a.rd (BitVec.ofNat 64 f.pay.toNat) m.cc := by
  unfold Mach.dataLoad
  rw [hacc]
  simp only [herr, hbad]
  rfl

/-- A load's DATA at the head of a local output goes to its load. -/
theorem meshDataAt_load (m : Mach) (c ch : Nat) (f : Flit) (fs : List Flit) (i pc : Nat) (hch : ch = 1 ∨ ch = 4)
    (hmsg : (m.core c).loMsg ch = some (f, fs)) (hop : f.op = 4) (hwhy : f.why = .store i pc) :
    meshDataAt c ch m = ((m.onCore c fun k => k.loDrop ch).onSlot c (f.tag.toNat / 64) fun v =>
      v.freeRid (f.tag.toNat % 64)).dataLoad c (f.tag.toNat / 64) (f.tag.toNat % 64) f := by
  unfold meshDataAt
  rw [List.find?_cons_of_pos]
  · simp only [hmsg, hwhy]
    rfl
  · simpa [hmsg, hop, hwhy] using hch

/-- The core after the DATA of a load: the message is taken, and the slot has the value. -/
theorem meshDataAt_loaded (m : Mach) (c ch : Nat) (f : Flit) (fs : List Flit) (i pc : Nat) (a : PendAcc)
    (hch : ch = 1 ∨ ch = 4) (hmsg : (m.core c).loMsg ch = some (f, fs)) (hop : f.op = 4) (hwhy : f.why = .store i pc)
    (herr : f.err = false) (hbad : f.bad = []) (hsl : f.tag.toNat / 64 < 4)
    (hacc : ((((m.core c).slot (f.tag.toNat / 64)).run.accs.find? fun a => a.rid == some (f.tag.toNat % 64)) = some a)) :
    (meshDataAt c ch m).core c = ((m.core c).loDrop ch).onSlot (f.tag.toNat / 64) fun v =>
      v.loaded (f.tag.toNat % 64) a.rd (BitVec.ofNat 64 f.pay.toNat) m.cc := by
  rw [meshDataAt_load m c ch f fs i pc hch hmsg hop hwhy, Mach.dataLoad_good _ _ _ _ _ a herr hbad]
  · simp only [Mach.onSlot_eq, Mach.core_onCore_self]
    rw [Core.onSlot_onSlot _ _ _ _ hsl, Core.onSlot_onSlot _ _ _ _ hsl]
    rfl
  · rw [Mach.onSlot_eq, Mach.core_onCore_self, Mach.core_onCore_self, Core.slot_onSlot_self _ _ _ hsl, Core.slot_loDrop]
    exact hacc

/-! ## Acknowledgements and notes (R85, R179) -/

/-- An ACK of a store with no error lowers the slot's count. -/
theorem meshAckAt_store (m : Mach) (c : Nat) (f : Flit) (fs : List Flit) (i pc : Nat)
    (hmsg : (m.core c).loMsg 1 = some (f, fs)) (hop : f.op = 5) (hwhy : f.why = .store i pc) (herr : f.err = false) :
    meshAckAt c m = (m.onCore c fun k => k.loDrop 1).onSlot c i fun v =>
      { v with run := { v.run with acks := v.run.acks - 1 } } := by
  unfold meshAckAt
  rw [List.find?_cons_of_pos]
  · simp only [hmsg, Mach.acknowledge, hwhy, herr]
    rfl
  · simp [hmsg, hop, hwhy]

/-- A NOTE is taken. -/
theorem meshNoteAt_note (m : Mach) (c : Nat) (f : Flit) (fs : List Flit) (hmsg : (m.core c).loMsg 5 = some (f, fs))
    (hop : f.op = 6) : meshNoteAt c m = m.onCore c fun k => k.loDrop 5 := by
  unfold meshNoteAt
  rw [hmsg]
  exact m.when_pos _ _ (beq_iff_eq.mpr hop)

/-- Settles O20: the load's slot after its DATA, the ACK and the NOTE. -/
theorem responsesArrive : Obligations.ResponsesArrive := by
  unfold Obligations.ResponsesArrive
  refine ⟨?data, ?ack, ?note⟩
  case data =>
    intro s c ch f fs i pc a k sl rid hch hmsg hop hwhy herr hbad hsl hacc
    have hcore := meshDataAt_loaded s.m c ch f fs i pc a hch hmsg hop hwhy herr hbad hsl hacc
    refine ⟨_, exec_meshData c ch s, rfl, ?_⟩
    rw [State.to_m, Mach.core_canon, hcore, Core.slot_canon, Core.slot_onSlot_self _ _ _ hsl, Core.slot_loDrop]
    refine ⟨Slot.loaded_arch _ _ _ _ _, Slot.loaded_rid_free _ _ _ _ _, Slot.loaded_ctl _ _ _ _ _, fun x => ?_⟩
    rw [Core.canon_sramByte, Core.canon_ubByte, Core.onSlot_sram, Core.onSlot_ub, Core.loDrop_sram, Core.loDrop_ub]
    exact ⟨rfl, rfl⟩
  case ack =>
    intro s c f fs i pc hmsg hop hwhy herr
    rw [exec_meshAck, meshAckAt_store s.m c f fs i pc hmsg hop hwhy herr]
  case note =>
    intro s c f fs hmsg hop
    rw [exec_meshNote, meshNoteAt_note s.m c f fs hmsg hop]

end Sys2Proof.Machine
end

section
/-! PROOF. Vector comparisons, minima and maxima, OVF, and NaN results (R95, R116, R117). -/

namespace Sys2Proof.Machine

open Sys2Proof

/-! ## Elements of a built image (R135) -/

theorem fld_zero_of_lt {v w : Nat} (h : v < 2 ^ w) : fld v 0 w = v := by
  rw [fld, Nat.pow_zero, Nat.div_one, Nat.mod_eq_of_lt h]

theorem fld_lt (v lo w : Nat) : fld v lo w < 2 ^ w := Nat.mod_lt _ (Nat.two_pow_pos w)

/-- An element placed above n others is element n. -/
theorem elem_add_self {img w n : Nat} (v : Nat) (himg : img < 2 ^ (w * n)) :
    elem (img + fld v 0 w * 2 ^ (w * n)) w n = fld v 0 w := by
  rw [elem, fld, Nat.add_mul_div_right _ _ (Nat.two_pow_pos _), Nat.div_eq_of_lt himg, Nat.zero_add,
    Nat.mod_eq_of_lt (fld_lt v 0 w)]

/-- What is placed above n elements leaves each of them. -/
theorem elem_add_of_lt (img v w : Nat) {i n : Nat} (hi : i < n) : elem (img + v * 2 ^ (w * n)) w i = elem img w i := by
  obtain ⟨k, rfl⟩ := Nat.exists_eq_add_of_lt hi
  have hexp : w * (i + k + 1) = w * k + w + w * i := by rw [Nat.mul_succ, Nat.mul_add, Nat.add_assoc, Nat.add_comm]
  have hpow : v * 2 ^ (w * (i + k + 1)) = v * 2 ^ (w * k) * 2 ^ w * 2 ^ (w * i) := by
    rw [hexp, Nat.pow_add, Nat.pow_add, Nat.mul_assoc, Nat.mul_assoc, Nat.mul_assoc]
  rw [elem, elem, fld, fld, hpow, Nat.add_mul_div_right _ _ (Nat.two_pow_pos _), Nat.add_mul_mod_self_right]

theorem vbuild_succ (n w rm : Nat) (lane : Nat → Nat) (f : Nat → Nat → Nat) (g : Gens) :
    vbuild (n + 1) w rm lane f g =
      ((vbuild n w rm lane f g).1 + fld (f n (drawLane rm (vbuild n w rm lane f g).2 (lane n)).1) 0 w * 2 ^ (w * n),
        (drawLane rm (vbuild n w rm lane f g).2 (lane n)).2) := by
  simp only [vbuild, List.range_succ, List.foldl_append, List.foldl_cons, List.foldl_nil]

/-- An element placed above a number of l bits lengthens it by its own width. -/
theorem add_fld_mul_lt {img l : Nat} (v w : Nat) (himg : img < 2 ^ l) : img + fld v 0 w * 2 ^ l < 2 ^ (l + w) :=
  calc img + fld v 0 w * 2 ^ l
      < 2 ^ l + fld v 0 w * 2 ^ l := Nat.add_lt_add_right himg _
    _ = (fld v 0 w + 1) * 2 ^ l := by rw [Nat.succ_mul, Nat.add_comm]
    _ ≤ 2 ^ w * 2 ^ l := Nat.mul_le_mul_right _ (fld_lt v 0 w)
    _ = 2 ^ (l + w) := by rw [Nat.pow_add, Nat.mul_comm]

theorem vbuild_lt (n w rm : Nat) (lane : Nat → Nat) (f : Nat → Nat → Nat) (g : Gens) :
    (vbuild n w rm lane f g).1 < 2 ^ (w * n) := by
  induction n with
  | zero => exact Nat.one_pos
  | succ n ih =>
    rw [vbuild_succ, Nat.mul_succ]
    exact add_fld_mul_lt _ w ih

/-- An element of a built image is the code given for it, whatever was drawn. -/
theorem elem_vbuild (n w rm : Nat) (lane : Nat → Nat) (f : Nat → Nat → Nat) (g : Gens) {i : Nat} (hi : i < n) :
    ∃ rnd, elem (vbuild n w rm lane f g).1 w i = fld (f i rnd) 0 w := by
  induction n with
  | zero => exact absurd hi (Nat.not_lt_zero i)
  | succ n ih =>
    rw [vbuild_succ]
    rcases Nat.lt_succ_iff_lt_or_eq.mp hi with hlt | rfl
    · rw [elem_add_of_lt _ _ _ hlt]
      exact ih hlt
    · exact ⟨_, elem_add_self _ (vbuild_lt _ _ _ _ _ _)⟩

/-- An image built without draws is one built with draws that no element uses. -/
theorem vbuild0_eq_vbuild (n w : Nat) (f : Nat → Nat) (g : Gens) : vbuild0 n w f = (vbuild n w 0 id (fun i _ => f i) g).1 := by
  induction n with
  | zero => rfl
  | succ n ih =>
    rw [vbuild_succ, ← ih]
    simp only [vbuild0, List.range_succ, List.foldl_append, List.foldl_cons, List.foldl_nil]

theorem elem_vbuild0 (n w : Nat) (f : Nat → Nat) {i : Nat} (hi : i < n) : elem (vbuild0 n w f) w i = fld (f i) 0 w := by
  rw [vbuild0_eq_vbuild n w f default]
  obtain ⟨_, h⟩ := elem_vbuild n w 0 id (fun i _ => f i) default hi
  exact h

/-! ## What a V part writes in an element (R87) -/

/-- VADD, VSUB and VMUL in an integer format. -/
theorem elem_vcompute_int (subn : Bool) (w a b c a1 b1 x : Nat) (g : Gens) {i : Nat} (hint : fmtIsInt (vFmt w) = true)
    (hop : vOp w = 1 ∨ vOp w = 2 ∨ vOp w = 3) (hi : i < fmtCount (vFmt w)) :
    elem (vcompute subn w a b c a1 b1 x g).1 (fmtWidth (vFmt w)) i =
      fld (intElem (vOp w) (vFmt w) (vOvf w) (elem a (fmtWidth (vFmt w)) i) (elem b (fmtWidth (vFmt w)) i)) 0
        (fmtWidth (vFmt w)) := by
  rcases hop with h | h | h <;> simp only [vcompute, h, hint, if_true] <;> exact elem_vbuild0 _ _ _ hi

/-- VMIN and VMAX in a floating-point format. -/
theorem elem_vcompute_minmax (subn : Bool) (w a b c a1 b1 x : Nat) (g : Gens) {i : Nat} (hflt : fmtIsInt (vFmt w) = false)
    (hop : vOp w = 5 ∨ vOp w = 6) (hi : i < fmtCount (vFmt w)) :
    ∃ rnd, elem (vcompute subn w a b c a1 b1 x g).1 (fmtWidth (vFmt w)) i =
      fld (floatElem (vOp w) (vFmt w) (vRm w) rnd subn (elem a (fmtWidth (vFmt w)) i) (elem b (fmtWidth (vFmt w)) i)) 0
        (fmtWidth (vFmt w)) := by
  rcases hop with h | h <;> simp only [vcompute, h, hflt, Bool.false_eq_true, if_false] <;> exact elem_vbuild _ _ _ _ _ _ hi

/-- VCMP: all ones where the relation holds, and 0 elsewhere. -/
theorem elem_vcompute_cmp (subn : Bool) (w a b c a1 b1 x : Nat) (g : Gens) {i : Nat} (hop : vOp w = 7)
    (hi : i < fmtCount (vFmt w)) :
    elem (vcompute subn w a b c a1 b1 x g).1 (fmtWidth (vFmt w)) i =
      if vrel (vSrc3 w / 8) (vFmt w) (elem a (fmtWidth (vFmt w)) i) (elem b (fmtWidth (vFmt w)) i) = true
      then 2 ^ fmtWidth (vFmt w) - 1 else 0 := by
  simp only [vcompute, hop]
  rw [elem_vbuild0 _ _ _ hi, fld_zero_of_lt]
  have hpos := Nat.two_pow_pos (fmtWidth (vFmt w))
  split <;> omega

/-! ## NaN (R95, R117) -/

@[simp] theorem fadd_nan_left (rm : Nat) (v : FVal) : fadd rm .nan v = .nan := rfl

@[simp] theorem fadd_nan_right (rm : Nat) (v : FVal) : fadd rm v .nan = .nan := by cases v <;> rfl

@[simp] theorem fmul_nan_left (v : FVal) : fmul .nan v = .nan := rfl

@[simp] theorem fmul_nan_right (v : FVal) : fmul v .nan = .nan := by cases v <;> rfl

@[simp] theorem fminmax_nan_left (isMax : Bool) (v : FVal) : fminmax isMax .nan v = .nan := rfl

@[simp] theorem fminmax_nan_right (isMax : Bool) (v : FVal) : fminmax isMax v .nan = .nan := by cases v <;> rfl

@[simp] theorem flt_nan_left (v : FVal) : flt .nan v = false := rfl

@[simp] theorem flt_nan_right (v : FVal) : flt v .nan = false := by cases v <;> rfl

@[simp] theorem feq_nan_left (v : FVal) : feq .nan v = false := rfl

@[simp] theorem feq_nan_right (v : FVal) : feq v .nan = false := by cases v <;> rfl

/-- A NaN rounds to the canonical NaN of the format. -/
theorem fround_nan {f : Nat} (hflt : fmtIsInt f = false) (rm rnd : Nat) (ovf satn subn : Bool) :
    fround f rm rnd ovf satn subn .nan = fmtNan f := by
  simp [fround, hflt]

/-- An operation with a NaN input gives the canonical NaN: each one passes the NaN on to the rounding. -/
theorem floatElem_nan {f x y : Nat} (hflt : fmtIsInt f = false) (hnan : fdecode f x = .nan ∨ fdecode f y = .nan)
    (op rm rnd : Nat) (subn : Bool) : floatElem op f rm rnd subn x y = fmtNan f := by
  unfold floatElem
  rcases hnan with h | h <;> rw [h] <;> split <;> simp [FVal.neg, fround_nan hflt]

theorem fmtWidth_pos (f : Nat) : 0 < fmtWidth f := by
  unfold fmtWidth
  split <;> decide

theorem fmtNan_lt (f : Nat) : fmtNan f < 2 ^ fmtWidth f := by
  unfold fmtNan
  split
  case h_6 => exact Nat.two_pow_pos _
  all_goals decide

/-! ## Signed zeros (R117) -/

@[simp] theorem units_zero (n : Bool) (e k : Int) : (FVal.fin n 0 e).units k = 0 := by simp [FVal.units]

@[simp] theorem flt_zeros (n n' : Bool) (e e' : Int) : flt (.fin n 0 e) (.fin n' 0 e') = false := by simp [flt]

@[simp] theorem feq_zeros (n n' : Bool) (e e' : Int) : feq (.fin n 0 e) (.fin n' 0 e') = true := by simp [feq, FVal.isNan]

/-- Of two zeros the minimum is −0 if one of them is, and the maximum only if both are. -/
theorem fminmax_zeros (isMax n n' : Bool) (e e' : Int) :
    ∃ e'', fminmax isMax (.fin n 0 e) (.fin n' 0 e') = .fin (if isMax then n && n' else n || n') 0 e'' := by
  cases isMax <;> cases n <;> simp [fminmax, FVal.isNan, FVal.negative]

theorem withSign_zero_of_true (f : Nat) : withSign f true 0 = 2 ^ (fmtWidth f - 1) := by
  simp only [withSign, b2n, if_true, Nat.zero_add, Nat.one_mul]

theorem withSign_zero_of_false (f : Nat) : withSign f false 0 = 0 := by
  simp only [withSign, b2n, Bool.false_eq_true, if_false, Nat.zero_add, Nat.zero_mul]

theorem withSign_zero_lt (f : Nat) (n : Bool) : withSign f n 0 < 2 ^ fmtWidth f := by
  cases n with
  | false =>
    rw [withSign_zero_of_false]
    exact Nat.two_pow_pos _
  | true =>
    rw [withSign_zero_of_true]
    exact Nat.pow_lt_pow_right (by decide) (Nat.sub_lt (fmtWidth_pos f) Nat.one_pos)

/-- The sign bit of a zero is its sign. -/
theorem bitOf_withSign_zero (f : Nat) (n : Bool) : bitOf (withSign f n 0) (fmtWidth f - 1) = n := by
  cases n with
  | false => rw [withSign_zero_of_false, bitOf, Nat.zero_div]; rfl
  | true => rw [withSign_zero_of_true, bitOf, Nat.div_self (Nat.two_pow_pos _)]; rfl

/-- SUBN leaves a zero as it is. -/
theorem flush_zero (f : Nat) (subn n : Bool) : flush f subn (withSign f n 0) = withSign f n 0 := by
  unfold flush
  split
  · rw [bitOf_withSign_zero]
  · rfl

/-- A zero rounds to the zero of its sign. -/
theorem fround_zero {f : Nat} (hflt : fmtIsInt f = false) (rm rnd : Nat) (ovf satn subn n : Bool) (e : Int) :
    fround f rm rnd ovf satn subn (.fin n 0 e) = withSign f n 0 := by
  simp [fround, hflt, roundFloat, flush_zero]

/-- VMIN (5) and VMAX (6) of two zeros. -/
theorem floatElem_zeros {f x y op : Nat} (hflt : fmtIsInt f = false) (hop : op = 5 ∨ op = 6) {n n' : Bool} {e e' : Int}
    (hx : fdecode f x = .fin n 0 e) (hy : fdecode f y = .fin n' 0 e') (rm rnd : Nat) (subn : Bool) :
    floatElem op f rm rnd subn x y = withSign f (if op = 5 then n || n' else n && n') 0 := by
  rcases hop with rfl | rfl
  · obtain ⟨k, hk⟩ := fminmax_zeros false n n' e e'
    simp [floatElem, hx, hy, hk, fround_zero hflt]
  · obtain ⟨k, hk⟩ := fminmax_zeros true n n' e e'
    simp [floatElem, hx, hy, hk, fround_zero hflt]

/-! ## Relations (R117) -/

/-- With a NaN input only NE (1) holds. -/
theorem vrel_nan {f x y : Nat} (hflt : fmtIsInt f = false) (hnan : fdecode f x = .nan ∨ fdecode f y = .nan) (rel : Nat) :
    vrel rel f x y = true ↔ rel = 1 := by
  unfold vrel
  rcases hnan with h | h <;> match rel with
    | 0 | 1 | 2 | r + 3 => simp [hflt, h]

/-- Two zeros are equal: EQ (0) and LE (3 and above) hold. -/
theorem vrel_zeros {f x y : Nat} (hflt : fmtIsInt f = false) {n n' : Bool} {e e' : Int} (hx : fdecode f x = .fin n 0 e)
    (hy : fdecode f y = .fin n' 0 e') (rel : Nat) : vrel rel f x y = true ↔ rel = 0 ∨ 3 ≤ rel := by
  unfold vrel
  match rel with
  | 0 | 1 | 2 | r + 3 => simp [hflt, hx, hy]

/-! ## Integers under OVF (R116, R117) -/

theorem cast_ofInt (n : Nat) (i : Int) : (ofInt n i : Int) = i % (2 ^ n : Nat) :=
  Int.toNat_of_nonneg (Int.emod_nonneg _ (Int.natCast_ne_zero.mpr (Nat.ne_of_gt (Nat.two_pow_pos n))))

theorem ofInt_lt (n : Nat) (i : Int) : ofInt n i < 2 ^ n := by
  have h := Int.emod_lt_of_pos i (Int.natCast_pos.mpr (Nat.two_pow_pos n))
  rw [← cast_ofInt] at h
  exact Int.ofNat_lt.mp h

theorem fitInt_lt (f : Nat) (ovf : Bool) (i : Int) : fitInt f ovf i < 2 ^ fmtWidth f := by
  unfold fitInt
  split <;> exact ofInt_lt _ _

theorem two_pow_fmtWidth (f : Nat) : 2 ^ fmtWidth f = 2 * 2 ^ (fmtWidth f - 1) := by
  rw [← Nat.pow_succ', Nat.succ_eq_add_one, Nat.sub_add_cancel (fmtWidth_pos f)]

/-- An integer in the format's range is read back as itself. -/
theorem intOf_ofInt {f : Nat} {i : Int} (hlo : intMin f ≤ i) (hhi : i ≤ intMax f) : intOf f (ofInt (fmtWidth f) i) = i := by
  have hcast := cast_ofInt (fmtWidth f) i
  have hpow := two_pow_fmtWidth f
  unfold intOf
  unfold intMin at hlo
  unfold intMax at hhi
  split at hlo
  case isTrue hs =>
    rw [if_pos hs] at hhi ⊢
    rw [sfld, fld_zero_of_lt (ofInt_lt _ _)]
    by_cases hneg : i < 0
    · rw [← Int.add_emod_right, Int.emod_eq_of_lt (by omega) (by omega)] at hcast
      rw [if_neg (by omega)]
      omega
    · rw [Int.emod_eq_of_lt (by omega) (by omega)] at hcast
      rw [if_pos (by omega), hcast]
  case isFalse hs =>
    rw [if_neg hs] at hhi ⊢
    rw [fld_zero_of_lt (ofInt_lt _ _), hcast, Int.emod_eq_of_lt hlo (by omega)]

theorem intMin_le_intMax (f : Nat) : intMin f ≤ intMax f := by
  have hhalf := Nat.two_pow_pos (fmtWidth f - 1)
  have hfull := Nat.two_pow_pos (fmtWidth f)
  unfold intMin intMax
  split <;> omega

/-- Without OVF a result takes the nearest end of the range. -/
theorem intOf_fitInt_saturated (f : Nat) (i : Int) : intOf f (fitInt f false i) = max (intMin f) (min (intMax f) i) := by
  have hrange := intMin_le_intMax f
  have hclamp : (if i < intMin f then intMin f else if intMax f < i then intMax f else i) =
      max (intMin f) (min (intMax f) i) := by
    split
    next => omega
    next => split <;> omega
  rw [fitInt, if_neg Bool.false_ne_true, hclamp, intOf_ofInt] <;> omega

/-- With OVF it keeps its low-order bits. -/
theorem fitInt_wrapped (f : Nat) (i : Int) : (fitInt f true i : Int) = i % (2 ^ fmtWidth f : Nat) :=
  cast_ofInt _ _

/-- VADD (1), VSUB (2) and VMUL (3) fit the exact result. -/
theorem intElem_exact {op f x y : Nat} {exact : Int}
    (h : (op = 1 ∧ exact = intOf f x + intOf f y) ∨ (op = 2 ∧ exact = intOf f x - intOf f y) ∨
      (op = 3 ∧ exact = intOf f x * intOf f y)) (ovf : Bool) : intElem op f ovf x y = fitInt f ovf exact := by
  rcases h with ⟨rfl, rfl⟩ | ⟨rfl, rfl⟩ | ⟨rfl, rfl⟩ <;> rfl

/-! ## Special values and NaNs together -/

/-- Settles O56: each instruction's element, then NaN, zeros or OVF in it; and the canonical NaN of each format. -/
theorem specialValuesAndNaNs : Obligations.SpecialValuesAndNaNs := by
  unfold Obligations.SpecialValuesAndNaNs
  refine ⟨fun subn w a b c a1 b1 x i g _ hi => ⟨fun hflt hop => ?minmax, fun hflt hop => ?cmp, fun hint exact hex => ?ovf⟩,
    ?canonical, by decide, ?nanIn, fun rm n => ?invalid⟩
  case minmax =>
    obtain ⟨rnd, hout⟩ := elem_vcompute_minmax subn w a b c a1 b1 x g hflt hop hi
    rw [hout]
    refine ⟨fun hnan => ?_, fun n n' e e' hp hq => ?_⟩
    · rw [floatElem_nan hflt hnan, fld_zero_of_lt (fmtNan_lt _)]
    · rw [floatElem_zeros hflt hop hp hq, fld_zero_of_lt (withSign_zero_lt _ _)]
  case cmp =>
    rw [elem_vcompute_cmp subn w a b c a1 b1 x g hop hi]
    exact ⟨fun hnan => by simp only [vrel_nan hflt hnan], fun n n' e e' hp hq => by simp only [vrel_zeros hflt hp hq]⟩
  case ovf =>
    have hop : vOp w = 1 ∨ vOp w = 2 ∨ vOp w = 3 := hex.imp And.left (Or.imp And.left And.left)
    rw [elem_vcompute_int subn w a b c a1 b1 x g hint hop hi, intElem_exact hex, fld_zero_of_lt (fitInt_lt _ _ _)]
    refine ⟨fun h => ?_, fun h => ?_⟩
    · rw [h, intOf_fitInt_saturated]
    · rw [h, fitInt_wrapped]
  case canonical =>
    intro f rm rnd ovf satn subn
    have hformats : ∀ f ∈ [0, 1, 4, 9, 0xA], fmtIsInt f = false ∧
        (f, fmtNan f) ∈ [(0, 0x7F), (1, 0x7F), (4, 0x7FC0), (9, 0x7E00), (0xA, 0x7FC00000)] := by decide
    by_cases hf : f ∈ [0, 1, 4, 9, 0xA]
    · obtain ⟨hflt, hmem⟩ := hformats f hf
      rw [fround_nan hflt]
      exact .inl hmem
    · exact .inr hf
  case nanIn =>
    intro f rm rnd subn x y hf hnan op _
    have hflt : ∀ f ∈ [4, 9, 0xA], fmtIsInt f = false := by decide
    exact floatElem_nan (hflt f hf) hnan op rm rnd subn
  case invalid => cases n <;> exact ⟨rfl, rfl⟩

end Sys2Proof.Machine
end

section
/-! PROOF. Tile operations that complete (R104 to R111, R126, R129 to R132): the operation at the front of the engine's list,
and what a TILE.ST does in the cycle in which its last row is due. -/

namespace Sys2Proof.Machine

open Sys2Proof

/-! ## What the rows run -/

theorem exec_tileLdComplete (c : CoreIx) (s : State) :
    exec (.tileLdComplete c) s = .next (s.to (ldComplete c s.m)) := rfl
theorem exec_tileZeroComplete (c : CoreIx) (s : State) :
    exec (.tileZeroComplete c) s = .next (s.to (zeroComplete c s.m)) := rfl
theorem exec_tileMacComplete (c : CoreIx) (s : State) :
    exec (.tileMacComplete c) s = .next (s.to (macComplete c s.m)) := rfl
theorem exec_tileStComplete (c : CoreIx) (s : State) :
    exec (.tileStComplete c) s = .next (s.to (stComplete c s.m)) := rfl

/-! ## Two changes of one core -/

theorem aset_aset {β : Type} (m : AMap β) (k : Nat) (v w : β) : aset (aset m k v) k w = aset m k w := by
  induction m with
  | nil => simp [aset]
  | cons e r ih =>
    obtain ⟨k', v'⟩ := e
    rw [aset, aset]
    split
    next => simp [aset]
    next hlt =>
      split
      next => simp [aset]
      next hne => rw [aset, if_neg hlt, if_neg hne, ih]

theorem Mach.onCore_onCore (m : Mach) (c : Nat) (f g : Core → Core) :
    (m.onCore c f).onCore c g = m.onCore c fun k => g (f k) := by
  rw [Mach.onCore, Mach.core_onCore_self]
  simp only [Mach.onCore, Mach.setCore, aset_aset]

/-- A change of a core is what it makes of that core. -/
theorem Mach.onCore_congr (m : Mach) (c : Nat) {f g : Core → Core} (h : f (m.core c) = g (m.core c)) :
    m.onCore c f = m.onCore c g := by
  rw [Mach.onCore, Mach.onCore, h]

/-! ## The engine's operations (R126, R130, R131) -/

/-- The core with its engine's operations replaced. -/
def Core.withOps (k : Core) (ops : List TileOp) : Core := { k with eng := { k.eng with ops := ops } }

@[simp] theorem Mach.ops_onCore_withOps (m : Mach) (c : Nat) (ops : List TileOp) :
    ((m.onCore c fun k => k.withOps ops).core c).eng.ops = ops := by
  rw [Mach.core_onCore_self]
  rfl

/-- The first place of a list that meets a condition is its front where the front meets it. -/
theorem find_range_front (p : TileOp → Bool) (o : TileOp) (r : List TileOp) (h : p o = true) :
    ((List.range (o :: r).length).find? fun i => p (lget (o :: r) i)) = some 0 := by
  rw [List.length_cons, List.range_succ_eq_map]
  exact List.find?_cons_of_pos h

theorem find_range_none (p : TileOp → Bool) (ops : List TileOp) (h : ∀ o ∈ ops, p o = false) :
    ((List.range ops.length).find? fun i => p (lget ops i)) = none := by
  rw [List.find?_eq_none]
  intro i hi
  have hlt := List.mem_range.mp hi
  have hget : lget ops i = ops[i] := by simp [lget, hlt]
  rw [hget, h _ (List.getElem_mem hlt)]
  exact Bool.false_ne_true

theorem Mach.doneOp_front (m : Mach) (c : Nat) (kind : TileWork → Bool) (o : TileOp) (r : List TileOp)
    (hops : (m.core c).eng.ops = o :: r) (hkind : kind o.work = true) (hdone : o.doneAt ≤ m.cc) :
    m.doneOp c kind = some (0, o) := by
  have hfind := find_range_front (fun x => kind x.work) o r hkind
  simp only [Mach.doneOp, hops, hfind]
  exact if_pos hdone

theorem Core.dropOp_front (k : Core) (o : TileOp) (r : List TileOp) (hops : k.eng.ops = o :: r) : k.dropOp 0 = k.withOps r := by
  simp [Core.dropOp, Core.withOps, hops]

/-- The weight buffer of a slot filled: its next TILE.MAC of that buffer swaps weights (R129). -/
def Core.weightsLoaded (k : Core) (s w : Nat) (buf : WBuf) : Core :=
  { (k.onSlot s fun v => { v with arch := { v.arch with wbuf := vset v.arch.wbuf w buf } }) with
    eng := { k.eng with last := if k.eng.last = some (s, w) then none else k.eng.last } }

theorem ldComplete_front (c w : Nat) (m : Mach) (o : TileOp) (buf : WBuf) (r : List TileOp)
    (hops : (m.core c).eng.ops = o :: r) (hwork : o.work = .ld w buf) (hdone : o.doneAt ≤ m.cc) :
    ldComplete c m = m.onCore c fun k => (k.withOps r).weightsLoaded o.slot w buf := by
  have hfront := m.doneOp_front c isLd o r hops (by rw [hwork]; rfl) hdone
  simp only [ldComplete, hfront, hwork]
  refine m.onCore_congr c ?_
  simp only [Core.dropOp_front _ o r hops, Core.weightsLoaded]
  by_cases hlast : (m.core c).eng.last = some (o.slot, w) <;>
    simp [Core.withOps, Core.onSlot, Core.setSlot, Core.slot, hlast]

theorem zeroComplete_front (c a n : Nat) (m : Mach) (o : TileOp) (r : List TileOp)
    (hops : (m.core c).eng.ops = o :: r) (hwork : o.work = .zero a n) (hdone : o.doneAt ≤ m.cc) :
    zeroComplete c m = m.onCore c fun k => k.withOps r := by
  have hfront := m.doneOp_front c isZero o r hops (by rw [hwork]; rfl) hdone
  simp only [zeroComplete, hfront]
  exact m.onCore_congr c (Core.dropOp_front _ o r hops)

theorem macComplete_front (c w : Nat) (m : Mach) (o : TileOp) (r : List TileOp) (buf : WBuf) (fa : BitVec 4) (sf : BitVec 2)
    (acc rows : Nat) (exact pair clr ovf subn : Bool) (stream scales : Bytes) (hops : (m.core c).eng.ops = o :: r)
    (hwork : o.work = .mac w buf fa sf acc rows exact pair clr ovf subn stream scales) (hdone : o.doneAt ≤ m.cc)
    (hsample : o.sample = false) : macComplete c m = m.onCore c fun k =>
      (k.withOps r).macRows fa.toNat buf sf.toNat exact pair clr ovf subn acc rows stream scales := by
  have hfront := m.doneOp_front c isMac o r hops (by rw [hwork]; rfl) hdone
  simp only [macComplete, hfront, hwork, hsample, Bool.false_eq_true, if_false]
  exact m.onCore_congr c (by rw [Core.dropOp_front _ o r hops])

/-! ## Every TILE.ST of a core in a cycle (R132) -/

theorem Mach.stStep_other (m : Mach) (c : Nat) (behind : Bool) (o : TileOp) (h : isSt o.work = false) :
    m.stStep c behind o = (o, false, m) := by
  unfold Mach.stStep
  cases hwork : o.work with
  | st => rw [hwork] at h; cases h
  | ld | mac | zero => rfl

theorem TileOp.stored_other (o : TileOp) (h : isSt o.work = false) : o.stored = false := by
  unfold TileOp.stored
  cases hwork : o.work with
  | st => rw [hwork] at h; cases h
  | ld | mac | zero => rfl

theorem stFold_others (c : Nat) (ops : List TileOp) (left : List (Option (Nat × BitVec 64))) (m : Mach)
    (h : ∀ o ∈ ops, isSt o.work = false) : stFold c ops left m = (ops, m) := by
  induction ops with
  | nil => rfl
  | cons o r ih =>
    obtain ⟨ho, hr⟩ := List.forall_mem_cons.mp h
    simp only [stFold, Mach.stStep_other _ _ _ o ho, Bool.false_eq_true, if_false, ih hr]

section
variable {c : Nat} {m m' : Mach} {o o' : TileOp} {r : List TileOp} {left : Bool}
  (hops : (m.core c).eng.ops = o :: r) (hr : ∀ x ∈ r, isSt x.work = false) (hstep : m.stStep c false o = (o', left, m'))
include hops hr hstep

/-- Where only the front operation can be a TILE.ST, a cycle is that one's. -/
theorem Mach.stAdvance_front : m.stAdvance c = m'.onCore c fun k => k.withOps (o' :: r) := by
  simp only [Mach.stAdvance, hops, stFold, List.contains_nil, Bool.and_false, hstep, stFold_others c r _ _ hr]
  rfl

/-- The front TILE.ST ends in a cycle in which it writes its last row or sends its last message. -/
theorem stComplete_stored (hstored : o'.stored = true) (hsample : o'.sample = false) :
    stComplete c m = m'.onCore c fun k => k.withOps r := by
  have hdrop : (m'.onCore c fun k => k.withOps (o' :: r)).onCore c (fun k => k.dropOp 0) = m'.onCore c fun k => k.withOps r := by
    rw [Mach.onCore_onCore]
    rfl
  have hfind := find_range_front TileOp.stored o' r hstored
  have hget : lget (o' :: r) 0 = o' := rfl
  simp only [stComplete, Mach.stAdvance_front hops hr hstep, Mach.ops_onCore_withOps, hfind, hget, hdrop, hsample]
  split <;> rfl

/-- Else it stays, with what is left of it. -/
theorem stComplete_left (hstored : o'.stored = false) : stComplete c m = m'.onCore c fun k => k.withOps (o' :: r) := by
  have hfind := find_range_none TileOp.stored (o' :: r)
    (List.forall_mem_cons.mpr ⟨hstored, fun x hx => x.stored_other (hr x hx)⟩)
  simp only [stComplete, Mach.stAdvance_front hops hr hstep, Mach.ops_onCore_withOps, hfind]

end

/-- From the cycle of its completion on, every row of a TILE.ST is due. -/
theorem TileOp.rowsDue_done (o : TileOp) (rows t : Nat) (h : o.doneAt ≤ t) : o.rowsDue rows t = rows :=
  Nat.min_eq_left (by omega)

/-! ## A TILE.ST to scratchpad (R132, R133, R155) -/

theorem Core.storeMem_of_remote_nil (k : Core) (space off : Nat) (b : Bytes) (h : k.remote = []) :
    k.storeMem space off b = k.writeMem space off b := by
  have hremote : (k.writeMem space off b).remote = [] := by
    unfold Core.writeMem
    split <;> exact h
  simp only [Core.storeMem, hremote, List.foldl_nil, ite_self]

/-- The rows that a TILE.ST has not written, written to scratchpad, and its scoreboard entry held to the end of the cycle. -/
def Core.rowsWritten (k : Core) (cc : Nat) (o : TileOp) (off : Nat) (rows : Bytes) : Core :=
  (k.writeMem 0 off rows).sbRelease cc (o.sb.getD k.sbNext)

/-- The rows stand from the operation's address on. -/
theorem Core.rowsWritten_byte (k : Core) (cc : Nat) (o : TileOp) (d done i : Nat) (bytes : Bytes) (hi : i < bytes.length)
    (hle : done ≤ i) : memByte (k.rowsWritten cc o (d + done) (bytes.drop done)).sram (d + i) = bytes[i] := by
  obtain ⟨j, rfl⟩ := Nat.exists_eq_add_of_le hle
  have hin : j < (bytes.drop done).length := by rw [List.length_drop]; omega
  calc memByte (memWrite k.sram (d + done) (bytes.drop done)) (d + (done + j))
      = (bytes.drop done)[j] := by rw [← Nat.add_assoc, memByte_memWrite_in _ _ _ j hin]
    _ = bytes[done + j] := List.getElem_drop

/-- Every byte beside them is as before. -/
theorem Core.rowsWritten_byte_outside (k : Core) (cc : Nat) (o : TileOp) (d done a : Nat) (bytes : Bytes)
    (hleft : done < bytes.length) (ha : a < d + done ∨ d + bytes.length ≤ a) :
    memByte (k.rowsWritten cc o (d + done) (bytes.drop done)).sram a = memByte k.sram a :=
  memByte_memWrite_outside _ _ _ (by rw [List.length_drop]; omega)

theorem Mach.stStep_scratchpad (m : Mach) (c : Nat) (o : TileOp) (rows len done d : Nat) (bytes : Bytes) (bnd : BitVec 64)
    (hwork : o.work = .st rows len bytes done (some d) bnd []) (hlen : bytes.length = rows * len) (hleft : done < bytes.length)
    (hdone : o.doneAt ≤ m.cc) (hremote : (m.core c).remote = []) :
    m.stStep c false o = ({ o with work := .st rows len bytes bytes.length (some d) bnd [] }, false,
      m.onCore c fun k => k.rowsWritten m.cc o (d + done) (bytes.drop done)) := by
  have hdue : max done (min bytes.length (o.rowsDue rows m.cc * len)) = bytes.length := by
    rw [o.rowsDue_done rows m.cc hdone, ← hlen]
    omega
  have hpart : (bytes.drop done).isEmpty = false := by simpa using hleft
  simp only [Mach.stStep, hwork, hdue, List.take_length, hpart, Bool.false_eq_true, if_false, Nat.lt_irrefl]
  congr 2
  refine m.onCore_congr c ?_
  rw [Core.storeMem_of_remote_nil _ _ _ _ hremote]
  rfl

/-! ## A TILE.ST to a send port (R132, R213) -/

theorem chunksOf_length_le (n k : Nat) (b : Bytes) (h : b.length ≤ 32 * k) : (chunksOf n b).length ≤ k := by
  induction n generalizing k b with
  | zero => exact Nat.zero_le k
  | succ n ih =>
    rw [chunksOf]
    split
    next => exact Nat.zero_le k
    next hb =>
      have hpos : 0 < b.length := by simpa [List.length_pos_iff] using hb
      obtain ⟨k, rfl⟩ : ∃ j, k = j + 1 := ⟨k - 1, by omega⟩
      exact Nat.succ_le_succ (ih k (b.drop 32) (by rw [List.length_drop]; omega))

theorem toChunks_length_pos (b : Bytes) (h : b ≠ []) : 0 < (toChunks b).length := by
  cases b with
  | nil => exact absurd rfl h
  | cons x r => exact Nat.succ_pos _

/-- Up to 256 B are one message. -/
theorem rowMsgs_one (b : Bytes) (h : b ≠ []) (hlen : b.length ≤ 256) : rowMsgs b = [toChunks b] := by
  have hpos := toChunks_length_pos b h
  have h8 : (toChunks b).length ≤ 8 := chunksOf_length_le b.length 8 b hlen
  have hrest (n : Nat) : msgsOf n [] = [] := by cases n <;> rfl
  obtain ⟨n, hn⟩ : ∃ n, (toChunks b).length = n + 1 := ⟨(toChunks b).length - 1, by omega⟩
  rw [rowMsgs, hn, msgsOf, List.take_of_length_le h8, List.drop_of_length_le h8, hrest]
  simp [← List.length_pos_iff, hpos]

section
variable (m : Mach) (c : Nat) (o : TileOp) (rows len done : Nat) (bytes : Bytes) (bnd : BitVec 64)
  (hwork : o.work = .st rows len bytes done none bnd []) (hlen : bytes.length = rows * len) (hleft : done < bytes.length)
  (hlast : bytes.length ≤ done + 256) (hdone : o.doneAt ≤ m.cc)
include hwork hlen hleft hlast hdone

/-- What is left of a TILE.ST of at most 256 B is its last message: it enters the router where it can, and else the TILE.ST is
as it was. -/
theorem Mach.stStep_lastMessage : m.stStep c false o =
    if m.canSend c ((m.core c).slot o.slot).ctl.cid.toNat bnd.toNat (max 1 (toChunks (bytes.drop done)).length) 0 then
      ({ o with work := .st rows len bytes bytes.length none bnd [] }, false,
        m.send c o.slot o.pc bnd.toNat (toChunks (bytes.drop done)))
    else (o, true, m) := by
  have hdue : min bytes.length (o.rowsDue rows m.cc * len) = bytes.length := by
    rw [o.rowsDue_done rows m.cc hdone, ← hlen, Nat.min_self]
  have hmsgs : rowMsgs (bytes.drop done) = [toChunks (bytes.drop done)] :=
    rowMsgs_one _ (by simpa using hleft) (by rw [List.length_drop]; omega)
  simp only [Mach.stStep, hwork, hdue, if_true, Nat.max_eq_right (Nat.le_of_lt hleft), List.take_length, hmsgs, sendRows,
    Bool.false_eq_true, if_false]
  split
  next => simp
  next =>
    have hsame : ({ o with work := .st rows len bytes done none bnd [] } : TileOp) = o := by rw [← hwork]
    simp [hleft, Nat.ne_of_lt hleft, hsame]

end

/-! ## Completed operations together -/

/-- Settles O8: the front operation of each kind leaves the engine with its effect; of a TILE.ST, its rows in scratchpad and the
bytes beside them, or its last message in the router or kept. -/
theorem tileOperationsComplete : Obligations.TileOperationsComplete := by
  unfold Obligations.TileOperationsComplete
  refine ⟨⟨?ld, ?zero⟩, ?mac, ?scratchpad, ?sendPort⟩
  case ld =>
    intro s c o w buf r hops hwork hdone
    rw [exec_tileLdComplete, ldComplete_front c w s.m o buf r hops hwork hdone]
    rfl
  case zero =>
    intro s c o a n r hops hwork hdone
    rw [exec_tileZeroComplete, zeroComplete_front c a n s.m o r hops hwork hdone]
    rfl
  case mac =>
    intro s c o r w buf fa sf acc rows exact pair clr ovf subn stream scales hops hwork hdone hsample
    rw [exec_tileMacComplete, macComplete_front c w s.m o r buf fa sf acc rows exact pair clr ovf subn stream scales hops hwork
      hdone hsample]
    rfl
  case scratchpad =>
    intro s c o r rows len done d bytes bnd hops hr hwork hlen hleft hdone hsample hremote
    have hstep := s.m.stStep_scratchpad c o rows len done d bytes bnd hwork hlen hleft hdone hremote
    have hexec : exec (.tileStComplete c) s = .next (s.to (s.m.onCore c fun k =>
        (k.rowsWritten s.m.cc o (d + done) (bytes.drop done)).withOps r)) := by
      rw [exec_tileStComplete, stComplete_stored hops hr hstep (by simp [TileOp.stored]) hsample,
        Mach.onCore_onCore]
    refine ⟨_, hexec, rfl, ?_⟩
    rw [State.core_to_onCore, Core.canon_slots]
    refine ⟨fun i hi hle => ?_, fun a ha => ?_, rfl⟩
    · rw [Core.canon_sramByte]
      exact Core.rowsWritten_byte _ s.m.cc o d done i bytes hi hle
    · rw [Core.canon_sramByte]
      exact Core.rowsWritten_byte_outside _ s.m.cc o d done a bytes hleft ha
  case sendPort =>
    intro s c o r rows len done bytes bnd hops hr hwork hlen hleft hlast hdone hsample
    have hstep := s.m.stStep_lastMessage c o rows len done bytes bnd hwork hlen hleft hlast hdone
    refine ⟨fun hcan => ?_, fun hcan => ?_⟩
    · rw [if_pos hcan] at hstep
      rw [exec_tileStComplete, stComplete_stored hops hr hstep (by simp [TileOp.stored]) hsample]
      rfl
    · rw [hcan, if_neg Bool.false_ne_true] at hstep
      have hkept : o.stored = false := by simp [TileOp.stored, hwork, hleft]
      have hexec : exec (.tileStComplete c) s = .next (s.to (s.m.onCore c fun k => k.withOps (o :: r))) := by
        rw [exec_tileStComplete, stComplete_left hops hr hstep hkept]
      refine ⟨_, hexec, rfl, ?_⟩
      rw [State.core_to_onCore]
      exact ⟨rfl, rfl, rfl⟩

end Sys2Proof.Machine
end

section
/-! PROOF. The mover: the granule of a granule slot, and the ends of descriptors (R56, R161, R163, R165). -/

namespace Sys2Proof.Machine

open Sys2Proof

/-! ## What the rows run -/

theorem exec_moverDescriptorComplete (c : CoreIx) (sl : SlotIx) (s : State) :
    exec (.moverDescriptorComplete c sl) s = .next (s.to (descComplete c sl s.m)) := rfl
theorem exec_moverDescriptorFault (c : CoreIx) (sl : SlotIx) (s : State) :
    exec (.moverDescriptorFault c sl) s = .next (s.to (descFault c sl s.m)) := rfl

/-! ## Granule slots (R56, R163) -/

/-- A core whose mover has begun a new round where the last one has no granule slot left. -/
def Core.inRound (k : Core) : Core := if k.mover.left = 0 then k.moverRound else k

theorem Core.slot_inRound (k : Core) (i : Nat) : k.inRound.slot i = k.slot i := by
  unfold Core.inRound
  split <;> rfl

/-- A core whose mover has given a granule slot of the cycle to a slot. -/
def Core.granuleTaken (k : Core) (s : Nat) (spare : Bool) (cc : Nat) : Core :=
  { k.inRound with
    mover := { k.inRound.mover.taken s spare with left := (k.inRound.mover.taken s spare).left - 1 }
    moverAt := some (cc, k.granulesUsed cc + 1) }

/-- Whether a core's mover has a granule slot left in a cycle: its clocks run, nothing stalls or throttles it, and fewer than two are
used. -/
def Core.moverRuns (k : Core) (cc : Nat) : Prop :=
  k.pwr.logic = .on ∧ k.pwr.gated = false ∧ k.pwr.stall = false ∧ k.pwr.stopped = false ∧ k.granulesUsed cc < 2 ∧
    cycleRemoved k.pwr cc = false

/-- The slot that the round-robin takes moves one granule of its running descriptor, where that has no data of a READ to pass on. -/
theorem granule_moves (m : Mach) (c s : Nat) (spare : Bool) (d : MvDesc) (hruns : (m.core c).moverRuns m.cc)
    (hchoose : (m.core c).inRound.mover.choose ([0, 1, 2, 3].filter fun i => m.xferReady c i || m.mvReady c i) = some (s, spare))
    (hxfer : m.xferReady c s = false) (hrun : ((m.core c).slot s).running = some d) (hstaged : d.staged = none) :
    granule c [] m = (m.setCore c ((m.core c).granuleTaken s spare m.cc)).mvMove c s d := by
  obtain ⟨hon, hgated, hstall, hstopped, hused, hremoved⟩ := hruns
  rw [← Core.slot_inRound] at hrun
  unfold granule
  rw [Mach.cellErrs_nil]
  have hgo : ((m.core c).pwr.logic != .on || (m.core c).pwr.gated || (m.core c).pwr.stall || (m.core c).pwr.stopped ||
      decide (2 ≤ (m.core c).granulesUsed m.cc) || cycleRemoved (m.core c).pwr m.cc) = false := by
    simp [hon, hgated, hstall, hstopped, hremoved, hused]
  rw [Core.inRound] at hchoose hrun
  simp only [hgo, hchoose, hxfer, hrun, hstaged]
  rfl

/-! ## Ends of descriptors (R161, R165) -/

/-- The module without the running descriptor of a slot: its scoreboard entries are free, and its context has progressed. -/
def Mach.descDone (m : Mach) (c s : Nat) (d : MvDesc) : Mach :=
  (m.onCore c fun k => (k.freeDescs m.cc [d]).onSlot s fun v =>
    { v with run := { v.run with descs := v.run.descs.drop 1 } }).progress1 ((m.core c).slot s).ctl.cid.toNat

/-- A descriptor whose scope is satisfied ends, and signals the huddle that it names once the signal can enter. -/
theorem descComplete_visible (m : Mach) (c s : Nat) (d : MvDesc) (hrun : ((m.core c).slot s).running = some d)
    (hvis : mvVisible d = true) (hq : ((m.core c).slot s).ctl.st ≠ .quiesced)
    (hsig : dHaddr d.raw = 0 ∨ m.canSig c ((m.core c).slot s).ctl.cid.toNat (dHaddr d.raw) = true) :
    descComplete c s m =
      if dHaddr d.raw = 0 then m.descDone c s d else (m.descDone c s d).hudSig c s (dHaddr d.raw) 1 true := by
  unfold descComplete
  simp only [hrun]
  exact m.when_pos _ _ (by simpa [hvis, hq] using hsig)

theorem descFault_bad (m : Mach) (c s : Nat) (d : MvDesc)
    (h : (((m.core c).slot s).run.descs.find? fun d => d.bad) = some d) :
    descFault c s m = (m.onCore c fun k => k.endDesc s d.serial m.cc).impreciseFault c s 4 0 d.pc := by
  unfold descFault
  rw [h]

/-- Settles O9: the granule of the slot taken, a descriptor that ends with and without a signal, and one that faults. -/
theorem moverRunsDescriptors : Obligations.MoverRunsDescriptors := by
  unfold Obligations.MoverRunsDescriptors
  refine ⟨?granule, ?unsignalled, ?signalled, ?fault⟩
  case granule =>
    intro s c sl spare d k k' hon hgated hstall hstopped hused hremoved hchoose hxfer hrun hstaged
    rw [exec_moverGranule, granule_moves s.m c sl spare d ⟨hon, hgated, hstall, hstopped, hused, hremoved⟩ hchoose hxfer hrun
      hstaged]
    rfl
  case unsignalled =>
    intro s c sl d v hrun hvis hq hnone
    rw [exec_moverDescriptorComplete, descComplete_visible s.m c sl d hrun hvis hq (.inl hnone), if_pos hnone]
    rfl
  case signalled =>
    intro s c sl d v hrun hvis hq hsome hsig
    rw [exec_moverDescriptorComplete, descComplete_visible s.m c sl d hrun hvis hq (.inr hsig), if_neg hsome]
    rfl
  case fault =>
    intro s c sl d hbad
    rw [exec_moverDescriptorFault, descFault_bad s.m c sl d hbad]

end Sys2Proof.Machine
end

section
/-! PROOF. The under-bank's controller and the lines of the cache (R149, R152, R266, R268). -/

namespace Sys2Proof.Machine

open Sys2Proof

/-! ## What serving an access leaves as it is (R266, R268) -/

/-- Taking tokens changes buckets alone. -/
theorem Mach.takeTok_buckets (m : Mach) (key n : Nat) : ∃ b, m.takeTok key n = { m with buckets := b } := by
  unfold Mach.takeTok
  split
  · exact ⟨_, rfl⟩
  · exact ⟨m.buckets, rfl⟩

@[simp] theorem Mach.core_takeTok (m : Mach) (key n d : Nat) : (m.takeTok key n).core d = m.core d := by
  obtain ⟨b, h⟩ := m.takeTok_buckets key n
  rw [h]
  rfl

@[simp] theorem Mach.takeTok_clk (m : Mach) (key n : Nat) : (m.takeTok key n).clk = m.clk := by
  obtain ⟨b, h⟩ := m.takeTok_buckets key n
  rw [h]

/-- A turn served at an under-bank changes the round of its controller alone. -/
theorem Mach.core_ubServed (m : Mach) (c cid n : Nat) :
    ∃ l last, (m.ubServed c cid n).core c = { m.core c with ubLeft := l, ubLast := last } := by
  unfold Mach.ubServed
  rw [Mach.core_onCore_self]
  exact ⟨_, _, rfl⟩

/-! ## LOCAL_UNDER_BANK_ACCESS (R152) -/

/-- The module once the controller has taken up an access: its token is paid, and it waits no more. -/
def Mach.ubTaken (m : Mach) (c i : Nat) (q : UbAcc) : Mach :=
  ((m.takeTok (m.ubTok c q.slot) 1).ubServed c ((m.core c).accCid q) 1).onCore c fun k =>
    ({ k with ubq := k.ubq.eraseIdx i }).touch 1 q.off m.cc

/-- The pending load of a slot that an access of the under-bank serves. -/
def Mach.ubServes (m : Mach) (c : Nat) (q : UbAcc) (a : PendAcc) : Bool :=
  a.load && a.wa.toNat == waOf 1 (m.logical c) q.off && a.rid.isNone && a.line.isNone

/-- The core after an access is taken up, but for the round of the controller and the time of the tier's last request. -/
theorem Mach.core_ubTaken (m : Mach) (c i : Nat) (q : UbAcc) : ∃ l last p, (m.ubTaken c i q).core c =
    { m.core c with ubq := (m.core c).ubq.eraseIdx i, ubLeft := l, ubLast := last, pwr := p } := by
  obtain ⟨l, last, h⟩ := (m.takeTok (m.ubTok c q.slot) 1).core_ubServed c ((m.core c).accCid q) 1
  rw [Mach.ubTaken, Mach.core_onCore_self, h, Mach.core_takeTok]
  exact ⟨l, last, _, rfl⟩

/-- Slots, memories, poison and the loads that an access serves are as they were. -/
theorem Mach.ubTaken_keeps (m : Mach) (c i : Nat) (q : UbAcc) :
    (∀ j, ((m.ubTaken c i q).core c).slot j = (m.core c).slot j) ∧
    (∀ space off n, ((m.ubTaken c i q).core c).readMem space off n = (m.core c).readMem space off n) ∧
    (∀ space off n, ((m.ubTaken c i q).core c).poisonAt space off n = (m.core c).poisonAt space off n) ∧
    (m.ubTaken c i q).ubServes c q = m.ubServes c q := by
  obtain ⟨l, last, p, h⟩ := m.core_ubTaken c i q
  unfold Mach.ubServes Mach.logical
  rw [h]
  exact ⟨fun _ => rfl, fun _ _ _ => rfl, fun _ _ _ => rfl, rfl⟩

@[simp] theorem Mach.ubTaken_clk (m : Mach) (c i : Nat) (q : UbAcc) : (m.ubTaken c i q).clk = m.clk :=
  m.takeTok_clk _ _

theorem ubAccess_store (m : Mach) (c i : Nat) (q : UbAcc) (x : BitVec 64) (hnext : m.ubNext c = some (i, q))
    (hstore : q.store = some x) :
    ubAccess c [] m = (m.ubTaken c i q).onCore c fun k => k.writeMem 1 q.off (toBytes 8 x.toNat) := by
  unfold ubAccess
  rw [Mach.cellErrs_nil]
  simp only [hnext, hstore]
  rfl

/-- A load of words that are not poisoned. -/
theorem ubAccess_load (m : Mach) (c i : Nat) (q : UbAcc) (a : PendAcc) (hnext : m.ubNext c = some (i, q))
    (hload : q.store = none) (hacc : ((m.core c).slot q.slot).run.accs.find? (m.ubServes c q) = some a)
    (hclean : (m.core c).poisonAt 1 q.off 8 = none) :
    ubAccess c [] m = (((m.ubTaken c i q).onCore c fun k => k.countRead 1 q.off 8).onSlot c q.slot fun v =>
      dropAcc v (m.ubServes c q)).onSlot c q.slot fun v =>
        deliver v a.rd (BitVec.ofNat 64 (ofBytes ((m.core c).readMem 1 q.off 8))) m.cc := by
  obtain ⟨hslot, hread, hpoison, hserves⟩ := m.ubTaken_keeps c i q
  unfold ubAccess
  extract_lets m0
  split
  next h => cases h.symm.trans hnext
  next h =>
    cases h.symm.trans hnext
    extract_lets m1
    split
    next h => cases hload.symm.trans h
    next k wa acc rd m2 _ _ =>
      have hclean' : k.poisonAt 1 q.off 8 = none := (hpoison 1 q.off 8).trans hclean
      have hfound : acc = some a := by
        rw [← hserves, ← hslot] at hacc
        exact hacc
      have hrd : rd = a.rd := congrArg (fun x : Option PendAcc => (x.map (·.rd)).getD 32) hfound
      have hm2 : m2 = ((m.ubTaken c i q).onCore c fun k => k.countRead 1 q.off 8).onSlot c q.slot fun v =>
          dropAcc v (m.ubServes c q) := by
        rw [← hserves]
        rfl
      have hcc : m2.cc = m.cc := congrArg Clock.cc (m.ubTaken_clk c i q)
      have hvalue : k.readMem 1 q.off 8 = (m.core c).readMem 1 q.off 8 := hread 1 q.off 8
      rw [hclean', hvalue, hrd, hcc, hm2]

/-- A read of a memory changes the counts of its codewords alone. -/
theorem Core.countRead_mem (k : Core) (space off n : Nat) : ∃ e, k.countRead space off n = { k with mem := e } := by
  unfold Core.countRead
  split
  · exact ⟨k.mem, rfl⟩
  · exact ⟨_, rfl⟩

/-- The core after a load of words that are not poisoned: beside the access and the slot that it serves, only the controller's
round, the time of the tier's last request and the counts of codewords are others. -/
theorem core_ubAccess_load (m : Mach) (c i : Nat) (q : UbAcc) (a : PendAcc) (hnext : m.ubNext c = some (i, q))
    (hload : q.store = none) (hacc : ((m.core c).slot q.slot).run.accs.find? (m.ubServes c q) = some a)
    (hclean : (m.core c).poisonAt 1 q.off 8 = none) : ∃ l last p e, (ubAccess c [] m).core c =
      (({ m.core c with ubq := (m.core c).ubq.eraseIdx i, ubLeft := l, ubLast := last, pwr := p, mem := e } : Core).onSlot q.slot
        fun v => dropAcc v (m.ubServes c q)).onSlot q.slot fun v =>
          deliver v a.rd (BitVec.ofNat 64 (ofBytes ((m.core c).readMem 1 q.off 8))) m.cc := by
  obtain ⟨l, last, p, htaken⟩ := m.core_ubTaken c i q
  obtain ⟨e, hcount⟩ := ((m.ubTaken c i q).core c).countRead_mem 1 q.off 8
  refine ⟨l, last, p, e, ?_⟩
  rw [ubAccess_load m c i q a hnext hload hacc hclean]
  simp only [Mach.onSlot_eq, Mach.core_onCore_self]
  rw [hcount, htaken]

/-! ## CACHE_LINE_FILL (R149) -/

/-- A line of another core whose data has come, and for which the fence lists have room. -/
theorem lineFill_other (m : Mach) (c : Nat) (f : Fill)
    (hfill : ((m.core c).fills.find? fun f => m.fillReady c f && (m.fillRoom c f.tag).1) = some f)
    (hother : m.lineOwn c f.tag = false) :
    lineFill c [] m = [0, 1, 2, 3].foldl (fun m i => m.lineServeSlot c f.tag i)
      ((m.fillRoom c f.tag).2.onCore c fun k => ({ k with fills := k.fills.filter fun x => x.tag != f.tag }).putLine
        { tag := f.tag, data := f.data, used := (m.fillRoom c f.tag).2.cc, slot := f.slot, poison := f.poison }) := by
  unfold lineFill
  rw [Mach.cellErrs_nil]
  simp only [hfill, hother]
  rfl

/-- Settles O10: a store and a load that the controller serves, and a line of another core that enters its set. -/
theorem underBankServesAndLinesFill : Obligations.UnderBankServesAndLinesFill := by
  unfold Obligations.UnderBankServesAndLinesFill
  refine ⟨⟨?store, ?load⟩, ?fill⟩
  case store =>
    intro s c i q x hnext hstore
    rw [exec_localUnderBankAccess, ubAccess_store s.m c i q x hnext hstore]
    rfl
  case load =>
    intro s c i q a hnext hload here hacc hclean
    obtain ⟨l, last, p, e, hcore⟩ := core_ubAccess_load s.m c i q a hnext hload hacc hclean
    refine ⟨_, exec_localUnderBankAccess ⟨c, []⟩ s, rfl, ?_⟩
    rw [State.to_m, Mach.core_canon, hcore]
    refine ⟨fun h4 => ?_, fun x => ?_, rfl⟩
    · rw [Core.slot_canon, Core.onSlot_onSlot _ _ _ _ h4, Core.slot_onSlot_self _ _ _ h4]
      rfl
    · rw [Core.canon_ubByte, Core.canon_sramByte]
      exact ⟨rfl, rfl⟩
  case fill =>
    intro s c f hfill hother m
    rw [exec_cacheLineFill, lineFill_other s.m c f hfill hother]

end Sys2Proof.Machine
end

section
/-! PROOF. The scrubber and memories out of canonical form (R169, log 5): what the row answers has canonical memories, whatever
those of the state before. -/

namespace Sys2Proof.Machine

open Sys2Proof

theorem exec_scrubCodeword (c : CoreIx) (t : TierIx) (found : ScrubFind) (s : State) :
    exec (.scrubCodeword c t found) s = .next (s.to (scrubCodewordAt c t found s.m)) := rfl

/-- Every scratchpad that a row answers is canonical. -/
theorem State.sram_to_wf (s : State) (m : Mach) (c : Nat) : Memory.wf ((s.to m).m.core c).sram = true := by
  rw [State.to_m, Mach.core_canon]
  exact memCanon_wf _

/-- A module with core 0 ready to be scrubbed, whose scratchpad lists a byte 0: no run reaches it, since a write of 0 lists
nothing (log 5). -/
def zeroListed : State :=
  { pending := []
    m := { cores := [(0, { sram := [(0, 0)], pwr := { bankctl := .on } })], wafer := { fp := [(0, {})] },
           fields := .replicate 56 { tiers := .replicate 2 .on } } }

/-- Refutes O52: a clean codeword leaves the core's scratchpad as it is listed, says the scrubber's clause of every state; where
that is out of canonical form (`zeroListed`), the row answers it in canonical form. The clause lacks `State.Inv`. -/
theorem not_slicesAndRepairs : ¬ Obligations.SlicesAndRepairs := by
  unfold Obligations.SlicesAndRepairs
  rintro ⟨-, -, -, hscrub, -⟩
  have hread := hscrub zeroListed 0 0 rfl rfl rfl rfl (by decide) rfl
  obtain ⟨⟨t, hexec, -, hcore, -⟩, -⟩ := hread
  have ht : t = zeroListed.to (scrubCodewordAt 0 0 .clean zeroListed.m) :=
    Host.Outcome.next.inj (hexec.symm.trans (exec_scrubCodeword 0 0 .clean zeroListed))
  have hlisted : (t.m.core 0).sram = [(0, 0)] := congrArg Core.sram hcore
  have hwf : Memory.wf [(0, 0)] = true := by
    rw [← hlisted, ht]
    exact State.sram_to_wf _ _ _
  exact absurd hwf (by decide)

end Sys2Proof.Machine
end

section
/-! PROOF. WRITE and READ requests at the core that they reach (R155, R181, R268). -/

namespace Sys2Proof.Machine

open Sys2Proof

/-! ## What the rows run -/

theorem exec_meshWrite (c : CoreIx) (ch : ChanIx) (s : State) :
    exec (.meshWrite c ch) s = .next (s.to (meshWriteAt c ch s.m)) := rfl
theorem exec_meshRead (c : CoreIx) (s : State) :
    exec (.meshRead ⟨c, []⟩) s = .next (s.to (meshReadAt c [] s.m)) := rfl

/-! ## Scratchpad among the spaces (R139, R359, R368) -/

@[simp] theorem Core.touch_scratchpad (k : Core) (off cc : Nat) : k.touch 0 off cc = k := rfl
@[simp] theorem Core.countRead_scratchpad (k : Core) (off n : Nat) : k.countRead 0 off n = k := rfl
@[simp] theorem Core.memReady_scratchpad (k : Core) (off cc : Nat) : k.memReady 0 off cc = true := rfl
@[simp] theorem Core.canServe_scratchpad (k : Core) (cc : Nat) : k.canServe 0 cc = k.clocksRun cc := Bool.false_or _

@[simp] theorem Mach.onCore_cc (m : Mach) (c : Nat) (f : Core → Core) : (m.onCore c f).cc = m.cc := rfl

/-! ## MESH_WRITE (R181, R268) -/

/-- A WRITE into scratchpad writes its parts, and is acknowledged. -/
theorem Mach.doWrite_scratchpad (m : Mach) (c : Nat) (f : Flit) (fs : List Flit) (hspace : reqSpace f = 0) :
    m.doWrite c f fs = (m.onCore c fun k =>
      (writeParts (reqOff f) fs).foldl (fun k p => k.remoteMem 0 (reqOff f + p.1) p.2) k).finish c f false := by
  simp only [Mach.doWrite, hspace, Core.touch_scratchpad]

section
variable {m : Mach} {c ch : Nat} {f : Flit} {fs : List Flit}
  (hmsg : (m.core c).loMsg ch = some (f, fs)) (hch : ch < 6) (hop : f.op = 0)
include hmsg hch hop

/-- A WRITE of an offset of the scratchpad. -/
theorem meshWriteAt_scratchpad (hspace : reqSpace f = 0) (hrun : (m.core c).clocksRun m.cc = true)
    (hans : m.canAnswer c 1 1 f = true) (hvalid : (m.core c).validOff 0 (reqOff f) (writeLen fs) = true) :
    meshWriteAt c ch m = (m.onCore c fun k => k.loDrop ch).doWrite c f fs := by
  simp [meshWriteAt, hmsg, hch, hop, hspace, hrun, hans, hvalid]

/-- A WRITE of an offset that the scratchpad does not have. -/
theorem meshWriteAt_beyond (hspace : reqSpace f = 0) (hrun : (m.core c).clocksRun m.cc = true)
    (hans : m.canAnswer c 1 1 f = true) (hbeyond : (m.core c).validOff 0 (reqOff f) (writeLen fs) = false) :
    meshWriteAt c ch m = ((m.onCore c fun k => k.loDrop ch).badRequest c).finish c f true := by
  simp [meshWriteAt, hmsg, hch, hop, hspace, hrun, hans, hbeyond]

/-- A context's WRITE to the under-bank goes to the controller. -/
theorem meshWriteAt_underBank (hspace : reqSpace f = 1) (hfw : f.fw = false)
    (hvalid : (m.core c).validOff 1 (reqOff f) (writeLen fs) = true) : meshWriteAt c ch m = m.toController c ch f fs := by
  simp [meshWriteAt, hmsg, hch, hop, hspace, hfw, hvalid]

end

/-! ## The bytes of a WRITE (R181) -/

theorem toBytes_length (n v : Nat) : (toBytes n v).length = n := by
  induction n generalizing v with
  | zero => rfl
  | succ n ih => rw [toBytes, List.length_cons, ih]

/-- Byte i of a number, little-endian. -/
theorem toBytes_getElem (n v i : Nat) (h : i < (toBytes n v).length) : (toBytes n v)[i] = BitVec.ofNat 8 (v / 256 ^ i) := by
  induction n generalizing v i with
  | zero => exact absurd h (Nat.not_lt_zero i)
  | succ n ih =>
    cases i with
    | zero => simp [toBytes]
    | succ i =>
      have hi : i < (toBytes n (v / 256)).length := by simpa [toBytes] using h
      calc (toBytes (n + 1) v)[i + 1] = (toBytes n (v / 256))[i] := rfl
        _ = BitVec.ofNat 8 (v / 256 ^ (i + 1)) := by rw [ih _ _ hi, Nat.div_div_eq_div_mul, Nat.pow_succ']

/-- The bytes that the one flit of a WRITE carries. -/
def Flit.writeBytes (f : Flit) : Bytes := (toBytes 32 f.pay.toNat).take (f.tag.toNat % 64 + 1)

theorem writeParts_one (a : Nat) (f : Flit) (htail : f.tail = true) (hbad : f.bad = []) (hlen : f.tag.toNat % 64 + 1 ≤ 32) :
    writeParts a [f] = [(0, f.writeBytes)] := by
  simp [writeParts, htail, hbad, Nat.min_eq_right hlen, Flit.writeBytes]

theorem Flit.writeBytes_length (f : Flit) (hlen : f.tag.toNat % 64 + 1 ≤ 32) : f.writeBytes.length = f.tag.toNat % 64 + 1 := by
  rw [Flit.writeBytes, List.length_take, toBytes_length, Nat.min_eq_left hlen]

theorem Flit.writeBytes_getElem (f : Flit) (i : Nat) (h : i < f.writeBytes.length) :
    f.writeBytes[i] = BitVec.ofNat 8 (f.pay.toNat / 256 ^ i) := by
  simp only [Flit.writeBytes, List.getElem_take, toBytes_getElem]

/-- A remote write into scratchpad is written there, and touches neither the under-bank nor a slot. -/
theorem Core.remoteMem_scratchpad (k : Core) (a : Nat) (b : Bytes) : (k.remoteMem 0 a b).sram = memWrite k.sram a b ∧
    (k.remoteMem 0 a b).ub = k.ub ∧ (k.remoteMem 0 a b).slots = k.slots := ⟨rfl, rfl, rfl⟩

/-- Settles O16: the row's branch for each WRITE, and the bytes of a WRITE of one flit. -/
theorem meshWritesTakeEffect : Obligations.MeshWritesTakeEffect := by
  unfold Obligations.MeshWritesTakeEffect
  refine ⟨?scratchpad, ?beyond, ?underBank, ?bytes⟩
  case scratchpad =>
    intro s c ch f fs k hmsg hch hop hspace hrun hans hvalid
    rw [exec_meshWrite, meshWriteAt_scratchpad hmsg hch hop hspace hrun hans hvalid, Mach.doWrite_scratchpad _ _ _ _ hspace]
  case beyond =>
    intro s c ch f fs k hmsg hch hop hspace hrun hans hbeyond
    rw [exec_meshWrite, meshWriteAt_beyond hmsg hch hop hspace hrun hans hbeyond]
  case underBank =>
    intro s c ch f fs hmsg hch hop hspace hfw hvalid m
    rw [exec_meshWrite, meshWriteAt_underBank hmsg hch hop hspace hfw hvalid]
    rfl
  case bytes =>
    intro k f a htail hbad hlen k'
    have hlength := f.writeBytes_length hlen
    have hk' : k' = k.remoteMem 0 a f.writeBytes := by
      simp only [k', writeParts_one a f htail hbad hlen]
      rfl
    obtain ⟨hsram, hub, hslots⟩ := k.remoteMem_scratchpad a f.writeBytes
    rw [hk', hsram]
    refine ⟨fun i hi => ?_, fun x hx => ?_, hub, hslots⟩
    · rw [memByte_memWrite_in _ _ _ _ (hlength ▸ hi), Flit.writeBytes_getElem]
    · exact memByte_memWrite_outside _ _ _ (by rwa [hlength])

/-! ## MESH_READ (R181) -/

section
variable {m : Mach} {c : Nat} {f : Flit} {fs : List Flit}
  (hmsg : (m.core c).loMsg 0 = some (f, fs)) (hop : f.op = 1) (hspace : reqSpace f = 0)
  (hrun : (m.core c).clocksRun m.cc = true)
include hmsg hop hspace hrun

/-- A READ of 1 to 256 bytes of the scratchpad. -/
theorem meshReadAt_scratchpad (hans : m.canAnswer c (dataChan f) ((readLen f + 31) / 32) f = true) (hpos : 0 < readLen f)
    (hmax : readLen f ≤ 256) (hvalid : (m.core c).validOff 0 (reqOff f) (readLen f) = true) :
    meshReadAt c [] m = (m.onCore c fun k => k.loDrop 0).doRead c f := by
  simp [meshReadAt, Mach.cellErrs_nil, Mach.reqReady, hmsg, hop, hspace, hrun, hans, hvalid, Nat.ne_of_gt hpos,
    Nat.not_lt.mpr hmax]

/-- A READ of another length, or of an offset that the scratchpad does not have. -/
theorem meshReadAt_bad (hans : m.canAnswer c 1 1 f = true)
    (hbad : readLen f = 0 ∨ 256 < readLen f ∨ (m.core c).validOff 0 (reqOff f) (readLen f) = false) :
    meshReadAt c [] m = ((m.onCore c fun k => k.loDrop 0).badRequest c).answer c 1 [errAnswer c f m.cc] := by
  simp [meshReadAt, Mach.cellErrs_nil, hmsg, hop, hspace, hrun, hans, hbad, or_assoc]

end

/-- What answers a READ of scratchpad: its data, and no register or memory of the core is another. -/
theorem Mach.doRead_scratchpad (m : Mach) (c : Nat) (g : Core → Core) (f : Flit) (hspace : reqSpace f = 0) :
    (m.onCore c g).doRead c f =
      (m.onCore c g).answer c (dataChan f) ((m.onCore c g).dataFlits c f 0 (reqOff f) (readLen f)) := by
  simp only [Mach.doRead, hspace, Core.touch_scratchpad, Core.countRead_scratchpad, Mach.onCore_onCore]

/-! ## The DATA of a READ (R178, R181) -/

/-- n bytes are ⌈n ÷ 32⌉ chunks. -/
theorem chunksOf_length (n : Nat) (b : Bytes) (h : b.length ≤ n) : (chunksOf n b).length = (b.length + 31) / 32 := by
  induction n generalizing b with
  | zero => simp [chunksOf, Nat.le_zero.mp h]
  | succ n ih =>
    rw [chunksOf]
    split
    next hb => simp [List.isEmpty_iff.mp hb]
    next hb =>
      have hpos : 0 < b.length := by simpa [List.length_pos_iff] using hb
      have hdrop : (b.drop 32).length = b.length - 32 := List.length_drop
      rw [List.length_cons, ih _ (by omega), hdrop]
      omega

theorem toChunks_length (b : Bytes) : (toChunks b).length = (b.length + 31) / 32 := chunksOf_length _ b (Nat.le_refl _)

/-- A message of at least one chunk has a flit for each. -/
theorem mkMsg_length (base : Flit) (chunks : List (BitVec 256)) (h : 0 < chunks.length) :
    (mkMsg base chunks).length = chunks.length := by
  cases chunks with
  | nil => exact absurd h (Nat.lt_irrefl 0)
  | cons x r => simp [mkMsg]

/-- Its flits are alike but for the payload and their place in the message. -/
theorem mem_mkMsg (base : Flit) (chunks : List (BitVec 256)) (x : Flit) (h : x ∈ mkMsg base chunks) :
    ∃ p k hd tl r, x = { base with pay := p, token := k, head := hd, tail := tl, rest := r } := by
  unfold mkMsg at h
  split at h
  · rw [List.mem_singleton] at h
    exact ⟨_, _, _, _, _, h⟩
  · obtain ⟨i, -, hi⟩ := List.mem_map.mp h
    exact ⟨_, _, _, _, _, hi.symm⟩

theorem Core.readMem_length (k : Core) (space off n : Nat) : (k.readMem space off n).length = n := by
  unfold Core.readMem
  split <;> exact memRead_length _ _ _

theorem Mach.dataFlits_length (m : Mach) (c : Nat) (f : Flit) (space off n : Nat) (h : 0 < n) :
    (m.dataFlits c f space off n).length = (n + 31) / 32 := by
  have hchunks : (toChunks ((m.core c).readMem space off n)).length = (n + 31) / 32 := by
    rw [toChunks_length, Core.readMem_length]
  rw [Mach.dataFlits, List.length_map, List.length_zipIdx, mkMsg_length _ _ (by omega), hchunks]

/-- Every flit of DATA goes to the requester with its TAG, on the channel of that TAG's read ID. -/
theorem Mach.mem_dataFlits (m : Mach) (c : Nat) (f : Flit) (space off n : Nat) (x : Flit)
    (h : x ∈ m.dataFlits c f space off n) : x.tag = f.tag ∧ x.op = 4 ∧ x.err = false ∧
      x.chan = (if f.tag.toNat % 64 < 32 then 1 else 4) ∧ x.target = BitVec.ofNat 60 (ansTarget f) := by
  obtain ⟨⟨y, i⟩, hy, rfl⟩ := List.mem_map.mp h
  obtain ⟨p, k, hd, tl, r, rfl⟩ := mem_mkMsg _ _ _ (List.fst_mem_of_mem_zipIdx hy)
  exact ⟨rfl, rfl, rfl, rfl, rfl⟩

/-- Settles O17: the row's branch for each READ, and the flits of its DATA. -/
theorem meshReadAnswers : Obligations.MeshReadAnswers := by
  unfold Obligations.MeshReadAnswers
  refine ⟨?answered, ?data, ?bad⟩
  case answered =>
    intro s c f fs k n m hmsg hop hspace hrun hans hpos hmax hvalid
    refine ⟨s.to (m.doRead c f), ?_, rfl, rfl, ?_⟩
    · rw [exec_meshRead, meshReadAt_scratchpad hmsg hop hspace hrun hans hpos hmax hvalid]
    · rw [State.to_m, Mach.doRead_scratchpad _ _ _ _ hspace]
      exact Mach.core_canon_same _ _
  case data =>
    exact fun m c f space off n h => ⟨m.dataFlits_length c f space off n h, m.mem_dataFlits c f space off n⟩
  case bad =>
    intro s c f fs k n hmsg hop hspace hrun hans hbad
    rw [exec_meshRead, meshReadAt_bad hmsg hop hspace hrun hans hbad]

end Sys2Proof.Machine
end

section
/-! PROOF. What the buffers and ports of a router read after each change of them, and a flit at the end of a link (R183, R190). -/

namespace Sys2Proof.Machine

open Sys2Proof

/-! ## Maps -/

@[simp] theorem agetD_aset_self {β : Type} (m : AMap β) (k : Nat) (v d : β) : agetD (aset m k v) k d = v := by simp [agetD]

theorem agetD_aset_ne {β : Type} (m : AMap β) (v d : β) {k j : Nat} (h : j ≠ k) : agetD (aset m k v) j d = agetD m j d := by
  rw [agetD, aget_aset_ne m v h, agetD]

/-- A map of lists in which no empty list is listed reads what was put there. -/
theorem agetD_listed {α : Type} (m : AMap (List α)) (k : Nat) (l : List α) :
    agetD (if l.isEmpty then adel m k else aset m k l) k [] = l := by
  cases l <;> simp [agetD]

/-! ## Buffers, local outputs and ports -/

@[simp] theorem Core.buf_setBuf_self (k : Core) (key : Nat) (l : List Flit) : (k.setBuf key l).buf key = l := agetD_listed _ _ _
@[simp] theorem Core.loOut_setLo_self (k : Core) (key : Nat) (l : List Flit) : (k.setLo key l).loOut key = l := agetD_listed _ _ _
@[simp] theorem Core.outP_setOut_self (k : Core) (o : Nat) (p : OutPort) : (k.setOut o p).outP o = p := agetD_aset_self _ _ _ _
@[simp] theorem Core.buf_putBuf_self (k : Core) (key : Nat) (f : Flit) : (k.putBuf key f).buf key = k.buf key ++ [f] :=
  k.buf_setBuf_self _ _

@[simp] theorem Core.inBuf_setInBuf_self (k : Core) (key : Nat) (l : List Flit) : (k.setInBuf key l).inBuf key = l := by
  unfold Core.setInBuf Core.inBuf
  split
  · rfl
  · exact k.buf_setBuf_self key l

/-- Input buffers hold no local output. -/
@[simp] theorem Core.loOut_setInBuf (k : Core) (key lo : Nat) (l : List Flit) : (k.setInBuf key l).loOut lo = k.loOut lo := by
  unfold Core.setInBuf
  split <;> rfl

@[simp] theorem Core.loOut_takeFlit (k : Core) (key cc lo : Nat) : (k.takeFlit key cc).loOut lo = k.loOut lo := by
  unfold Core.takeFlit
  rw [Core.loOut_setInBuf]
  split <;> rfl

/-- A flit that leaves an input buffer leaves the others behind it. -/
theorem Core.takeFlit_inBuf_length (k : Core) (key cc : Nat) (f : Flit) (fs : List Flit) (h : k.inBuf key = f :: fs) :
    ((k.takeFlit key cc).inBuf key).length = fs.length := by
  have hbuf : Core.inBuf (if key = bufKey 4 5 false then { k with router := { k.router with lastUrg := some cc } } else k) key =
      f :: fs := by
    rw [← h]
    split <;> rfl
  simp only [Core.takeFlit, Core.inBuf_setInBuf_self, hbuf]
  cases fs <;> rfl

/-! ## A flit that comes over a link (R190) -/

/-- A flit as it stands in the input buffer that it enters. -/
def Flit.entered (f : Flit) (at_ : Nat) : Flit := { f with front := at_, took := [], promoted := false, ackAt := none }

/-- A flit whose message no fenced link has cut enters the buffer of its channel. -/
theorem Core.buf_arrive (k : Core) (port at_ : Nat) (f : Flit) (hpurged : f.purged = false)
    (hway : f.head = true ∨ aget k.router.rejoin (bufKey port f.chan f.det) = none) :
    (k.arrive port at_ f).buf (bufKey port f.chan f.det) = k.buf (bufKey port f.chan f.det) ++ [f.entered at_] := by
  have hgoes : (if f.head then none else aget k.router.rejoin (bufKey port f.chan f.det)) = none := by
    obtain hhead | hnone := hway
    · rw [if_pos hhead]
    · rw [hnone, ite_self]
  have hkept : ¬ f.purged = true := by rw [hpurged]; decide
  simp only [Core.arrive, hgoes]
  rw [if_neg hkept]
  exact Core.buf_putBuf_self _ _ _

/-- An ordinary flit without errors that the receiver expects is taken. -/
theorem Core.receive_expected (k : Core) (port at_ : Nat) (f : Flit) (h : (k.inP port).expect = f.hseq) :
    k.receive port f false .good at_ =
      ((k.setIn port { expect := (k.inP port).expect + 1, discard := false }).arrive port at_ f, true) := by
  simp only [Core.receive, evUrgent, evReceived, h]
  rfl

/-- It stands at the end of its buffer. -/
theorem Core.buf_receive_expected (k : Core) (port at_ : Nat) (f : Flit) (h : (k.inP port).expect = f.hseq)
    (hpurged : f.purged = false) (hway : f.head = true ∨ aget k.router.rejoin (bufKey port f.chan f.det) = none) :
    (k.receive port f false .good at_).1.buf (bufKey port f.chan f.det) =
      k.buf (bufKey port f.chan f.det) ++ [f.entered at_] := by
  rw [k.receive_expected port at_ f h]
  exact Core.buf_arrive _ port at_ f hpurged hway

theorem dirLatency_pos (c o : Nat) : 0 < dirLatency c o := by
  unfold dirLatency
  split <;> decide

end Sys2Proof.Machine
end

section
/-! PROOF. FLIT_FORWARD: the branches of the row, and where a flit goes (R182, R187, R194, R203). -/

namespace Sys2Proof.Machine

open Sys2Proof

theorem exec_flitForward (c : CoreIx) (p : MPort) (ch : ChanIx) (det : Bool) (ev : LinkEv) (s : State) :
    exec (.flitForward c p ch det ev) s = .next (s.to (flitForwardAt c p ch det ev s.m)) := rfl

/-! ## The way of a flit (R187) -/

theorem Mach.nextHop_arrive_iff (m : Mach) (c : Nat) (f : Flit) : m.nextHop c f = .arrive ↔ c = waCore f.target.toNat := by
  unfold Mach.nextHop
  extract_lets dest w y side
  refine ⟨fun h => ?_, fun h => if_pos h⟩
  by_cases hdest : c = dest
  · exact hdest
  · rw [if_neg hdest] at h
    split at h
    · cases h
    · split at h
      · cases h
      · split at h <;> cases h

/-- A flit with no sidestep goes along x first, then along y. -/
theorem wantDir_xThenY (c dest : Nat) : (coreX c < coreX dest → wantDir c dest none = 1) ∧
    (coreX dest < coreX c → wantDir c dest none = 3) ∧
    (coreX c = coreX dest → coreY c < coreY dest → wantDir c dest none = 2) ∧
    (coreX c = coreX dest → coreY dest < coreY c → wantDir c dest none = 0) := by
  unfold wantDir
  refine ⟨fun h => if_pos h, fun h => ?_, fun hx hy => ?_, fun hx hy => ?_⟩
  · rw [if_neg (Nat.lt_asymm h), if_pos h]
  · rw [hx, if_neg (Nat.lt_irrefl _), if_neg (Nat.lt_irrefl _), if_pos hy]
  · rw [hx, if_neg (Nat.lt_irrefl _), if_neg (Nat.lt_irrefl _), if_neg (Nat.lt_asymm hy)]

/-! ## The branches of the row -/

theorem inputKeys_side {p : MPort} (hp : p ≠ .loc) (ch : Nat) (det : Bool) :
    inputKeys p ch det = [bufKey (portNum p) ch det] := by
  cases p with
  | loc => exact absurd rfl hp
  | north | east | south | west => rfl

/-- The row runs for the one input buffer that a link's side has. -/
theorem flitForwardAt_side (m : Mach) (c : Nat) (p : MPort) (ch : Nat) (det : Bool) (ev : LinkEv) (f : Flit) (hp : p ≠ .loc)
    (hok : m.routerOk c = true) (hring : (m.field (fieldOf c)).ring = .on)
    (hhead : (m.core c).headAt (bufKey (portNum p) ch det) m.cc = some f) :
    flitForwardAt c p ch det ev m = m.forward c (bufKey (portNum p) ch det) ev := by
  unfold flitForwardAt
  rw [m.when_pos _ _ (by simp [hok, hring]), inputKeys_side hp]
  by_cases hsame : m.forward c (bufKey (portNum p) ch det) ev = m
  · rw [List.find?_cons_of_neg (by simp [hsame])]
    exact hsame.symm
  · rw [List.find?_cons_of_pos (by simp [hhead, hsame])]

section
variable {m : Mach} {c key : Nat} {f : Flit} (ev : LinkEv) (hhead : (m.core c).headAt key m.cc = some f)
include hhead

/-- A unicast flit that cannot be taken before it or at its target's router ends here. -/
theorem Mach.forward_ended (hmc : f.mc = false)
    (hstop : m.nextHop c f = .stop ∨ (m.nextHop c f = .arrive ∧ m.served c f = false)) (hans : m.canAnswer c 1 1 f = true) :
    m.forward c key ev = m.endFlit c key f := by
  obtain hstop | ⟨harrive, hserved⟩ := hstop
  · simp [Mach.forward, hhead, hmc, hstop, hans]
  · simp [Mach.forward, hhead, hmc, harrive, hserved, hans]

/-- At its target's router, one whose OP is illegal on its channel is discarded. -/
theorem Mach.forward_illegal (hmc : f.mc = false) (harrive : m.nextHop c f = .arrive) (hserved : m.served c f = true)
    (hop : opLegal f = false) : m.forward c key ev = (m.onCore c fun k => k.takeFlit key m.cc).protoDrop c := by
  have hlegal : flitLegal f = false := by simp [flitLegal, hop]
  simp [Mach.forward, hhead, hmc, harrive, hserved, hlegal]

/-- One that is granted leaves. -/
theorem Mach.forward_unicast (hmc : f.mc = false) (hgoes : m.nextHop c f ≠ .stop)
    (htaken : m.nextHop c f = .arrive → m.served c f = true ∧ flitLegal f = true) {o : Nat} {x : Cand}
    (hgrant : m.grantOf c key = some (o, x)) (hleg : x.leg = none) : m.forward c key ev = m.uniForward c o x ev := by
  by_cases harrive : m.nextHop c f = .arrive
  · obtain ⟨hserved, hlegal⟩ := htaken harrive
    simp [Mach.forward, hhead, hmc, harrive, hserved, hlegal, hgrant, hleg]
  · simp [Mach.forward, hhead, hmc, harrive, hgoes, hgrant, hleg]

/-- A multicast's copy that is granted, once the legs that end here have ended, leaves. -/
theorem Mach.forward_multicast (hmc : f.mc = true) {o : Nat} {x : Cand} {g : Nat × Leg}
    (hgrant : (m.mcSettle c key f).grantOf c key = some (o, x)) (hleg : x.leg = some g) :
    m.forward c key ev = (m.mcSettle c key f).mcForward c o x g ev := by
  simp [Mach.forward, hhead, hmc, hgrant, hleg]

end

theorem Mach.endFlit_tail (m : Mach) (c key : Nat) (f : Flit) (htail : f.tail = true) : m.endFlit c key f =
    if f.op = 4 ∨ f.op = 5 then (m.onCore c fun k => k.takeFlit key m.cc).onCore c fun k => k.rcount cntProto
    else (m.onCore c fun k => k.takeFlit key m.cc).answer c 1 [errAnswer c f m.cc] := by
  simp only [Mach.endFlit, htail, Bool.or_eq_true, decide_eq_true_eq]
  rfl

/-! ## A flit that leaves (R187, R203) -/

/-- A core k whose router's output o has granted a flit: the turns of its local port and of that output, and its counts. -/
def Mach.grantOn (m : Mach) (c o : Nat) (x : Cand) (k : Core) : Core :=
  let k := { k with router := m.shareGrant c o x (m.core c).router }.setOut o
    (m.granted (k.outP o) x o (if o = 4 then 1 else m.dirCycles c o))
  let k := k.rcount (cntFlits o x.flit.chan)
  if o < 4 && x.flit.det && !x.flit.prior.1 then k.rcount cntDetours else k

/-- The module after the grant. -/
def Mach.withGrant (m : Mach) (c o : Nat) (x : Cand) : Mach := (m.traceFlit c o x.flit).onCore c (m.grantOn c o x)

@[simp] theorem Core.loOut_rcount (k : Core) (key n lo : Nat) : (k.rcount key n).loOut lo = k.loOut lo := rfl
@[simp] theorem Core.loOut_setOut (k : Core) (o : Nat) (p : OutPort) (lo : Nat) : (k.setOut o p).loOut lo = k.loOut lo := rfl
@[simp] theorem Core.outP_rcount (k : Core) (key n o : Nat) : (k.rcount key n).outP o = k.outP o := rfl

/-- The grant leaves the local outputs. -/
theorem Mach.loOut_withGrant (m : Mach) (c o : Nat) (x : Cand) (lo : Nat) :
    ((m.withGrant c o x).core c).loOut lo = (m.core c).loOut lo := by
  rw [Mach.withGrant, Mach.core_onCore_self, Mach.grantOn]
  split <;> simp only [Core.loOut_rcount, Core.loOut_setOut] <;> rfl

/-- The output is the granted one, whose next flit has the number that it had. -/
theorem Mach.seq_withGrant (m : Mach) (c o : Nat) (x : Cand) :
    (((m.withGrant c o x).core c).outP o).seq = ((m.core c).outP o).seq := by
  rw [Mach.withGrant, Mach.core_onCore_self, Mach.traceFlit_core, Mach.grantOn]
  split <;> simp only [Core.outP_rcount, Core.outP_setOut_self, Mach.granted]

theorem Mach.core_withGrant_ne (m : Mach) (o : Nat) (x : Cand) {c d : Nat} (h : d ≠ c) :
    (m.withGrant c o x).core d = m.core d := by
  rw [Mach.withGrant, Mach.core_onCore_ne _ _ h, Mach.traceFlit_core]

theorem Mach.withGrant_cc (m : Mach) (c o : Nat) (x : Cand) : (m.withGrant c o x).cc = m.cc :=
  congrArg Clock.cc (m.traceFlit_clk c o x.flit)

/-- A granted flit joins its local output, or crosses the link. -/
theorem Mach.leave_eq (m : Mach) (c o : Nat) (x : Cand) (ev : LinkEv) : m.leave c o x ev =
    if o = 4 then (m.withGrant c o x).onCore c fun k => k.setLo (loKey x.flit) (k.loOut (loKey x.flit) ++ [x.flit])
    else (m.withGrant c o x).cross c o { x.flit with promoted := false } ev := rfl

/-- A flit that arrives joins its channel's local output. -/
theorem Mach.uniForward_local (m : Mach) (c : Nat) (x : Cand) (ev : LinkEv) :
    ((m.uniForward c 4 x ev).core c).loOut (loKey x.flit) = (m.core c).loOut (loKey x.flit) ++ [x.flit] := by
  rw [Mach.uniForward, m.leave_eq, if_pos rfl, Mach.core_onCore_self, Mach.core_onCore_self, Core.loOut_takeFlit,
    Core.loOut_setLo_self, Mach.loOut_withGrant]

/-- An ordinary flit that crosses a link with no error enters the neighbour's buffer for its channel, with the number of the
crossing. -/
theorem Mach.buf_cross_good (m : Mach) (c o n : Nat) (f : Flit) (hnbr : nbr c o = some n) (hne : n ≠ c) (hchan : f.chan < 5)
    (hpurged : f.purged = false)
    (hway : f.head = true ∨ aget (m.core n).router.rejoin (bufKey ((o + 2) % 4) f.chan f.det) = none)
    (hexpect : ((m.core n).inP ((o + 2) % 4)).expect = ((m.core c).outP o).seq) :
    ((m.cross c o f .good).core n).buf (bufKey ((o + 2) % 4) f.chan f.det) =
      (m.core n).buf (bufKey ((o + 2) % 4) f.chan f.det) ++
        [({ f with hseq := ((m.core c).outP o).seq } : Flit).entered (m.cc + dirLatency c o)] := by
  have hown : (f.chan == 5) = false := beq_false_of_ne (by omega)
  have hreceived := (m.core n).buf_receive_expected ((o + 2) % 4) (m.cc + dirLatency c o)
    { f with hseq := ((m.core c).outP o).seq } hexpect hpurged hway
  simp only [Mach.cross, hnbr, evFault, hown, Bool.false_eq_true, if_false]
  rw [Mach.core_onCore_ne _ _ hne, Mach.core_setCore_self]
  exact hreceived

/-- A unicast flit that leaves over a link with no error is in the neighbour's buffer, from the next cycle on at the earliest. -/
theorem Mach.uniForward_link (m : Mach) (c o n : Nat) (x : Cand) (hnbr : nbr c o = some n) (hne : n ≠ c) (ho : o < 4)
    (hchan : x.flit.chan < 5) (hpurged : x.flit.purged = false)
    (hway : x.flit.head = true ∨ aget (m.core n).router.rejoin (bufKey ((o + 2) % 4) x.flit.chan x.flit.det) = none)
    (hexpect : ((m.core n).inP ((o + 2) % 4)).expect = ((m.core c).outP o).seq) :
    ((m.uniForward c o x .good).core n).buf (bufKey ((o + 2) % 4) x.flit.chan x.flit.det) =
      (m.core n).buf (bufKey ((o + 2) % 4) x.flit.chan x.flit.det) ++
        [({ x.flit with promoted := false, hseq := ((m.core c).outP o).seq } : Flit).entered (m.cc + dirLatency c o)] := by
  have hcore : (m.withGrant c o x).core n = m.core n := m.core_withGrant_ne o x hne
  have hseq := m.seq_withGrant c o x
  have hcross := (m.withGrant c o x).buf_cross_good c o n { x.flit with promoted := false } hnbr hne hchan hpurged
    (by rwa [hcore]) (by rw [hcore, hseq, hexpect])
  rw [hcore, hseq, Mach.withGrant_cc] at hcross
  rw [Mach.uniForward, Mach.core_onCore_ne _ _ hne, m.leave_eq, if_neg (by omega)]
  exact hcross

/-- Settles O21: the row's branch for each flit at the head of a buffer, and what becomes of one that leaves. -/
theorem flitsTravel : Obligations.FlitsTravel := by
  unfold Obligations.FlitsTravel
  refine ⟨⟨?unicast, ?ended, ?illegal, ?multicast, Mach.endFlit_tail, wantDir_xThenY, Mach.nextHop_arrive_iff⟩,
    Mach.uniForward_local, ?link, Core.takeFlit_inBuf_length⟩
  case unicast =>
    intro s c p ch det ev f o x key hp hok hring hhead hmc hgoes htaken hgrant hleg
    rw [exec_flitForward, flitForwardAt_side _ _ _ _ _ _ f hp hok hring hhead,
      Mach.forward_unicast ev hhead hmc hgoes htaken hgrant hleg]
  case ended =>
    intro s c p ch det ev f key hp hok hring hhead hmc hstop hans
    rw [exec_flitForward, flitForwardAt_side _ _ _ _ _ _ f hp hok hring hhead, Mach.forward_ended ev hhead hmc hstop hans]
  case illegal =>
    intro s c p ch det ev f key hp hok hring hhead hmc harrive hserved hop
    rw [exec_flitForward, flitForwardAt_side _ _ _ _ _ _ f hp hok hring hhead,
      Mach.forward_illegal ev hhead hmc harrive hserved hop]
  case multicast =>
    intro s c p ch det ev f o x g key m hp hok hring hhead hmc hgrant hleg
    rw [exec_flitForward, flitForwardAt_side _ _ _ _ _ _ f hp hok hring hhead, Mach.forward_multicast ev hhead hmc hgrant hleg]
  case link =>
    intro m c o x n f b hnbr hne ho hchan hpurged hway hexpect
    refine ⟨_, m.uniForward_link c o n x hnbr hne ho hchan hpurged hway hexpect, rfl, rfl, rfl, rfl, ?_⟩
    exact Nat.lt_add_of_pos_right (dirLatency_pos c o)

end Sys2Proof.Machine
end

section
/-! PROOF. Lets, and links that return from a retrain or are fenced (R190, R192). -/

namespace Sys2Proof.Machine

open Sys2Proof

theorem exec_letReplay (c : CoreIx) (p : MPort) (ev : LinkEv) (s : State) :
    exec (.letReplay c p ev) s = .next (s.to (letReplayAt c p ev s.m)) := rfl
theorem exec_linkRetrainDone (c : CoreIx) (p : MPort) (w : Fin 4) (s : State) :
    exec (.linkRetrainDone c p w) s = .next (s.to (retrainDoneAt c p w.val s.m)) := rfl

/-! ## LET (R190) -/

section
variable {m : Mach} {c : Nat} {p : MPort} (ev : LinkEv) (ho : portNum p < 4)
  (hheld : ((m.core c).outP (portNum p)).held = false) (howed : ((m.core c).outP (portNum p)).owed ≠ [])
  (hwidth : m.dirWidth c (portNum p) ≠ 1)
include ho hheld howed hwidth

/-- Fewer than eight lets in a row replay, and are counted while the oldest flit stays. -/
theorem letReplayAt_replays (hlets : ((m.core c).outP (portNum p)).lets < 7) : letReplayAt c p ev m =
    ((m.onCore c fun k => k.rcount (cntLets (portNum p))).resendOver c (portNum p) ev (2 * dirLatency c (portNum p) + 2)).onCore c
      fun k => k.setOut (portNum p) { k.outP (portNum p) with
        lets := if (k.outP (portNum p)).owed.length = ((m.core c).outP (portNum p)).owed.length
          then ((m.core c).outP (portNum p)).lets + 1 else 0 } := by
  unfold letReplayAt
  rw [m.when_pos _ _ (by simp [ho, hheld, howed, hwidth])]
  exact if_neg (by omega)

/-- The eighth holds the link. -/
theorem letReplayAt_holds (hlets : 7 ≤ ((m.core c).outP (portNum p)).lets) : letReplayAt c p ev m =
    m.onCore c fun k => (k.rcount (cntLets (portNum p))).setOut (portNum p)
      { (m.core c).outP (portNum p) with lets := 8, held := true } := by
  unfold letReplayAt
  rw [m.when_pos _ _ (by simp [ho, hheld, howed, hwidth])]
  exact (if_pos (by omega)).trans (Mach.onCore_onCore _ _ _ _)

end

/-! ## Replays over a link (R190) -/

/-- The one flit of a replay buffer, sent again without errors to a receiver that expects it, enters its buffer, and is owed no
more. -/
theorem Mach.resendOver_expected (m : Mach) (c o n extra : Nat) (f : Flit) (hnbr : nbr c o = some n) (hne : n ≠ c)
    (hreplay : ((m.core c).outP o).replay = [f]) (hack : f.ackAt = none) (hpurged : f.purged = false) (hhead : f.head = true)
    (hexpect : ((m.core n).inP ((o + 2) % 4)).expect = f.hseq) :
    ((m.resendOver c o .good extra).core n).buf (bufKey ((o + 2) % 4) f.chan f.det) =
      (m.core n).buf (bufKey ((o + 2) % 4) f.chan f.det) ++ [f.entered (m.cc + dirLatency c o + extra)] ∧
    (((m.resendOver c o .good extra).core c).outP o).owed = [] := by
  have hreceived := (m.core n).buf_receive_expected ((o + 2) % 4) (m.cc + dirLatency c o + extra) f hexpect hpurged (.inl hhead)
  have htaken := congrArg Prod.snd ((m.core n).receive_expected ((o + 2) % 4) (m.cc + dirLatency c o + extra) f hexpect)
  simp only [Mach.resendOver, hnbr, hreplay, List.foldl_cons, List.foldl_nil, hack, Option.isSome_none, Bool.false_eq_true,
    if_false, if_true, evFault, Nat.mul_zero, Nat.add_zero]
  constructor
  · rw [Mach.core_onCore_ne _ _ hne, Mach.core_setCore_self]
    exact hreceived
  · rw [Mach.core_onCore_self, Core.outP_setOut_self, htaken]
    rfl

/-! ## The end of a retrain (R192) -/

/-- The module with the link of a core in a direction at a width. -/
def Mach.withWidth (m : Mach) (c o w : Nat) : Mach :=
  let l := linkOf c o
  { m with wafer := { m.wafer with links := aset m.wafer.links (l.1 * 2 + b2n l.2) w,
                                   changed := m.wafer.changed || m.linkWidth l.1 l.2 != w } }

theorem Mach.linkWidth_withWidth (m : Mach) (c o w : Nat) : (m.withWidth c o w).linkWidth (linkOf c o).1 (linkOf c o).2 = w :=
  agetD_aset_self _ _ _ _

/-- A held link takes the width that its retrain gives: fenced, or it returns and replays. -/
theorem retrainDoneAt_held (m : Mach) (c : Nat) (p : MPort) (w : Nat) (ho : portNum p < 4)
    (hheld : ((m.core c).outP (portNum p)).held = true) (hw : 1 ≤ w) (hnbr : (nbr c (portNum p)).isSome = true) :
    retrainDoneAt c p w m = if w = 1 then (m.withWidth c (portNum p) w).fenceLink c (portNum p)
      else ((m.withWidth c (portNum p) w).onCore c fun k => k.setOut (portNum p)
        { (m.core c).outP (portNum p) with lets := 0, held := false }).resendOver c (portNum p) .good 0 := by
  unfold retrainDoneAt
  rw [m.when_pos _ _ (by simp [ho, hheld, hw, hnbr])]
  rfl

/-! ## What a fenced link gives back (R192) -/

/-- Over different elements of which one alone has an effect, a fold has that effect. -/
theorem foldl_only {α β : Type} [DecidableEq α] (g : β → α → β) (a : α) (h : ∀ b x, x ≠ a → g b x = b) (l : List α)
    (hl : l.Nodup) (b : β) : l.foldl g b = if a ∈ l then g b a else b := by
  induction l generalizing b with
  | nil => rfl
  | cons x r ih =>
    obtain ⟨hx, hr⟩ := List.nodup_cons.mp hl
    rw [List.foldl_cons, ih hr]
    by_cases hxa : x = a
    · subst hxa
      rw [if_neg hx, if_pos List.mem_cons_self]
    · rw [h b x hxa]
      simp [Ne.symm hxa]

section
variable (m : Mach) (c o : Nat) (p : OutPort) (f : Flit) (hreplay : p.replay = [f])
include hreplay

/-- The virtual channels of which an output holds no flit give nothing back. -/
theorem Mach.giveBack_empty (vc : Nat) (hvc : vc ≠ f.chan * 2 + b2n f.det) : m.giveBack c o p vc = m := by
  have hother : (f.chan * 2 + b2n f.det == vc) = false := beq_false_of_ne (Ne.symm hvc)
  simp [Mach.giveBack, hreplay, hother]

/-- A unicast flit of one message that the receiver has not accepted goes to the buffer of the flits given back. -/
theorem Mach.giveBack_owed (hbusy : p.busyIn = []) (hack : f.ackAt = none) (hpurged : f.purged = false) (hmc : f.mc = false) :
    m.giveBack c o p (f.chan * 2 + b2n f.det) =
      m.onCore c fun k => k.putBuf (bufKey 6 f.chan f.prior.1) (givenBack f o (m.cc + 1)) := by
  simp [Mach.giveBack, hreplay, hbusy, hack, hpurged, hmc]

/-- So it does when the link is fenced. -/
theorem Mach.buf_fenceLink (n : Nat) (hp : (m.core c).outP o = p) (hnbr : nbr c o = some n) (hne : n ≠ c) (hchan : f.chan < 8)
    (hbusy : p.busyIn = []) (hack : f.ackAt = none) (hpurged : f.purged = false) (hmc : f.mc = false) :
    ((m.fenceLink c o).core c).buf (bufKey 6 f.chan f.prior.1) =
      (m.core c).buf (bufKey 6 f.chan f.prior.1) ++ [givenBack f o (m.cc + 1)] := by
  have hvc : f.chan * 2 + b2n f.det ∈ List.range 16 := by
    have hdet : b2n f.det ≤ 1 := by cases f.det <;> decide
    exact List.mem_range.mpr (by omega)
  simp only [Mach.fenceLink, hp, hnbr]
  rw [Mach.core_onCore_ne _ _ hne.symm,
    foldl_only _ _ (fun b vc h => b.giveBack_empty c o p f hreplay vc h) _ List.nodup_range, if_pos hvc,
    Mach.giveBack_owed _ c o p f hreplay hbusy hack hpurged hmc, Mach.core_onCore_self, Core.buf_putBuf_self,
    Mach.core_onCore_self]
  rfl

end

/-- Settles O22: lets that replay and the one that holds, the ends of a retrain, and the flit sent again or given back. -/
theorem letsAndRetrains : Obligations.LetsAndRetrains := by
  unfold Obligations.LetsAndRetrains
  refine ⟨⟨?replays, ?holds⟩, ?retrained, Mach.resendOver_expected, ?given⟩
  case replays =>
    intro s c p ev o out ho hheld howed hwidth hlets m q
    rw [exec_letReplay, letReplayAt_replays ev ho hheld howed hwidth hlets]
    rfl
  case holds =>
    intro s c p ev o out ho hheld howed hwidth hlets
    refine ⟨_, exec_letReplay c p ev s, rfl, ?_, fun d hd => ?_⟩ <;>
      rw [letReplayAt_holds ev ho hheld howed hwidth hlets]
    · rw [State.core_to_onCore]
      exact Core.outP_setOut_self _ _ _
    · exact State.core_to_onCore_same s _ hd
  case retrained =>
    intro s c p w o out l m ho hheld hw hnbr
    have hrow := retrainDoneAt_held s.m c p w ho hheld hw hnbr
    refine ⟨s.m.linkWidth_withWidth c o w, fun hfenced => ?_, fun hreturns => ?_⟩
    · rw [exec_linkRetrainDone, hrow, if_pos hfenced]
      rfl
    · rw [exec_linkRetrainDone, hrow, if_neg (by omega)]
      rfl
  case given =>
    intro m c o n f hnbr hne hchan hreplay hbusy hack hpurged hmc
    exact m.buf_fenceLink c o _ f hreplay n rfl hnbr hne hchan hbusy hack hpurged hmc

end Sys2Proof.Machine
end

section
/-! PROOF. Detours, promotions and samples of routers, and writes of registers (R10, R12, R189, R200, R206). -/

namespace Sys2Proof.Machine

open Sys2Proof

/-! ## What the rows run -/

theorem exec_detourUpdate (c : CoreIx) (es : List (BitVec 32)) (proved : Bool) (s : State) :
    exec (.detourUpdate c es proved) s = .next (s.to (detourUpdateAt c es proved s.m)) := rfl
theorem exec_flitAgePromotion (c : CoreIx) (p : MPort) (ch : ChanIx) (det : Bool) (s : State) :
    exec (.flitAgePromotion c p ch det) s = .next (s.to (agePromoteAt c p ch det s.m)) := rfl
theorem exec_routerSample (c : CoreIx) (s : State) :
    exec (.routerSample c) s = .next (s.to (routerSampleAt c s.m)) := rfl
theorem exec_csrWrite (p : RegPage) (off : BitVec 24) (v : BitVec 64) (s : State) :
    exec (.csrWrite p off v) s = .next (s.to (csrWriteAt p off.toNat v.toNat s.m)) := rfl

/-! ## Detours (R189) -/

/-- The module with these new detours waiting. -/
def Mach.withNewDetours (m : Mach) (l : AMap (List Detour)) : Mach := { m with wafer := { m.wafer with newDetours := l } }

@[simp] theorem Mach.core_withNewDetours (m : Mach) (l : AMap (List Detour)) (d : Nat) :
    (m.withNewDetours l).core d = m.core d := rfl

/-- A router's proved entries, where no others wait: taken at once where their paths are clear, else they wait. -/
theorem detourUpdateAt_proved (m : Mach) (c : Nat) (es : List (BitVec 32)) (hnone : m.wafer.newDetours = []) :
    detourUpdateAt c es true m =
      if m.pathsClear c (m.detourOuts c ((es.map detourOf).take 8)) then
        (m.onCore c fun k => { k with router := { k.router with detours := (es.map detourOf).take 8 } }).withNewDetours []
      else m.withNewDetours [(c, (es.map detourOf).take 8)] := by
  have hdel : adel [(c, (es.map detourOf).take 8)] c = [] := by simp [adel]
  simp only [detourUpdateAt, if_true, hnone, Mach.installDetours, aset, List.foldl_cons, List.foldl_nil, Mach.onCore_wafer, hdel]
  rfl

/-! ## Counters (R206) -/

/-- A router with a counter at a value. -/
def Core.setCount (k : Core) (key : Nat) (v : BitVec 64) : Core :=
  { k with router := { k.router with cnt := aset k.router.cnt key v } }

/-- What a counter of a router reads. -/
def Core.count (k : Core) (key : Nat) : BitVec 64 := agetD k.router.cnt key 0

@[simp] theorem Core.count_setCount_self (k : Core) (key : Nat) (v : BitVec 64) : (k.setCount key v).count key = v :=
  agetD_aset_self _ _ _ _
theorem Core.count_setCount_ne (k : Core) (v : BitVec 64) {key j : Nat} (h : j ≠ key) :
    (k.setCount key v).count j = k.count j := agetD_aset_ne _ _ _ h

@[simp] theorem Core.count_rcount_self (k : Core) (key n : Nat) :
    (k.rcount key n).count key = k.count key + BitVec.ofNat 64 n := agetD_aset_self _ _ _ _
theorem Core.count_rcount_ne (k : Core) (n : Nat) {key j : Nat} (h : j ≠ key) : (k.rcount key n).count j = k.count j :=
  agetD_aset_ne _ _ _ h

@[simp] theorem Core.bufs_setCount (k : Core) (key : Nat) (v : BitVec 64) :
    (k.setCount key v).router.bufs = k.router.bufs := rfl
@[simp] theorem Core.slots_setCount (k : Core) (key : Nat) (v : BitVec 64) : (k.setCount key v).slots = k.slots := rfl
@[simp] theorem Core.bufs_rcount (k : Core) (key n : Nat) : (k.rcount key n).router.bufs = k.router.bufs := rfl
@[simp] theorem Core.slots_rcount (k : Core) (key n : Nat) : (k.rcount key n).slots = k.slots := rfl

/-! ## Age (R200) -/

@[simp] theorem Core.inBuf_rcount (k : Core) (key n b : Nat) : (k.rcount key n).inBuf b = k.inBuf b := rfl
@[simp] theorem Core.inBuf_canon (k : Core) (b : Nat) : k.canon.inBuf b = k.inBuf b := rfl
@[simp] theorem Core.count_canon (k : Core) (key : Nat) : k.canon.count key = k.count key := rfl

/-- An input buffer is neither a counter nor a slot. -/
theorem Core.setInBuf_keeps (k : Core) (key : Nat) (l : List Flit) :
    (∀ j, (k.setInBuf key l).count j = k.count j) ∧ (k.setInBuf key l).slots = k.slots := by
  unfold Core.setInBuf
  split <;> exact ⟨fun _ => rfl, rfl⟩

/-- A head flit that has waited 256 cycles is promoted, and counted. -/
theorem agePromoteAt_waited (m : Mach) (c : Nat) (p : MPort) (ch : Nat) (det : Bool) (f : Flit) (fs : List Flit) (hp : p ≠ .loc)
    (hbuf : (m.core c).inBuf (bufKey (portNum p) ch det) = f :: fs) (hhead : f.head = true) (hfresh : f.promoted = false)
    (hwaited : f.front + 256 ≤ m.cc) : agePromoteAt c p ch det m =
      m.onCore c fun k => (k.setInBuf (bufKey (portNum p) ch det) ({ f with promoted := true } :: fs)).rcount cntAged := by
  unfold agePromoteAt
  rw [inputKeys_side hp, List.find?_cons_of_pos (by simp [hbuf, hhead, hfresh, hwaited])]
  exact m.onCore_congr c (by rw [hbuf])

/-! ## Samples (R206) -/

/-- A core's router with a sample of input i taken: the occupancy added, and the highest kept. -/
def Core.sampleInput (k : Core) (i : Nat) : Core :=
  let k' := k.rcount (cntDepthSum i) (k.portDepth i)
  k'.setCount (cntDepthMax i) (BitVec.ofNat 64 (max (k.portDepth i) (k'.count (cntDepthMax i)).toNat))

/-- A core's router with its samples taken in a cycle. -/
def Core.sampled (k : Core) (cc : Nat) : Core :=
  ((([0, 1, 2, 3, 4] : List Nat).foldl Core.sampleInput k).rcount cntSamples).setCount cntSampleAt (BitVec.ofNat 64 cc)

theorem routerSampleAt_due (m : Mach) (c : Nat) (hdue : (agetD (m.core c).router.cnt cntSampleAt 0).toNat + 1024 ≤ m.cc)
    (hok : m.routerOk c = true) (hring : (m.field (fieldOf c)).ring = .on) :
    routerSampleAt c m = m.onCore c fun k => k.sampled m.cc := by
  unfold routerSampleAt
  rw [m.when_pos _ _ (by simpa [hok, hring] using hdue)]
  rfl

/-- Samples leave the input buffers and the slots. -/
theorem Core.sampleInputs_keeps (l : List Nat) (k : Core) :
    (l.foldl Core.sampleInput k).router.bufs = k.router.bufs ∧ (l.foldl Core.sampleInput k).slots = k.slots := by
  induction l generalizing k with
  | nil => exact ⟨rfl, rfl⟩
  | cons i r ih => exact ih (k.sampleInput i)

/-- The counters of an input are those of no other, and none of the router's own. -/
theorem Core.count_sampleInput_ne (k : Core) (i : Nat) {j : Nat} (hsum : j ≠ cntDepthSum i) (hmax : j ≠ cntDepthMax i) :
    (k.sampleInput i).count j = k.count j := by
  rw [Core.sampleInput, Core.count_setCount_ne _ _ hmax, Core.count_rcount_ne _ _ hsum]

theorem Core.count_sampleInputs_ne (l : List Nat) (k : Core) {j : Nat}
    (h : ∀ i ∈ l, j ≠ cntDepthSum i ∧ j ≠ cntDepthMax i) : (l.foldl Core.sampleInput k).count j = k.count j := by
  induction l generalizing k with
  | nil => rfl
  | cons i r ih =>
    obtain ⟨⟨hsum, hmax⟩, hr⟩ := List.forall_mem_cons.mp h
    rw [List.foldl_cons, ih _ hr, k.count_sampleInput_ne i hsum hmax]

/-- The sum of an input's occupancies grows by its occupancy. -/
theorem Core.depthSum_sampleInput (k : Core) (i : Nat) :
    (k.sampleInput i).count (cntDepthSum i) = k.count (cntDepthSum i) + BitVec.ofNat 64 (k.portDepth i) := by
  have hmax : cntDepthSum i ≠ cntDepthMax i := by unfold cntDepthSum cntDepthMax; omega
  rw [Core.sampleInput, Core.count_setCount_ne _ _ hmax, Core.count_rcount_self]

theorem cntDepthSum_ne {i j : Nat} (h : i ≠ j) : cntDepthSum i ≠ cntDepthSum j ∧ cntDepthSum i ≠ cntDepthMax j := by
  unfold cntDepthSum cntDepthMax
  omega

theorem Core.portDepth_sampleInput (k : Core) (i j : Nat) : (k.sampleInput i).portDepth j = k.portDepth j := rfl

theorem Core.depthSum_sampleInputs (l : List Nat) (hl : l.Nodup) (k : Core) {i : Nat} (hi : i ∈ l) :
    (l.foldl Core.sampleInput k).count (cntDepthSum i) =
      k.count (cntDepthSum i) + BitVec.ofNat 64 (k.portDepth i) := by
  induction l generalizing k with
  | nil => exact absurd hi List.not_mem_nil
  | cons j r ih =>
    obtain ⟨hj, hr⟩ := List.nodup_cons.mp hl
    rw [List.foldl_cons]
    by_cases hij : i = j
    · subst hij
      rw [Core.count_sampleInputs_ne r _ fun x hx => cntDepthSum_ne (ne_of_mem_of_not_mem hx hj).symm, k.depthSum_sampleInput]
    · obtain ⟨hsum, hmax⟩ := cntDepthSum_ne hij
      rw [ih hr _ ((List.mem_cons.mp hi).resolve_left hij), k.count_sampleInput_ne j hsum hmax, k.portDepth_sampleInput]

/-- The counters after the samples of a cycle. -/
theorem Core.count_sampled (k : Core) (cc : Nat) (hcc : cc < 2 ^ 64) :
    (∀ i, i < 5 → (k.sampled cc).count (cntDepthSum i) = k.count (cntDepthSum i) + BitVec.ofNat 64 (k.portDepth i)) ∧
    (k.sampled cc).count cntSamples = k.count cntSamples + 1 ∧ ((k.sampled cc).count cntSampleAt).toNat = cc := by
  unfold Core.sampled
  refine ⟨fun i hi => ?_, ?_, ?_⟩
  · have hi' : i ∈ [0, 1, 2, 3, 4] := List.mem_range.mpr hi
    have hat : cntDepthSum i ≠ cntSampleAt := by unfold cntDepthSum cntSampleAt; omega
    have hsamples : cntDepthSum i ≠ cntSamples := by unfold cntDepthSum cntSamples; omega
    rw [Core.count_setCount_ne _ _ hat, Core.count_rcount_ne _ _ hsamples, Core.depthSum_sampleInputs _ (by decide) k hi']
  · rw [Core.count_setCount_ne _ _ (by decide), Core.count_rcount_self, Core.count_sampleInputs_ne _ _ (by decide)]
    rfl
  · rw [Core.count_setCount_self]
    exact Nat.mod_eq_of_lt hcc

theorem Core.sampled_keeps (k : Core) (cc : Nat) :
    (k.sampled cc).router.bufs = k.router.bufs ∧ (k.sampled cc).slots = k.slots := by
  obtain ⟨hbufs, hslots⟩ := Core.sampleInputs_keeps [0, 1, 2, 3, 4] k
  unfold Core.sampled
  rw [Core.bufs_setCount, Core.bufs_rcount, Core.slots_setCount, Core.slots_rcount]
  exact ⟨hbufs, hslots⟩

/-! ## Registers (R10, R12, R328, R336) -/

theorem csrWriteAt_bar0 (m : Mach) (f : FnIx) (off v : Nat) (h : f.val < mgmtFn) :
    csrWriteAt (.bar0 f) off v m = m.bar0Write f off v := by
  unfold csrWriteAt
  exact m.when_pos _ _ (decide_eq_true h)

/-- A word of the mailbox takes the value. -/
theorem Mach.bar0Write_mbCmd (m : Mach) (f x : Nat) {i : Nat} (h : i < 8) :
    m.bar0Write f (0x2000 + 8 * i) x = m.onFn f fun y => { y with mbCmd := vset y.mbCmd i (BitVec.ofNat 64 x) } := by
  have hword : (0x2000 + 8 * i - 0x2000) / 8 = i := by omega
  unfold Mach.bar0Write
  rw [if_pos (by simp; omega), hword]

theorem Mach.bar0Write_intr (m : Mach) (f x : Nat) :
    m.bar0Write f 0x2090 x = m.onFn f fun y => { y with intr := bitOf x 0 } := rfl

/-- An offset that the core page's map does not give. -/
theorem Mach.fwCsrWrite_reserved (m : Mach) (c s o x : Nat) (h : (0x800 ≤ o ∧ o < 0x900) ∨ 0xB00 ≤ o) :
    m.fwCsrWrite c s o x = m := by
  unfold Mach.fwCsrWrite
  rw [if_neg (by omega), if_neg (by omega), if_neg (by omega), if_neg (by omega), if_neg (by omega)]
  obtain ⟨-, hhi⟩ | hlo := h
  · rw [if_pos hhi]
  · rw [if_neg (by omega), if_neg (by omega), if_neg (by omega), if_neg (by omega)]

/-- A core with a slot that is not EMPTY does not drop. -/
theorem Core.emptyDrop_occupied (k : Core) (h : k.allEmpty = false) : k.emptyDrop = k := by
  unfold Core.emptyDrop
  exact if_pos (by rw [h]; rfl)

/-- PWR_CTRL of a core that is not all EMPTY takes its fields. -/
theorem Mach.fwCsrWrite_pwrCtrl (m : Mach) (c s x : Nat) (h : (m.core c).allEmpty = false) :
    ((m.fwCsrWrite c s 0x924 x).core c).pwr = { (m.core c).pwr with
      edepth := BitVec.ofNat 2 x, lendDis := bitOf x 2, nofs := bitOf x 3, fwVoteCl := bitOf x 4, fwVoteBk := bitOf x 5 } := by
  have hrow : m.fwCsrWrite c s 0x924 x = (m.onCore c fun k => { k with pwr := { k.pwr with
      edepth := BitVec.ofNat 2 x, lendDis := bitOf x 2, nofs := bitOf x 3, fwVoteCl := bitOf x 4,
      fwVoteBk := bitOf x 5 } }).onCore c Core.emptyDrop := rfl
  have hstays (w : Pwr) : ({ m.core c with pwr := w } : Core).emptyDrop = { m.core c with pwr := w } :=
    Core.emptyDrop_occupied _ h
  rw [hrow, Mach.core_onCore_self, Mach.core_onCore_self, hstays]

theorem Mach.fwCsrWrite_resident (m : Mach) (c s x : Nat) :
    m.fwCsrWrite c s 0x704 x = m.onCore c fun k => { k with mem := { k.mem with resident := BitVec.ofNat 6 x } } := rfl

theorem Mach.fwCsrWrite_sentry (m : Mach) (c s x : Nat) : m.fwCsrWrite c s 0xA00 x = m.onSlot c s fun v =>
    { v with ali := { v.ali with frac := BitVec.ofNat 3 x, partner := BitVec.ofNat 17 (x / 256) } } := rfl

/-- Settles O23: detours, promotions and samples, and the registers that a write reaches. -/
theorem registersAndTablesOfRouters : Obligations.RegistersAndTablesOfRouters := by
  unfold Obligations.RegistersAndTablesOfRouters
  refine ⟨⟨?detours, ?hole, ?age, ?sample⟩, ?page, ?mbCmd, ?intr, Mach.fwCsrWrite_reserved, ?pwrCtrl, ?resident, ?sentry⟩
  case detours =>
    intro s c es hnone l
    refine ⟨_, exec_detourUpdate c es true s, rfl, ?_⟩
    rw [detourUpdateAt_proved s.m c es hnone]
    cases hclear : s.m.pathsClear c (s.m.detourOuts c l) with
    | true =>
      rw [if_pos rfl]
      refine ⟨fun _ => ⟨?_, rfl⟩, fun h => absurd h (by decide), fun d hd => ?_⟩
      · rw [State.to_m, Mach.core_canon, Mach.core_withNewDetours, Mach.core_onCore_self]
        rfl
      · have hne : d.val ≠ c.val := fun h => hd (Fin.ext h)
        rw [State.to_m, Mach.core_canon, Mach.core_withNewDetours, Mach.core_onCore_ne _ _ hne]
        exact Core.canon_same _
    | false =>
      rw [if_neg Bool.false_ne_true]
      refine ⟨fun h => absurd h (by decide), fun _ => ⟨?_, rfl⟩, fun d _ => Mach.core_canon_same _ _⟩
      rw [State.to_m, Mach.core_canon]
      rfl
  case hole =>
    intro s c es
    rw [exec_detourUpdate]
    rfl
  case age =>
    intro s c p ch det f fs key hp hbuf hhead hfresh hwaited
    obtain ⟨hcnt, hslots⟩ := (s.m.core c).setInBuf_keeps key ({ f with promoted := true } :: fs)
    refine ⟨_, exec_flitAgePromotion c p ch det s, rfl, ?_⟩
    rw [agePromoteAt_waited s.m c p ch det f fs hp hbuf hhead hfresh hwaited, State.core_to_onCore]
    rw [Core.canon_slots, Core.slots_rcount]
    refine ⟨?_, ?_, hslots⟩
    · rw [Core.inBuf_canon, Core.inBuf_rcount, Core.inBuf_setInBuf_self]
    · change Core.count _ cntAged = Core.count _ cntAged + 1
      rw [Core.count_canon, Core.count_rcount_self, hcnt]
      rfl
  case sample =>
    intro s c k hdue hok hring hcc
    refine ⟨_, exec_routerSample c s, rfl, ?_⟩
    rw [routerSampleAt_due s.m c hdue hok hring, State.core_to_onCore]
    obtain ⟨hsums, hsamples, hat⟩ := k.count_sampled s.m.cc hcc
    obtain ⟨hbufs, hslots⟩ := k.sampled_keeps s.m.cc
    rw [Core.canon_router, Core.canon_slots]
    exact ⟨hsums, hsamples, hat, hbufs, hslots⟩
  case page =>
    intro s c sl off v
    rw [exec_csrWrite]
    rfl
  case mbCmd =>
    intro s f i v hf
    have hoff : (BitVec.ofNat 24 (0x2000 + 8 * i.val)).toNat = 0x2000 + 8 * i.val := Nat.mod_eq_of_lt (by omega)
    rw [exec_csrWrite, hoff, csrWriteAt_bar0 _ _ _ _ hf, Mach.bar0Write_mbCmd _ _ _ i.isLt, BitVec.ofNat_toNat,
      BitVec.setWidth_eq]
  case intr =>
    intro s f v hf
    rw [exec_csrWrite, csrWriteAt_bar0 _ _ _ _ hf]
    rfl
  case pwrCtrl =>
    intro m c s x _ hocc w
    exact m.fwCsrWrite_pwrCtrl c s x hocc
  case resident => exact fun m c s x _ => m.fwCsrWrite_resident c s x
  case sentry =>
    intro m c s x hs a
    rw [m.fwCsrWrite_sentry, Mach.onSlot_eq, Mach.core_onCore_self, Core.slot_onSlot_self _ _ _ hs]

end Sys2Proof.Machine
end

section
/-! PROOF. Huddles: when one releases and a wait passes, and what a cycle's first signal makes of one (R216 to R222). -/

namespace Sys2Proof.Machine

open Sys2Proof

/-! ## Releases (R219) -/

theorem Huddle.met_iff (h : Huddle) :
    h.met = true ↔ h.state = 1 ∧ h.target ≠ 0 ∧ h.target.toNat ≤ h.count.toNat := by
  simp [Huddle.met, and_assoc]

/-- A huddle that is not ARMED, or has no target, meets no condition, whatever its count. -/
theorem Huddle.met_eq_false (h : Huddle) (hidle : h.target = 0 ∨ h.state ≠ 1) : h.met = false := by
  rw [← Bool.not_eq_true, Huddle.met_iff]
  rintro ⟨hst, htarget, -⟩
  exact hidle.elim htarget fun hne => hne hst

theorem Huddle.release_unmet (h : Huddle) (cc : Nat) (hm : h.met = false) : h.release cc = (h, false) := by
  simp [Huddle.release, hm]

theorem Huddle.release_barrier (h : Huddle) (cc : Nat) (hm : h.met = true) (hmode : h.mode = 0)
    (hat : h.releasedAt ≠ some cc) :
    h.release cc = ({ h with count := h.count - h.target, phase := h.phase + 1, releasedAt := some cc }, true) := by
  simp [Huddle.release, hm, hmode, hat]

/-- A barrier releases once in a cycle. -/
theorem Huddle.release_barrier_again (h : Huddle) (cc : Nat) (hmode : h.mode = 0) (hat : h.releasedAt = some cc) :
    h.release cc = (h, false) := by
  simp [Huddle.release, hmode, hat]

theorem Huddle.release_semaphore (h : Huddle) (cc : Nat) (hmode : h.mode = 1) : h.release cc = (h, false) := by
  simp [Huddle.release, hmode]

theorem Huddle.release_event (h : Huddle) (cc : Nat) (hm : h.met = true) (hmode : h.mode = 2) :
    h.release cc = ({ h with count := h.count - h.target, state := 2, releasedAt := some cc }, true) := by
  simp [Huddle.release, hm, hmode]

/-! ## Waits (R219, R220) -/

/-- The three modes of R216; the fourth value of the field names none. -/
theorem huddleMode_cases (b : BitVec 2) (h : b.toNat < 3) : b = 0 ∨ b = 1 ∨ b = 2 := by
  bv_omega

theorem hudPasses_iff (h : Huddle) (seen : BitVec 8) (cc : Nat) (hpass : h.passAt ≤ cc) (hmode : h.mode.toNat < 3) :
    hudPasses h seen cc = true ↔ h.state ≠ 0 ∧ (h.target = 0 ∨ (h.mode = 0 ∧ h.phase ≠ seen) ∨
      (h.mode = 1 ∧ h.state = 1 ∧ h.target.toNat ≤ h.count.toNat) ∨ (h.mode = 2 ∧ h.state = 2)) := by
  obtain hm | hm | hm := huddleMode_cases h.mode hmode <;> by_cases htarget : h.target = 0 <;>
    simp [hudPasses, hpass, hm, htarget]

/-- Armed with TARGET 0, a huddle lets every wait pass (R220). -/
theorem hudPasses_target_zero (h : Huddle) (seen : BitVec 8) (cc : Nat) (hpass : h.passAt ≤ cc) (hst : h.state ≠ 0)
    (htarget : h.target = 0) : hudPasses h seen cc = true := by
  simpa [hudPasses, hpass, htarget] using hst

theorem Core.hudPass_target_zero (k : Core) (s h cc : Nat) (ht : (k.huddle h).target = 0) : k.hudPass s h cc = k := by
  simp [Core.hudPass, ht]

theorem Core.hudPass_barrier (k : Core) (s h cc : Nat) (ht : (k.huddle h).target ≠ 0) (hm : (k.huddle h).mode = 0) :
    k.hudPass s h cc = k.onSlot s fun v =>
      { v with arch := { v.arch with seen := vset v.arch.seen h (vget v.arch.seen h + 1) } } := by
  unfold Core.hudPass
  extract_lets hud
  have hmode : hud.mode = 0 := hm
  rw [if_neg (mt beq_iff_eq.mp ht), hmode]
  rfl

theorem Core.hudPass_semaphore (k : Core) (s h cc : Nat) (ht : (k.huddle h).target ≠ 0) (hm : (k.huddle h).mode = 1) :
    k.hudPass s h cc = k.onHuddle h fun x =>
      { x with count := x.count - x.target,
               cyc := some { x.today cc with taken := (x.today cc).taken + x.target.toNat } } := by
  unfold Core.hudPass
  extract_lets hud
  have hmode : hud.mode = 1 := hm
  rw [if_neg (mt beq_iff_eq.mp ht), hmode]
  rfl

theorem Core.hudPass_event (k : Core) (s h cc : Nat) (hm : (k.huddle h).mode = 2) : k.hudPass s h cc = k := by
  simp [Core.hudPass, hm]

/-! ## What a cycle brings a huddle (R222) -/

/-- The record of a cycle that has brought a huddle nothing yet. -/
def Huddle.newCycle (h : Huddle) (cc : Nat) : HudCyc :=
  { at_ := cc, count := h.count, target := h.target, mode := h.mode, state := h.state, phase := h.phase, sat := h.sat,
    passAt := h.passAt, releasedAt := h.releasedAt }

theorem Huddle.today_new (h : Huddle) (cc : Nat) (hnew : ∀ y, h.cyc = some y → y.at_ ≠ cc) : h.today cc = h.newCycle cc := by
  unfold Huddle.today
  cases hcyc : h.cyc with
  | none => rfl
  | some y => exact if_neg (hnew y hcyc)

/-- A cycle's record with one more signal, of the core itself or from another one (R218). -/
def HudCyc.signalled (y : HudCyc) (amount : Nat) (own : Bool) : HudCyc :=
  if own then { y with locals := y.locals + amount } else { y with remotes := y.remotes + amount }

theorem Core.signal_zero (k : Core) (h cc : Nat) (own : Bool) : k.signal h 0 cc own = k := rfl

theorem Core.signal_pos (k : Core) (h cc : Nat) (own : Bool) {amount : Nat} (hpos : 0 < amount) :
    k.signal h amount cc own = k.hudInput h cc fun y => y.signalled amount own := by
  rw [Core.signal, if_neg (Nat.ne_of_gt hpos)]
  rfl

/-- A huddle with the first signals of a cycle counted, COUNT saturated and nothing released (R218). -/
def Huddle.counted (h : Huddle) (amount : Nat) : Huddle :=
  { h with count := BitVec.ofNat 24 (min (h.count.toNat + amount) 0xFFFFFF),
           sat := h.sat || 0xFFFFFF < h.count.toNat + amount }

theorem Huddle.counted_count (h : Huddle) (amount : Nat) :
    (h.counted amount).count.toNat = min (h.count.toNat + amount) 0xFFFFFF := by
  rw [Huddle.counted, BitVec.toNat_ofNat]
  omega

/-- Nothing new leaves a huddle as it is. -/
theorem Huddle.counted_zero (h : Huddle) : h.counted 0 = h := by
  have hlt := h.count.isLt
  have hsat : ¬0xFFFFFF < h.count.toNat := by omega
  have hcount : min h.count.toNat 0xFFFFFF = h.count.toNat := by omega
  simp [Huddle.counted, hsat, hcount]

/-- A huddle with what a cycle has brought it applied, before its release is evaluated (R222). -/
def Huddle.brought (h : Huddle) (cc : Nat) (y : HudCyc) : Huddle :=
  let armed := y.armed.getD (y.target, y.mode)
  { h with count := BitVec.ofNat 24 (min y.total 0xFFFFFF - y.taken), target := armed.1, mode := armed.2,
           state := if y.armed.isSome then 1 else y.state, phase := y.phase, sat := y.sat || 0xFFFFFF < y.total,
           passAt := if y.armed.isSome then cc + 1 else y.passAt, releasedAt := y.releasedAt }

theorem Huddle.settle_unmet (h : Huddle) (cc : Nat) (y : HudCyc) (hm : (h.brought cc y).met = false) :
    h.settle cc y = (h.brought cc y, false) := by
  unfold Huddle.settle
  extract_lets armed b at_ r sem
  have hb : b.met = false := hm
  have hr : r = (b, false) := b.release_unmet cc hb
  have hsem : sem = false := by simp [sem, hb]
  rw [hr, hsem, if_neg Bool.false_ne_true, if_neg Bool.false_ne_true]
  rfl

/-- A release that the core's own signals of the cycle make no difference to lets waits pass from the next cycle on (R54). -/
theorem Huddle.settle_released (h h' : Huddle) (cc : Nat) (y : HudCyc) (hr : (h.brought cc y).release cc = (h', true))
    (hfar : (h.brought cc y).target.toNat + y.taken ≤ y.base + y.remotes) :
    h.settle cc y = ({ h' with passAt := cc + 1 }, true) := by
  unfold Huddle.settle
  extract_lets armed b at_ r sem
  have hat : at_ = cc + 1 := if_pos hfar
  have hreleased : r.2 = true := congrArg Prod.snd hr
  obtain rfl : r.1 = h' := congrArg Prod.fst hr
  rw [if_pos hreleased, hat]

theorem Huddle.brought_signalled (h : Huddle) (cc amount : Nat) (own : Bool) :
    h.brought cc ((h.newCycle cc).signalled amount own) = h.counted amount := by
  cases own <;> simp [Huddle.brought, HudCyc.signalled, Huddle.newCycle, HudCyc.total, HudCyc.base, Huddle.counted]

/-! ## An input of a huddle and the core around it (R218, R221, R222) -/

theorem Core.wakeOwner_huddles (k : Core) (owner : Option (BitVec 10)) (cc : Nat) :
    (k.wakeOwner owner cc).huddles = k.huddles := by
  cases owner <;> rfl

/-- An input whose outcome wakes nobody, in a cycle in which the huddle has woken nobody before, changes the huddle alone. -/
theorem Core.hudInput_quiet (k : Core) (h cc : Nat) (f : HudCyc → HudCyc) (y : HudCyc) (x : Huddle)
    (hy : f ((k.huddle h).today cc) = y) (hx : (k.huddle h).settle cc y = (x, false)) (hw : y.woke = false) :
    k.hudInput h cc f = k.onHuddle h fun _ => { x with cyc := some y } := by
  have hasleep : { y with woke := false } = y := by rw [← hw]
  simp [Core.hudInput, hy, hx, hw, hasleep]

/-- An input whose outcome is a release: the huddle after it; the slots of its owner wake. -/
theorem Core.huddle_hudInput_released (k : Core) (h cc : Nat) (f : HudCyc → HudCyc) (y : HudCyc) (x : Huddle) (hh : h < 32)
    (hy : f ((k.huddle h).today cc) = y) (hx : (k.huddle h).settle cc y = (x, true)) :
    (k.hudInput h cc f).huddle h = { x with cyc := some { y with woke := true } } := by
  simp only [Core.hudInput, hy, hx, if_true]
  rw [Core.huddle, Core.wakeOwner_huddles, ← Core.huddle, Core.huddle_onHuddle_self _ _ _ hh]

/-- The first signal of a cycle at a huddle whose condition no count can meet is counted, and changes nothing else of the
core. -/
theorem Core.signal_unmet (k : Core) (h amount cc : Nat) (own : Bool) (hpos : 0 < amount)
    (hidle : (k.huddle h).target = 0 ∨ (k.huddle h).state ≠ 1)
    (hnew : ∀ y, (k.huddle h).cyc = some y → y.at_ ≠ cc) : ∃ y : HudCyc,
    k.signal h amount cc own = k.onHuddle h fun x => { x.counted amount with cyc := some y } := by
  have hbrought := (k.huddle h).brought_signalled cc amount own
  have hunmet : ((k.huddle h).counted amount).met = false := Huddle.met_eq_false _ hidle
  have hsettle := (k.huddle h).settle_unmet cc _ (hbrought ▸ hunmet)
  rw [hbrought] at hsettle
  rw [k.signal_pos h cc own hpos]
  exact ⟨_, k.hudInput_quiet h cc _ _ _ (by rw [Huddle.today_new _ _ hnew]) hsettle (by cases own <;> rfl)⟩

/-! ## Releases and waits together -/

/-- Settles O57: the lemmas on a release, on a wait that passes, and on a signal at a huddle that has no target. -/
theorem huddlesReleaseAndPass : Obligations.HuddlesReleaseAndPass := by
  unfold Obligations.HuddlesReleaseAndPass
  refine ⟨?releases, ?stays, fun h seen cc hpass hmode _ => hudPasses_iff h seen cc hpass hmode, ?passes, ?noTarget⟩
  case releases =>
    intro h cc htarget hst hcount hat
    have hm : h.met = true := h.met_iff.mpr ⟨hst, htarget, hcount⟩
    exact ⟨fun hmode => h.release_barrier cc hm hmode hat, h.release_semaphore cc, h.release_event cc hm⟩
  case stays =>
    rintro h cc (hst | hcount | htarget | ⟨hmode, hat⟩)
    · exact h.release_unmet cc (h.met_eq_false (.inr hst))
    · refine h.release_unmet cc (Bool.eq_false_iff.mpr fun hm => ?_)
      obtain ⟨-, -, hle⟩ := h.met_iff.mp hm
      omega
    · exact h.release_unmet cc (h.met_eq_false (.inl htarget))
    · exact h.release_barrier_again cc hmode hat
  case passes =>
    intro k sl h cc hsl hh
    refine ⟨k.hudPass_target_zero sl h cc, fun ht hm => ?_, fun ht hm => ?_, fun _ hm => k.hudPass_event sl h cc hm⟩
    · rw [k.hudPass_barrier sl h cc ht hm, Core.slot_onSlot_self _ _ _ hsl]
      exact ⟨rfl, rfl⟩
    · rw [k.hudPass_semaphore sl h cc ht hm, Core.huddle_onHuddle_self _ _ _ hh]
      exact ⟨rfl, rfl, rfl, rfl, rfl⟩
  case noTarget =>
    intro k h amount cc own hh ht hst hnew
    obtain rfl | hpos := Nat.eq_zero_or_pos amount
    · have hcount := (k.huddle h).counted_count 0
      rw [Huddle.counted_zero] at hcount
      rw [Core.signal_zero]
      exact ⟨hcount, ht, rfl, rfl, fun seen hpass => hudPasses_target_zero _ seen cc hpass hst ht⟩
    · obtain ⟨y, hsig⟩ := k.signal_unmet h amount cc own hpos (.inl ht) hnew
      have hx : (k.signal h amount cc own).huddle h = { (k.huddle h).counted amount with cyc := some y } := by
        rw [hsig, Core.huddle_onHuddle_self _ _ _ hh]
      have hslots : (k.signal h amount cc own).slots = k.slots := by rw [hsig]; rfl
      dsimp only
      rw [hx, hslots]
      exact ⟨Huddle.counted_count _ amount, ht, rfl, rfl, fun seen hpass => hudPasses_target_zero _ seen cc hpass hst ht⟩

end Sys2Proof.Machine
end

section
/-! PROOF. Signals at their huddle, barriers that release again, and waits that time out (R216, R219, R225 to R227). -/

namespace Sys2Proof.Machine

open Sys2Proof

/-! ## What the rows run -/

theorem exec_meshSignal (c : CoreIx) (s : State) : exec (.meshSignal c) s = .next (s.to (meshSignalAt c s.m)) := rfl
theorem exec_huddleRepeatRelease (c : CoreIx) (h : HudIx) (s : State) :
    exec (.huddleRepeatRelease c h) s = .next (s.to (repeatReleaseAt c h s.m)) := rfl
theorem exec_hudWaitTimeout (c : CoreIx) (sl : SlotIx) (s : State) :
    exec (.hudWaitTimeout c sl) s = .next (s.to (hudTimeoutAt c sl s.m)) := rfl

/-! ## MESH_SIGNAL (R225, R226) -/

theorem meshSignalAt_huddle (m : Mach) (c : Nat) (f : Flit) (fs : List Flit) (hmsg : (m.core c).loMsg 5 = some (f, fs))
    (hop : f.op = 3) (hrun : (m.core c).clocksRun m.cc = true) (hans : m.canAnswer c 1 1 f = true)
    (hspace : reqSpace f = 3) (hoff : reqOff f < 32) :
    meshSignalAt c m = (m.onCore c fun k => k.loDrop 5).onCore c fun k => k.remoteSig (reqOff f) f m.cc m.now := by
  unfold meshSignalAt
  rw [hmsg]
  dsimp only
  rw [Mach.when_pos _ _ _ (by simp [hop, hrun, hans]), if_pos (by simp [hspace, hoff])]
  rfl

section
variable (k : Core) (h : Nat) (f : Flit) (cc : Nat) (now : BitVec 64)

theorem Core.remoteSig_zero (hamount : fld f.pay.toNat 0 16 = 0) : k.remoteSig h f cc now = k := if_pos hamount

theorem Core.remoteSig_duplicate (hamount : fld f.pay.toNat 0 16 ≠ 0)
    (hledger : (k.huddle h).ledger.any (sameSignal (sigIdent f now)) = true) :
    k.remoteSig h f cc now = { k with hudDup := k.hudDup + 1 } := by
  simp only [Core.remoteSig, if_neg hamount, if_pos hledger]

/-- A retransmission that may have been applied before its entry left the ledger (R226). -/
theorem Core.remoteSig_unsure (hamount : fld f.pay.toNat 0 16 ≠ 0)
    (hledger : (k.huddle h).ledger.any (sameSignal (sigIdent f now)) = false) (hresent : bitOf f.pay.toNat 51 = true)
    (hfloor : (k.huddle h).floor ≠ 0) (hissue : fld f.pay.toNat 64 64 ≤ (k.huddle h).floor.toNat) :
    k.remoteSig h f cc now = { k.onHuddle h (fun x => { x with unsure := true, unsureAt := some cc }) with
      hudUnsure := k.hudUnsure + 1 } := by
  have hold : (bitOf f.pay.toNat 51 && (k.huddle h).floor != 0 &&
      decide (fld f.pay.toNat 64 64 ≤ (k.huddle h).floor.toNat)) = true := by
    rw [hresent, bne_iff_ne.mpr hfloor, decide_eq_true hissue]
    rfl
  simp only [Core.remoteSig, if_neg hamount, hledger, Bool.false_eq_true, if_false, if_pos hold]

theorem Core.remoteSig_applied (hamount : fld f.pay.toNat 0 16 ≠ 0)
    (hledger : (k.huddle h).ledger.any (sameSignal (sigIdent f now)) = false) (hfirst : bitOf f.pay.toNat 51 = false) :
    k.remoteSig h f cc now =
      (k.onHuddle h fun x => x.enter (sigIdent f now)).signal h (fld f.pay.toNat 0 16) cc false := by
  simp only [Core.remoteSig, if_neg hamount, hledger, hfirst, Bool.false_eq_true, if_false, Bool.false_and]

end

/-! ## HUDDLE_REPEAT_RELEASE (R219) -/

theorem repeatReleaseAt_due (m : Mach) (c h : Nat) (hm : ((m.core c).huddle h).met = true)
    (hmode : ((m.core c).huddle h).mode = 0) (hat : ((m.core c).huddle h).releasedAt ≠ some m.cc) :
    repeatReleaseAt c h m = m.onCore c fun k => k.hudInput h m.cc id := by
  unfold repeatReleaseAt
  extract_lets hud
  have hmet : hud.met = true := hm
  have hbarrier : hud.mode = 0 := hmode
  have hagain : hud.releasedAt ≠ some m.cc := hat
  exact Mach.when_pos _ _ _ (by simp [hmet, hbarrier, hagain])

/-- A cycle that has brought a huddle nothing leaves it as it is. -/
theorem Huddle.brought_newCycle (h : Huddle) (cc : Nat) : h.brought cc (h.newCycle cc) = h := by
  have hno : (h.newCycle cc).signalled 0 true = h.newCycle cc := rfl
  rw [← hno, Huddle.brought_signalled, Huddle.counted_zero]

/-- A barrier whose condition still holds releases again, as the first thing that happens to it in a cycle. -/
theorem Core.huddle_hudInput_again (k : Core) (h cc : Nat) (hh : h < 32) (hm : (k.huddle h).met = true)
    (hmode : (k.huddle h).mode = 0) (hat : (k.huddle h).releasedAt ≠ some cc)
    (hnew : ∀ y, (k.huddle h).cyc = some y → y.at_ ≠ cc) : (k.hudInput h cc id).huddle h =
      { k.huddle h with count := (k.huddle h).count - (k.huddle h).target, phase := (k.huddle h).phase + 1,
                        releasedAt := some cc, passAt := cc + 1,
                        cyc := some { (k.huddle h).today cc with woke := true } } := by
  obtain ⟨-, -, hcount⟩ := (k.huddle h).met_iff.mp hm
  have hbrought := (k.huddle h).brought_newCycle cc
  have hsettle := (k.huddle h).settle_released _ cc ((k.huddle h).newCycle cc)
    (by rw [hbrought]; exact (k.huddle h).release_barrier cc hm hmode hat) (by rw [hbrought]; exact hcount)
  rw [k.huddle_hudInput_released h cc id _ _ hh ((k.huddle h).today_new cc hnew) hsettle, (k.huddle h).today_new cc hnew]

/-! ## HUD_WAIT_TIMEOUT (R227) -/

/-- A slot whose HUD.WAIT on huddle h has reached its limit. -/
def Slot.timedOut (v : Slot) (h cc : Nat) : Slot :=
  let v := v.note 4 cc v.ali.hstat.toNat (h + 32)
  { v with ali := { v.ali with hstat := BitVec.ofNat 6 (h + 32) }, run := { v.run with tmo := true } }

theorem hudTimeoutAt_due (m : Mach) (c s b w : Nat) (hst : ((m.core c).slot s).ctl.st = .running)
    (hlimit : ((m.core c).slot s).ali.hlimit ≠ 0) (htmo : ((m.core c).slot s).run.tmo = false)
    (hsince : ((m.core c).slot s).run.hwSince = some w) (hlate : w + ((m.core c).slot s).ali.hlimit.toNat ≤ m.now.toNat)
    (hb : ((m.core c).slot s).bundle = some b) :
    hudTimeoutAt c s m = m.onSlot c s fun v => v.timedOut (sImm (bS b) % 32) m.cc := by
  unfold hudTimeoutAt
  dsimp only
  rw [hsince, hb, Mach.when_pos _ _ _ (by rw [hst, htmo, bne_iff_ne.mpr hlimit]; simpa using hlate)]
  rfl

/-! ## Signals, releases and time-outs together -/

/-- Settles O19: each row's lemma, and the lemmas on a signal at its huddle. -/
theorem signalsAndReleases : Obligations.SignalsAndReleases := by
  unfold Obligations.SignalsAndReleases
  refine ⟨⟨?mesh, Core.remoteSig_zero, Core.remoteSig_duplicate, ?unsure, Core.remoteSig_applied, ?counts⟩, ?again, ?timeout⟩
  case mesh =>
    intro s c f fs k hmsg hop hrun hans hspace hoff
    rw [exec_meshSignal, meshSignalAt_huddle s.m c f fs hmsg hop hrun hans hspace hoff]
  case unsure =>
    intro k h f cc now hh hamount hledger hresent hfloor hissue
    rw [k.remoteSig_unsure h f cc now hamount hledger hresent hfloor hissue]
    exact ⟨k.huddle_onHuddle_self h (fun x => { x with unsure := true, unsureAt := some cc }) hh, rfl, rfl⟩
  case counts =>
    intro k h amount cc own hh hpos hst hnew
    obtain ⟨y, hsig⟩ := k.signal_unmet h amount cc own hpos (.inr hst) hnew
    rw [hsig, Core.huddle_onHuddle_self _ _ _ hh]
    exact ⟨Huddle.counted_count _ amount, rfl, rfl, rfl, rfl⟩
  case again =>
    intro s c h x hm hmode hat
    have hrow := repeatReleaseAt_due s.m c h hm hmode hat
    rw [exec_huddleRepeatRelease, hrow]
    refine ⟨rfl, fun hnew => ⟨_, rfl, rfl, ?_⟩⟩
    rw [State.core_to_onCore, Core.huddle_canon]
    exact Core.huddle_hudInput_again _ h s.m.cc h.isLt hm hmode hat hnew
  case timeout =>
    intro s c sl b w v hst hlimit htmo hsince hlate hb
    have hcore (i : Nat) : ((s.to (hudTimeoutAt c sl s.m)).m.core c).slot i =
        ((s.m.core c).onSlot sl fun v => v.timedOut (sImm (bS b) % 32) s.m.cc).slot i := by
      rw [hudTimeoutAt_due s.m c sl b w hst hlimit htmo hsince hlate hb, Mach.onSlot_eq, State.core_to_onCore,
        Core.slot_canon]
    refine ⟨_, exec_hudWaitTimeout c sl s, rfl, ?_⟩
    rw [hcore, Core.slot_onSlot_self _ _ _ sl.isLt]
    exact ⟨rfl, rfl, rfl, rfl, fun i hi => by rw [hcore, Core.slot_onSlot_ne _ _ (Fin.val_ne_of_ne hi)]⟩

end Sys2Proof.Machine
end

section
/-! PROOF. Messages that land in a queue, are held, stall and meet HOLDCAP (R208, R210 to R212, R275). -/

namespace Sys2Proof.Machine

open Sys2Proof

/-! ## What the rows run -/

theorem exec_meshMsg (c : CoreIx) (ch : ChanIx) (s : State) :
    exec (.meshMsg c ch) s = .next (s.to (meshMsgAt c ch s.m)) := rfl
theorem exec_heldMessageLand (c : CoreIx) (ch : ChanIx) (s : State) :
    exec (.heldMessageLand c ch) s = .next (s.to (heldLandAt c ch s.m)) := rfl
theorem exec_queueStall (c : CoreIx) (ch : ChanIx) (s : State) :
    exec (.queueStall c ch) s = .next (s.to (queueStallAt c ch s.m)) := rfl
theorem exec_holdcapHalt (c : CoreIx) (q : QueueIx) (s : State) :
    exec (.holdcapHalt c q) s = .next (s.to (holdcapHaltAt c q s.m)) := rfl

/-! ## Queues of a core -/

theorem Core.queue_onQueue_ne (k : Core) (f : Queue → Queue) {q r : Nat} (h : r ≠ q) :
    (k.onQueue q f).queue r = k.queue r := by
  simp [Core.queue, Core.onQueue, vget_vset_ne _ _ h]

@[simp] theorem Core.queue_loDrop (k : Core) (key i : Nat) : (k.loDrop key).queue i = k.queue i := by
  obtain ⟨r, h⟩ := k.loDrop_router key
  rw [h]
  rfl

theorem Core.queue_noteActive (k : Core) (s i : Nat) : (k.noteActive s).queue i = k.queue i := rfl

/-! ## Landing and holding (R210, R211) -/

/-- A message for a queue that is not in backstop state lands, or is held from this cycle on. -/
theorem meshMsgAt_queue (m : Mach) (c ch q : Nat) (f : Flit) (fs : List Flit) (hmsg : (m.core c).loMsg ch = some (f, fs))
    (hch : ch = 2 ∨ ch = 3) (hop : f.op = 2) (hfree : aget (m.core c).router.heldSince ch = none)
    (hroom : m.landRoom c f = true) (hq : msgQueue f = some q) (hback : (m.core c).inBackstop q = false) :
    meshMsgAt c ch m = if (m.core c).accepts q m.cc then m.land c ch q f fs
      else m.onCore c fun k => { k with router := { k.router with heldSince := aset k.router.heldSince ch m.cc } } := by
  unfold meshMsgAt
  rw [hmsg]
  dsimp only
  rw [Mach.when_pos _ _ _ (by simp [hch, hop, hfree, hroom]), hq]
  dsimp only
  rw [hback, if_neg Bool.false_ne_true]

theorem heldLandAt_room (m : Mach) (c ch q t : Nat) (f : Flit) (fs : List Flit) (hmsg : (m.core c).loMsg ch = some (f, fs))
    (hq : msgQueue f = some q) (hheld : aget (m.core c).router.heldSince ch = some t) (hch : ch < 16) (hop : f.op = 2)
    (hroom : m.landRoom c f = true) (hback : (m.core c).inBackstop q = false) (hacc : (m.core c).accepts q m.cc = true) :
    heldLandAt c ch m = m.land c ch q f fs := by
  unfold heldLandAt
  rw [hmsg]
  dsimp only
  rw [hq, hheld]
  exact Mach.when_pos _ _ _ (by simp [hch, hop, hroom, hback, hacc])

/-- A core with the message at the head of a local output put at the end of a queue. -/
def Core.landed (k : Core) (ch q : Nat) (x : QMsg) : Core :=
  let k := (k.loDrop ch).onQueue q fun y => { y with msgs := y.msgs ++ [x] }
  k.noteActive (k.queue q).slot.toNat

/-- A message that is neither logged nor to be acknowledged changes its queue's core alone. -/
theorem Mach.land_plain (m : Mach) (c ch q : Nat) (f : Flit) (fs : List Flit) (hmarked : f.marked = false)
    (hwhy : f.why = .none) (hattach : f.attach = false) :
    m.land c ch q f fs = m.onCore c fun k => k.landed ch q (qMsgOf fs f m.cc m.now) := by
  simp [Mach.land, Mach.markLanding, Mach.finish, hmarked, hwhy, hattach, Core.landed]

theorem Core.queue_landed_self (k : Core) (ch q : Nat) (x : QMsg) (hq : q < 8) :
    (k.landed ch q x).queue q = { k.queue q with msgs := (k.queue q).msgs ++ [x] } := by
  simp [Core.landed, Core.queue_noteActive, hq]

theorem Core.queue_landed_ne (k : Core) (ch : Nat) (x : QMsg) {q r : Nat} (h : r ≠ q) :
    (k.landed ch q x).queue r = k.queue r := by
  simp [Core.landed, Core.queue_noteActive, Core.queue_onQueue_ne _ _ h]

/-! ## QUEUE_STALL (R212) -/

theorem queueStallAt_due (m : Mach) (c ch q t : Nat) (x : Flit × List Flit) (hmsg : (m.core c).loMsg ch = some x)
    (hq : msgQueue x.1 = some q) (hheld : aget (m.core c).router.heldSince ch = some t) (hch : ch < 16)
    (hlate : t + 65536 ≤ m.cc) (honce : aget (m.core c).router.heldSince (ch + 16) = none) :
    queueStallAt c ch m = (m.onCore c fun k => { k with
        holdDue := (k.holdDue.filter fun x => x != q) ++ [q],
        router := { k.router with heldSince := aset k.router.heldSince (ch + 16) q } }).raiseOwner ((m.core c).queueCid q)
      (m.event 3 ((m.core c).queueCid q) (m.logical c) ((m.core c).queue q).slot.toNat q 0) := by
  unfold queueStallAt
  dsimp only
  rw [hmsg, Option.bind_some, hq, hheld]
  dsimp only
  rw [Mach.when_pos _ _ _ (by simp [hch, hlate, honce]), Mach.logical, Mach.core_onCore_self]
  rfl

/-! ## HOLDCAP_HALT (R275) -/

/-- Of the cores, a halt that is imposed changes the slot it halts alone. -/
theorem Mach.core_forceHaltAt (m : Mach) (c s cause d : Nat) (hr : m.resetting c s = false) :
    (m.forceHaltAt c s cause).core d = (m.onSlot c s fun v => forceHalt v cause).core d := by
  unfold Mach.forceHaltAt
  rw [hr, if_neg Bool.false_ne_true]
  extract_lets m'
  split
  case h_4 => exact m'.core_faultEvent c s cause d
  all_goals rfl

theorem forceHalt_running (v : Slot) (cause : Nat) (h : v.ctl.st = .running) :
    (forceHalt v cause).ctl = haltCtl v.ctl cause true v.ctl.pc.toNat 0 := by
  simp [forceHalt, h]

/-- Whether faults of a slot are discarded is read from its context's state (R279). -/
theorem Mach.resetting_of_live (m : Mach) (c s : Nat) (x : Ctx) (hx : m.ctx ((m.core c).slot s).ctl.cid.toNat = some x)
    (hreset : x.st ≠ .resetting) (hdestroy : x.st ≠ .destroying) : m.resetting c s = false := by
  unfold Mach.resetting
  rw [hx]
  simp [hreset, hdestroy]

/-- A core without the messages that its local outputs hold for a queue. -/
def Core.dropHeldFor (k : Core) (q : Nat) : Core :=
  [2, 3].foldl (fun k ch => match (k.loMsg ch).bind (fun x => msgQueue x.1) with
    | some q' => if q' = q then k.loDrop ch else k
    | none => k) k

/-- A core whose hold at a queue has ended with HOLDCAP: the queue empty, the messages held for it discarded. -/
def Core.holdEnded (k : Core) (q : Nat) : Core :=
  ({ k with holdDue := k.holdDue.filter (· != q) }.onQueue q fun x => { x with msgs := [] }).dropHeldFor q

theorem holdcapHaltAt_due (m : Mach) (c q : Nat) (x : Ctx) (hdue : (m.core c).holdDue.contains q = true)
    (hx : m.ctx ((m.core c).queueCid q) = some x) (hcap : x.dead.holdcap = true) :
    holdcapHaltAt c q m = ((m.forceHaltAt c ((m.core c).queue q).slot.toNat 7).onCore c fun k => k.holdEnded q).onCtx
      ((m.core c).queueCid q) fun x => { x with prog := { x.prog with holdHalts := x.prog.holdHalts + 1 } } := by
  unfold holdcapHaltAt
  dsimp only
  rw [Mach.when_pos _ _ _ (by rw [hdue, hx]; exact hcap)]
  rfl

/-- Discarding held messages changes the router alone. -/
theorem Core.dropHeldFor_router (k : Core) (q : Nat) : ∃ r, k.dropHeldFor q = { k with router := r } := by
  unfold Core.dropHeldFor
  generalize [2, 3] = l
  induction l generalizing k with
  | nil => exact ⟨k.router, rfl⟩
  | cons ch l ih =>
    rw [List.foldl_cons]
    split
    · split
      · obtain ⟨r, hr⟩ := k.loDrop_router ch
        obtain ⟨r', hr'⟩ := ih (k.loDrop ch)
        exact ⟨r', by rw [hr', hr]⟩
      · exact ih k
    · exact ih k

@[simp] theorem Core.slot_dropHeldFor (k : Core) (q i : Nat) : (k.dropHeldFor q).slot i = k.slot i := by
  obtain ⟨r, hr⟩ := k.dropHeldFor_router q
  rw [hr]
  rfl
@[simp] theorem Core.queue_dropHeldFor (k : Core) (q i : Nat) : (k.dropHeldFor q).queue i = k.queue i := by
  obtain ⟨r, hr⟩ := k.dropHeldFor_router q
  rw [hr]
  rfl

theorem Core.slot_holdEnded (k : Core) (q i : Nat) : (k.holdEnded q).slot i = k.slot i := Core.slot_dropHeldFor _ q i

theorem Core.msgs_holdEnded (k : Core) (q : Nat) (hq : q < 8) : ((k.holdEnded q).queue q).msgs = [] := by
  rw [Core.holdEnded, Core.queue_dropHeldFor, Core.queue_onQueue_self _ q _ hq]

/-- The core of a queue whose hold ends with HOLDCAP. -/
theorem core_holdcapHaltAt (m : Mach) (c q : Nat) (x : Ctx) (hdue : (m.core c).holdDue.contains q = true)
    (hx : m.ctx ((m.core c).queueCid q) = some x) (hcap : x.dead.holdcap = true) (hreset : x.st ≠ .resetting)
    (hdestroy : x.st ≠ .destroying) : (holdcapHaltAt c q m).core c =
      ((m.core c).onSlot ((m.core c).queue q).slot.toNat fun v => forceHalt v 7).holdEnded q := by
  have hlive := m.resetting_of_live c _ x hx hreset hdestroy
  rw [holdcapHaltAt_due m c q x hdue hx hcap, Mach.core_onCtx, Mach.core_onCore_self, m.core_forceHaltAt c _ 7 c hlive,
    Mach.onSlot_eq, Mach.core_onCore_self]

/-! ## Messages together -/

/-- Settles O18: the lemmas on landing, stalls and HOLDCAP. -/
theorem messagesLandOrAreHeld : Obligations.MessagesLandOrAreHeld := by
  unfold Obligations.MessagesLandOrAreHeld
  refine ⟨⟨?lands, ?held, ?landing⟩, ?later, ?stall, ?holdcap⟩
  case lands =>
    intro s c ch q f fs k hmsg hch hop hfree hroom hq hback hacc
    rw [exec_meshMsg, meshMsgAt_queue s.m c ch q f fs hmsg hch hop hfree hroom hq hback, if_pos hacc]
  case held =>
    intro s c ch q f fs k hmsg hch hop hfree hroom hq hback hacc
    rw [exec_meshMsg, meshMsgAt_queue s.m c ch q f fs hmsg hch hop hfree hroom hq hback,
      if_neg (Bool.eq_false_iff.mp hacc)]
  case landing =>
    intro m c ch q f fs hmarked hwhy hattach hq
    rw [m.land_plain c ch q f fs hmarked hwhy hattach, Mach.core_onCore_self]
    exact ⟨Core.queue_landed_self _ ch q _ hq, fun r hr => Core.queue_landed_ne _ ch _ hr⟩
  case later =>
    intro s c ch q t f fs k hmsg hq hheld hop hroom hback hacc
    rw [exec_heldMessageLand, heldLandAt_room s.m c ch q t f fs hmsg hq hheld (by omega) hop hroom hback hacc]
  case stall =>
    intro s c ch q t x k hmsg hq hheld hlate honce
    rw [exec_queueStall, queueStallAt_due s.m c ch q t x hmsg hq hheld (by omega) hlate honce]
  case holdcap =>
    intro s c q x k hdue hx hcap hreset hdestroy hst
    have hslot : (k.queue q).slot.toNat < 4 := (k.queue q).slot.isLt
    refine ⟨_, exec_holdcapHalt c q s, rfl, ?_⟩
    rw [State.to_m, Mach.core_canon, Core.slot_canon, Core.queue_canon,
      core_holdcapHaltAt s.m c q x hdue hx hcap hreset hdestroy, Core.slot_holdEnded, Core.slot_onSlot_self _ _ _ hslot,
      forceHalt_running _ 7 hst]
    exact ⟨rfl, rfl, Core.msgs_holdEnded _ q q.isLt⟩

end Sys2Proof.Machine
end

section
/-! PROOF. Stall-idle and its ramp, and the under-bank's tiers (R173, R174, R235, R236, R368, R378). -/

namespace Sys2Proof.Machine

open Sys2Proof

/-! ## What the rows run -/

theorem exec_stallIdleEntry (c : CoreIx) (s : State) : exec (.stallIdleEntry c) s = .next (s.to (stallEntryAt c s.m)) := rfl
theorem exec_stallIdleExit (c : CoreIx) (s : State) : exec (.stallIdleExit c) s = .next (s.to (stallExitAt c s.m)) := rfl
theorem exec_throttleRampStep (c : CoreIx) (s : State) :
    exec (.throttleRampStep c) s = .next (s.to (rampStepAt c s.m)) := rfl
theorem exec_tierSelfRefreshEntry (c : CoreIx) (t : TierIx) (s : State) :
    exec (.tierSelfRefreshEntry c t) s = .next (s.to (tierRestAt c t s.m)) := rfl
theorem exec_tierWake (c : CoreIx) (t : TierIx) (s : State) :
    exec (.tierWake c t) s = .next (s.to (tierWakeAt c t s.m)) := rfl
theorem exec_tierTemperatureChange (c : CoreIx) (t : TierIx) (deg : BitVec 8) (s : State) :
    exec (.tierTemperatureChange c t deg) s = .next (s.to (tierTempAt c t deg s.m)) := rfl

/-! ## Stall-idle (R235, R236) -/

theorem stallEntryAt_due (m : Mach) (c w : Nat) (hon : (m.core c).pwr.logic = .on) (hstall : (m.core c).pwr.stall = false)
    (hlend : (m.core c).pwr.lendDis = false) (hwait : (m.core c).pwr.waitSince = some w) (hlate : w + 2400 ≤ m.cc) :
    stallEntryAt c m = m.onCore c fun k => { k with pwr := { k.pwr with
      stall := true, lending := true, waitSince := none } } := by
  unfold stallEntryAt
  dsimp only
  exact Mach.when_pos _ _ _ (by simp [hon, hstall, hlend, hwait, hlate])

theorem stallExitAt_ready (m : Mach) (c : Nat) (hstall : (m.core c).pwr.stall = true)
    (hready : ([0, 1, 2, 3].any fun i => (m.cycleStart c).blockAt c i == 0) = true) :
    stallExitAt c m = (m.countCycle c).2.onCore c fun k => { k with pwr := { k.pwr with
      stall := false, lending := false, ramp := some ((m.countCycle c).2.cc, 0) } } :=
  Mach.when_pos _ _ _ (by rw [hstall, hready]; rfl)

theorem rampStepAt_due (m : Mach) (c start step : Nat) (hramp : (m.core c).pwr.ramp = some (start, step))
    (hlate : start + 1500 * (step + 1) ≤ m.cc) :
    rampStepAt c m = m.onCore c fun k => { k with pwr := { k.pwr with
      ramp := if step < 2 then some (start, step + 1) else none } } := by
  unfold rampStepAt
  rw [hramp]
  exact Mach.when_pos _ _ _ (decide_eq_true hlate)

/-! ## Self-refresh of a tier (R174, R368) -/

/-- A core with a tier at rest; BANKCTL goes with the second one. -/
def Core.tierRested (k : Core) (t : Nat) : Core :=
  let sr := vset k.pwr.sr t true
  { k with pwr := { k.pwr with sr := sr, bankctl := if vget sr 0 && vget sr 1 then .ret else k.pwr.bankctl } }

theorem tierRestAt_due (m : Mach) (c t : Nat) (hon : (m.core c).pwr.bankctl = .on) (hsr : vget (m.core c).pwr.sr t = false)
    (hcare : vget (m.core c).care.overdue t = false) (hlast : vget (m.core c).pwr.lastReq t + 65536 ≤ m.cc)
    (hvote : (m.core c).pwr.voteBk = 0) (hfw : (m.core c).pwr.fwVoteBk = false) :
    tierRestAt c t m = m.onCore c fun k => k.tierRested t := by
  unfold tierRestAt
  dsimp only
  exact Mach.when_pos _ _ _ (by simp [hon, hsr, hcare, hlast, hvote, hfw])

theorem Core.tierRested_sr_self (k : Core) (t : Nat) (ht : t < 2) : vget (k.tierRested t).pwr.sr t = true :=
  vget_vset_self _ _ _ ht

theorem Core.tierRested_sr_ne (k : Core) {t o : Nat} (h : o ≠ t) : vget (k.tierRested t).pwr.sr o = vget k.pwr.sr o :=
  vget_vset_ne _ _ h

/-- With one tier at rest, BANKCTL follows the other one. -/
theorem Core.tierRested_bankctl (k : Core) (t o : TierIx) (h : o ≠ t) :
    (k.tierRested t).pwr.bankctl = if vget k.pwr.sr o = true then .ret else k.pwr.bankctl := by
  have hself := k.tierRested_sr_self t t.isLt
  have hother := k.tierRested_sr_ne (Fin.val_ne_of_ne h)
  have hboth : (vget (k.tierRested t).pwr.sr 0 && vget (k.tierRested t).pwr.sr 1) = vget k.pwr.sr o := by
    obtain ⟨ht, ho⟩ | ⟨ht, ho⟩ : (t.val = 0 ∧ o.val = 1) ∨ (t.val = 1 ∧ o.val = 0) := by
      have hne := Fin.val_ne_of_ne h
      have ht := t.isLt
      have ho := o.isLt
      omega
    · rw [ht] at hself hother ⊢
      rw [ho] at hother ⊢
      rw [hself, hother, Bool.true_and]
    · rw [ht] at hself hother ⊢
      rw [ho] at hother ⊢
      rw [hself, hother, Bool.and_true]
  rw [← hboth]
  rfl

/-- A core with a tier awake again: what waits for the tier is issued 600 cc later. -/
def Mach.tierWoken (m : Mach) (c t : Nat) (k : Core) : Core :=
  let ubq := k.ubq.map fun q => if tierOf q.off = t then { q with issued := q.issued + 600 } else q
  let fills := k.fills.map fun f =>
    if waSpace (f.tag * 128) = 1 && tierOf (waOff (f.tag * 128)) = t && m.lineOwn c f.tag then { f with issued := f.issued + 600 } else f
  { k with ubq := ubq, fills := fills,
           pwr := { k.pwr with sr := vset k.pwr.sr t false, bankctl := .on, lastReq := vset k.pwr.lastReq t (m.cc + 600) } }

theorem tierWakeAt_due (m : Mach) (c t : Nat) (hsr : vget (m.core c).pwr.sr t = true)
    (hon : vget (m.field (fieldOf c)).tiers t = .on) : tierWakeAt c t m = m.onCore c (m.tierWoken c t) :=
  Mach.when_pos _ _ _ (by simp [hsr, hon])

theorem Mach.tierWoken_pwr (m : Mach) (c t : Nat) (k : Core) : (m.tierWoken c t k).pwr = { k.pwr with
    sr := vset k.pwr.sr t false, bankctl := .on, lastReq := vset k.pwr.lastReq t (m.cc + 600) } := rfl
theorem Mach.tierWoken_ub (m : Mach) (c t : Nat) (k : Core) : (m.tierWoken c t k).ub = k.ub := rfl

/-! ## The temperature of a tier (R173) -/

/-- Whether a tier's refresh is doubled at a temperature: between 82 °C and 85 °C as before. -/
def refreshDoubled (before : Bool) (deg : Nat) : Bool := if 85 ≤ deg then true else if deg < 82 then false else before

/-- A core with a tier at a temperature. -/
def Core.tierAt (k : Core) (t : Nat) (deg : BitVec 8) : Core :=
  { k with care := { k.care with temp := vset k.care.temp t deg,
                                 hot := vset k.care.hot t (refreshDoubled (vget k.care.hot t) deg.toNat) } }

theorem Core.pwr_tierAt (k : Core) (t : Nat) (deg : BitVec 8) : (k.tierAt t deg).pwr = k.pwr := rfl
theorem Core.slots_tierAt (k : Core) (t : Nat) (deg : BitVec 8) : (k.tierAt t deg).slots = k.slots := rfl

theorem tierTempAt_eq (m : Mach) (c t : Nat) (deg : BitVec 8) :
    tierTempAt c t deg m = m.onCore c fun k => k.tierAt t deg := rfl

/-! ## Stall-idle and tiers together -/

/-- Settles O15: each row's lemma, read at the core that the row changes. -/
theorem corePowerFollowsItsRules : Obligations.CorePowerFollowsItsRules := by
  unfold Obligations.CorePowerFollowsItsRules
  refine ⟨⟨?entry, ?exit, ?ramp⟩, ?rest, ?wake, ?temperature⟩
  case entry =>
    intro s c w k hon hstall hlend hwait hlate
    rw [exec_stallIdleEntry, stallEntryAt_due s.m c w hon hstall hlend hwait hlate]
  case exit =>
    intro s c hstall hready
    rw [exec_stallIdleExit, stallExitAt_ready s.m c hstall hready]
  case ramp =>
    intro s c start step hramp hlate
    rw [exec_throttleRampStep, rampStepAt_due s.m c start step hramp hlate]
  case rest =>
    intro s c ti k hon hsr hcare hlast hvote hfw
    refine ⟨_, exec_tierSelfRefreshEntry c ti s, rfl, ?_⟩
    rw [tierRestAt_due s.m c ti hon hsr hcare hlast hvote hfw, State.core_to_onCore, Core.canon_pwr]
    refine ⟨k.tierRested_sr_self ti ti.isLt, fun o ho => ⟨k.tierRested_sr_ne (Fin.val_ne_of_ne ho), ?_⟩,
      Core.canon_ubByte (k.tierRested ti)⟩
    rw [← hon]
    exact k.tierRested_bankctl ti o ho
  case wake =>
    intro s c ti hsr hon
    refine ⟨_, exec_tierWake c ti s, rfl, ?_⟩
    rw [tierWakeAt_due s.m c ti hsr hon, State.core_to_onCore, Core.canon_pwr, Mach.tierWoken_pwr]
    exact ⟨vget_vset_self _ _ _ ti.isLt, rfl, vget_vset_self _ _ _ ti.isLt,
      fun a => by rw [Core.canon_ubByte, Mach.tierWoken_ub]⟩
  case temperature =>
    intro s c ti deg
    refine ⟨_, exec_tierTemperatureChange c ti deg s, rfl, ?_⟩
    rw [tierTempAt_eq, State.core_to_onCore, Core.canon_pwr, Core.canon_slots, Core.pwr_tierAt, Core.slots_tierAt]
    exact ⟨vget_vset_self _ _ _ ti.isLt, vget_vset_self _ _ _ ti.isLt, rfl, rfl⟩

end Sys2Proof.Machine
end

section
/-! PROOF. Nodes and steering units that fire, and the conditions that the units read (R243, R247 to R250). -/

namespace Sys2Proof.Machine

open Sys2Proof

theorem exec_steerFire (c : CoreIx) (sl : SlotIx) (u : Fin 4) (s : State) :
    exec (.steerFire c sl u) s = .next (s.to (steerFireAt c sl u s.m)) := rfl

/-! ## Conditions (R248) -/

theorem isTrue_of_nil (x : QMsg) (h : x.chunks = []) : isTrue x = false := by
  unfold isTrue
  rw [h]

theorem isTrue_of_cons (x : QMsg) (ch : BitVec 256) (rest : List (BitVec 256)) (h : x.chunks = ch :: rest) :
    isTrue x = (ch.toNat % 2 == 1) := by
  unfold isTrue
  rw [h]

theorem isTrue_iff (x : QMsg) : isTrue x = true ↔ ∃ ch rest, x.chunks = ch :: rest ∧ ch.toNat % 2 = 1 := by
  cases h : x.chunks with
  | nil => simp [isTrue_of_nil x h]
  | cons ch rest => simp [isTrue_of_cons x ch rest h]

/-- Settles O58: a condition without a chunk, and one whose first chunk decides. -/
theorem conditionMessages : Obligations.ConditionMessages := by
  unfold Obligations.ConditionMessages
  exact ⟨isTrue_iff, isTrue_of_nil,
    fun x => ⟨isTrue_of_cons { x with chunks := [1] } 1 [] rfl, isTrue_of_cons { x with chunks := [0] } 0 [] rfl⟩⟩

/-! ## Nodes (R243, R244) -/

/-- The plane that the sequencer chooses issues its next fireable node. -/
theorem nodeFireAt_chosen (m : Mach) (c sl i : Nat) (spare : Bool) (h : (m.issueCycle c).1 = some (sl, spare))
    (hnext : (m.issueCycle c).2.nextNode c sl = some i) :
    nodeFireAt c [] m = (m.issueCycle c).2.issueNode c sl i spare := by
  have hcycle : m.issueCycle c = (some (sl, spare), (m.issueCycle c).2) := Prod.ext h rfl
  simp only [nodeFireAt, Mach.cellErrs_nil]
  rw [hcycle]
  simp only [hnext]

/-- A plane that has fired a node: the node pointer and SLOT_PC are at it. -/
def Slot.firedNode (v : Slot) (p : Plane) (i : Nat) : Slot :=
  { v with ctl := { v.ctl with pc := BitVec.ofNat 19 (16 * i) },
           plane := some { p with ptr := i, active := true, fires := inc64 p.fires } }

/-- A node whose template raises no fault fires. -/
theorem Mach.issueNode_fires (m : Mach) (c sl i : Nat) (spare : Bool) (p : Plane)
    (hp : ((m.core c).slot sl).plane = some p) (hf : m.bundleFault c sl (lget p.nodes i).toNat = none) :
    m.issueNode c sl i spare =
      (m.onSlot c sl fun v => v.firedNode p i).issues c sl (lget p.nodes i).toNat true spare := by
  unfold Mach.issueNode
  simp only [hp, hf]
  rfl

/-! ## What a steering entry does (R247, R249) -/

/-- Whether a steering unit of a slot can take a message from a queue now. -/
def Core.steerHas (k : Core) (s cc q : Nat) : Prop := k.steerQueue s q = true ∧ k.available q cc ≠ 0

theorem Core.steerHas_iff (k : Core) (s cc q : Nat) :
    (k.steerQueue s q && k.available q cc != 0) = true ↔ k.steerHas s cc q := by
  simp [Core.steerHas]

/-- A queue that a steering unit pops is bound to the steering port. -/
theorem Core.port_of_steerQueue (k : Core) (s q : Nat) (h : k.steerQueue s q = true) : (k.queue q).port = 5 :=
  eq_of_beq (Bool.and_eq_true_iff.mp h).2

section
variable (k : Core) (s : Nat) (e : Steer) (cc : Nat)

theorem Core.steerPlan_unconditioned (hc : ¬ k.steerHas s cc e.qc.toNat) : k.steerPlan s e cc = none := by
  rw [← Core.steerHas_iff] at hc
  simp [Core.steerPlan, hc]

variable (hc : k.steerHas s cc e.qc.toNat)
include hc

/-- A SWITCH sends its data through the port of the condition. -/
theorem Core.steerPlan_switch (hkind : e.kind = 1) (ha : k.steerHas s cc e.qa.toNat) :
    k.steerPlan s e cc = some ([e.qc.toNat, e.qa.toNat],
      some (e.qa.toNat, if isTrue (msgAt k e.qc.toNat 0) then e.ot.toNat else e.off.toNat)) := by
  rw [← Core.steerHas_iff] at hc ha
  simp [Core.steerPlan, hc, hkind, ha]

/-- A MERGE sends the message of the queue of the condition. -/
theorem Core.steerPlan_merge (hkind : e.kind = 2) (q : Nat)
    (hq : q = if isTrue (msgAt k e.qc.toNat 0) then e.qa.toNat else e.qb.toNat) (h : k.steerHas s cc q) :
    k.steerPlan s e cc = some ([e.qc.toNat, q], some (q, e.ot.toNat)) := by
  rw [← Core.steerHas_iff] at hc h
  simp [Core.steerPlan, hc, hkind, ← hq, h]

/-- A GATE sends its data, or where the condition is false discards it. -/
theorem Core.steerPlan_gate (hkind : e.kind = 3) (ha : k.steerHas s cc e.qa.toNat) :
    k.steerPlan s e cc = some ([e.qc.toNat, e.qa.toNat],
      if isTrue (msgAt k e.qc.toNat 0) then some (e.qa.toNat, e.ot.toNat) else none) := by
  rw [← Core.steerHas_iff] at hc ha
  simp [Core.steerPlan, hc, hkind, ha]

end

/-! ## A unit fires, and its message enters the router (R249, R250) -/

/-- The outputs of the steering units of a slot's plane after unit u has fired with a message to send, or with none. -/
def Core.steerSent (k : Core) (s u : Nat) (out : Option (Nat × Nat)) (sent : AMap (Nat × List (BitVec 256))) :
    AMap (Nat × List (BitVec 256)) :=
  match out with
  | some x => aset sent u (k.sendPort s x.2, (msgAt k x.1 0).chunks)
  | none => sent

/-- A unit with a plan, with room for what it sends, and that has not fired in this cycle, fires. -/
theorem steerFireAt_fires (m : Mach) (c s u : Nat) (p : Plane) (pops : List Nat) (out : Option (Nat × Nat))
    (hp : (m.core c).plane s = some p) (hplan : (m.core c).steerPlan s (lget p.steer u) m.cc = some (pops, out))
    (hroom : ∀ q o, out = some (q, o) → m.portRoom c s o (msgAt (m.core c) q 0).chunks.length 0 = true)
    (hst : ((m.core c).slot s).ctl.st = .running) (hclk : (m.core c).clocksRun m.cc = true)
    (hat : aget p.steerAt u ≠ some m.cc) (hout : aget p.steerOut u = none) :
    steerFireAt c s u m = m.onCore c fun k => (k.popQueues pops m.cc).onPlane s fun p =>
      { p with active := true, steerFires := inc64 p.steerFires, steerAt := aset p.steerAt u m.cc,
               steerOut := k.steerSent s u out p.steerOut } := by
  unfold steerFireAt
  simp only [hp, hplan]
  cases out with
  | none => exact Mach.when_pos _ _ _ (by simp [hst, hclk, hat, hout])
  | some x => exact Mach.when_pos _ _ _ (by simp [hroom x.1 x.2 rfl, hst, hclk, hat, hout])

theorem Mach.steerSend_enters (m : Mach) (c s u v : Nat) (p : Plane) (chunks : List (BitVec 256))
    (hp : (m.core c).plane s = some p) (hout : aget p.steerOut u = some (v, chunks))
    (hroom : m.canSend c ((m.core c).slot s).ctl.cid.toNat v (max 1 chunks.length) 0 = true) :
    m.steerSend c s u = (m.send c s ((m.core c).slot s).ctl.pc.toNat v chunks).onPlane c s fun p =>
      { p with steerOut := adel p.steerOut u } := by
  unfold Mach.steerSend
  simp only [hp, Option.bind_some, hout]
  exact Mach.when_pos _ _ _ hroom

/-- Settles O24: the chosen plane's node, a unit that sends and one that discards, a message that enters the router, and the
plan of each kind of unit. -/
theorem nodesAndSteeringUnitsFire : Obligations.NodesAndSteeringUnitsFire := by
  unfold Obligations.NodesAndSteeringUnitsFire
  refine ⟨?node, ?sends, ?discards, Mach.steerSend_enters, ?plan⟩
  case node =>
    intro s c sl i spare p m b hchosen hnext hp hf
    rw [exec_nodeFire, nodeFireAt_chosen s.m c sl i spare hchosen hnext, m.issueNode_fires c sl i spare p hp hf]
    rfl
  case sends =>
    intro s c sl u p pops q o k hp hplan hroom hst hclk hat hout
    have hsends : ∀ q' o', some (q, o) = some (q', o') → s.m.portRoom c sl o' (msgAt k q' 0).chunks.length 0 = true := by
      rintro _ _ ⟨⟩
      exact hroom
    rw [exec_steerFire, steerFireAt_fires s.m c sl u p pops (some (q, o)) hp hplan hsends hst hclk hat hout]
    rfl
  case discards =>
    intro s c sl u p pops k hp hplan hst hclk hat hout
    rw [exec_steerFire, steerFireAt_fires s.m c sl u p pops none hp hplan nofun hst hclk hat hout]
    rfl
  case plan =>
    intro k s e cc t has
    refine ⟨k.steerPlan_unconditioned s e cc, fun hc => ⟨k.steerPlan_switch s e cc hc, ?_, ?_, ?_, ?_⟩,
      k.port_of_steerQueue s⟩
    · exact fun hkind ht ha => k.steerPlan_merge s e cc hc hkind e.qa.toNat (if_pos ht).symm ha
    · exact fun hkind ht hb => k.steerPlan_merge s e cc hc hkind e.qb.toNat (if_neg (ne_true_of_eq_false ht)).symm hb
    · exact fun hkind ht ha => (k.steerPlan_gate s e cc hc hkind ha).trans (by rw [if_pos ht])
    · exact fun hkind ht ha => (k.steerPlan_gate s e cc hc hkind ha).trans (by rw [if_neg (ne_true_of_eq_false ht)])

end Sys2Proof.Machine
end

section
/-! PROOF. The deadlock detector: its window, its circuits and its trace (R252, R253). -/

namespace Sys2Proof.Machine

open Sys2Proof

theorem exec_detectorWindow (c : CoreIx) (sl : SlotIx) (s : State) :
    exec (.detectorWindow c sl) s = .next (s.to (detectorWindowAt c sl s.m)) := rfl
theorem exec_probeReturn (c : CoreIx) (sl : SlotIx) (lost : Bool) (s : State) :
    exec (.probeReturn c sl lost) s = .next (s.to (probeReturnAt c sl lost s.m)) := rfl
theorem exec_traceReturn (c : CoreIx) (sl : SlotIx) (s : State) :
    exec (.traceReturn c sl) s = .next (s.to (traceReturnAt c sl s.m)) := rfl

/-! ## The window (R252) -/

theorem detectorWindowAt_over (m : Mach) (c s : Nat) (p : Plane) (hp : (m.core c).plane s = some p) (hph : p.phase = .window)
    (hdue : p.since + p.window ≤ m.cc) (hhome : m.isHome c p = true) (hst : ((m.core c).slot s).ctl.st = .running) :
    detectorWindowAt c s m = (m.toPhase c s .probe1).detectorStep c s := by
  unfold detectorWindowAt
  rw [hp]
  exact Mach.when_pos _ _ _ (by simp [hph, hdue, hhome, hst])

/-! ## Circuits (R252) -/

/-- Whether a circuit of a region has failed: lost, longer than the window, not at its end, or with activity found. -/
def Mach.circuitFails (m : Mach) (p : Plane) (lost : Bool) : Bool :=
  lost || p.window < m.circuitTime p || p.probe.visited < (circuit p.rect).length || !p.probe.quiet

/-- The detector after a circuit that found the region quiet: the second circuit after the first one, and after the second
one a trace from its first stuck queue. -/
def Mach.afterQuiet (m : Mach) (c s : Nat) (p : Plane) : Mach :=
  if p.phase = .probe1 then (m.toPhase c s .probe2).detectorStep c s
  else match m.firstStuck p.probe.stuck with
    | none => m.toPhase c s .window
    | some x => ((m.toPhase c s .trace { cur := some (x.1, some x.2) }).onPlane c s fun p =>
        { p with detection := p.detection + 1 }).detectorStep c s

theorem probeReturnAt_due (m : Mach) (c s : Nat) (lost : Bool) (p : Plane) (hp : (m.core c).plane s = some p)
    (hph : p.phase = .probe1 ∨ p.phase = .probe2)
    (hdue : p.since + (if lost = true then p.window else min p.window (m.circuitTime p)) ≤ m.cc) :
    probeReturnAt c s lost m = if m.circuitFails p lost = true then m.toPhase c s .window else m.afterQuiet c s p := by
  unfold probeReturnAt
  rw [hp]
  exact Mach.when_pos _ _ _ (by simpa [hdue] using hph)

theorem probeReturnAt_lost (m : Mach) (c s : Nat) (p : Plane) (hp : (m.core c).plane s = some p)
    (hph : p.phase = .probe1 ∨ p.phase = .probe2) (hdue : p.since + p.window ≤ m.cc) :
    probeReturnAt c s true m = m.toPhase c s .window :=
  (probeReturnAt_due m c s true p hp hph hdue).trans (if_pos rfl)

/-- A circuit within the window that has come round fails by the activity it found alone. -/
theorem probeReturnAt_round (m : Mach) (c s : Nat) (p : Plane) (hp : (m.core c).plane s = some p)
    (hph : p.phase = .probe1 ∨ p.phase = .probe2) (hdue : p.since + m.circuitTime p ≤ m.cc)
    (hfits : m.circuitTime p ≤ p.window) (hround : (circuit p.rect).length ≤ p.probe.visited) :
    probeReturnAt c s false m = if p.probe.quiet = true then m.afterQuiet c s p else m.toPhase c s .window := by
  have hwindow : decide (p.window < m.circuitTime p) = false := decide_eq_false (Nat.not_lt.mpr hfits)
  have hvisited : decide (p.probe.visited < (circuit p.rect).length) = false := decide_eq_false (Nat.not_lt.mpr hround)
  have hfails : m.circuitFails p false = !p.probe.quiet := by
    simp only [Mach.circuitFails, hwindow, hvisited, Bool.false_or]
  rw [probeReturnAt_due m c s false p hp hph (by simpa [hfits] using hdue), hfails]
  cases p.probe.quiet <;> rfl

theorem Mach.afterQuiet_first (m : Mach) (c s : Nat) (p : Plane) (h : p.phase = .probe1) :
    m.afterQuiet c s p = (m.toPhase c s .probe2).detectorStep c s := if_pos h

theorem Mach.afterQuiet_idle (m : Mach) (c s : Nat) (p : Plane) (h : p.phase = .probe2)
    (hstuck : m.firstStuck p.probe.stuck = none) : m.afterQuiet c s p = m.toPhase c s .window := by
  simp [Mach.afterQuiet, h, hstuck]

theorem Mach.afterQuiet_stuck (m : Mach) (c s : Nat) (p : Plane) (x : Nat × Nat) (h : p.phase = .probe2)
    (hstuck : m.firstStuck p.probe.stuck = some x) : m.afterQuiet c s p =
      ((m.toPhase c s .trace { cur := some (x.1, some x.2) }).onPlane c s fun p =>
        { p with detection := p.detection + 1 }).detectorStep c s := by
  simp [Mach.afterQuiet, h, hstuck]

/-! ## The trace (R253) -/

theorem Core.plane_onPlane_self (k : Core) (s : Nat) (f : Plane → Plane) (h : s < 4) :
    (k.onPlane s f).plane s = (k.plane s).map f := by
  rw [Core.plane, Core.onPlane, k.slot_onSlot_self s _ h]
  rfl

/-- Two changes of a slot's plane that agree on it are one. -/
theorem Mach.onPlane_congr (m : Mach) (c s : Nat) (p : Plane) (f g : Plane → Plane) (hp : (m.core c).plane s = some p)
    (h : f p = g p) : m.onPlane c s f = m.onPlane c s g := by
  have hslot : ((m.core c).slot s).plane = some p := hp
  simp only [Mach.onPlane, Mach.onCore, Core.onPlane, Core.onSlot, hslot, Option.map_some, h]

/-- A NOTE that leaves a core touches no slot. -/
theorem Mach.slot_sendNote (m : Mach) (c d cid i : Nat) : ((m.sendNote c d cid).core c).slot i = (m.core c).slot i := by
  unfold Mach.sendNote
  split
  · rfl
  · rw [m.core_onCore_self]
    rfl

/-- The plane of a detector that has gone to a phase. -/
theorem Mach.plane_toPhase (m : Mach) (c s : Nat) (ph : DetPhase) (pr : Probe) (p : Plane) (h : s < 4)
    (hp : (m.core c).plane s = some p) : ((m.toPhase c s ph pr).core c).plane s =
      some { p with phase := ph, since := m.cc, probe := { pr with next := m.cc } } := by
  rw [Mach.toPhase, Mach.onPlane, m.core_onCore_self, Core.plane_onPlane_self _ s _ h, hp]
  rfl

/-- The detector of a region orders the spill of a queue of the cycle that its trace has found. -/
def Mach.orderSpill (m : Mach) (c s region : Nat) (x : Nat × Nat) : Mach :=
  (m.sendNote c x.1 (m.slotCid c s)).onPlane c s fun y =>
    { y with order := some { core := x.1, region := region, queue := x.2, detection := y.detection,
                             at_ := m.cc + 2 + hops c x.1 + 3 * seams c x.1 } }

section
variable (m : Mach) (c s : Nat) (p : Plane) (hp : (m.core c).plane s = some p) (hph : p.phase = .trace)
  (hend : p.probe.cur = none) (hdue : p.probe.next ≤ m.cc)
include hp hph hend hdue

/-- The order of a trace that closes a cycle names the region of the plane: neither the new window nor the NOTE of the order
changes it. -/
theorem traceReturnAt_cycle (hs : s < 4) (x : Nat × Nat) (hx : (m.toPhase c s .window).chooseSpill p.probe.loop = some x) :
    traceReturnAt c s m = (m.toPhase c s .window).orderSpill c s p.region x := by
  have hplane := m.plane_toPhase c s .window {} p hs hp
  rw [Core.plane, ← Mach.slot_sendNote _ c x.1 ((m.toPhase c s .window).slotCid c s) s] at hplane
  unfold traceReturnAt
  rw [hp]
  refine (Mach.when_pos _ _ _ (by simp [hph, hend, hdue])).trans ?_
  simp only [hx]
  exact Mach.onPlane_congr _ c s _ _ _ hplane rfl

theorem traceReturnAt_noCycle (hx : (m.toPhase c s .window).chooseSpill p.probe.loop = none) :
    traceReturnAt c s m = m.toPhase c s .window := by
  unfold traceReturnAt
  rw [hp]
  refine (Mach.when_pos _ _ _ (by simp [hph, hend, hdue])).trans ?_
  simp only [hx]

end

/-- Settles O25: each phase's lemma, read at the module that the row answers. -/
theorem deadlockDetectorRuns : Obligations.DeadlockDetectorRuns := by
  unfold Obligations.DeadlockDetectorRuns
  refine ⟨?window, ?first, ?second, ?lost, ?trace⟩
  case window =>
    intro s c sl p hp hph hdue hhome hst
    rw [exec_detectorWindow, detectorWindowAt_over s.m c sl p hp hph hdue hhome hst]
  case first =>
    intro s c sl p hp hph hdue hfits hround
    rw [exec_probeReturn, probeReturnAt_round s.m c sl p hp (.inl hph) hdue hfits hround, s.m.afterQuiet_first c sl p hph]
  case second =>
    intro s c sl p hp hph hdue hfits hround
    rw [exec_probeReturn, probeReturnAt_round s.m c sl p hp (.inr hph) hdue hfits hround]
    refine ⟨?_, fun x hquiet hstuck => by rw [if_pos hquiet, s.m.afterQuiet_stuck c sl p x hph hstuck]⟩
    rintro (hactive | hidle)
    · rw [hactive, if_neg Bool.false_ne_true]
    · rw [s.m.afterQuiet_idle c sl p hph hidle, ite_self]
  case lost =>
    intro s c sl p hp hph hdue
    rw [exec_probeReturn, probeReturnAt_lost s.m c sl p hp hph hdue]
  case trace =>
    intro s c sl p m hp hph hend hdue
    rw [exec_traceReturn]
    refine ⟨fun x hx => ?_, fun hx => ?_⟩
    · rw [traceReturnAt_cycle s.m c sl p hp hph hend hdue sl.isLt x hx]
      rfl
    · rw [traceReturnAt_noCycle s.m c sl p hp hph hend hdue hx]

end Sys2Proof.Machine
end

section
/-! PROOF. CTX_CREATE and CTX_CONFIGURE: the lowest free CID, and a configuration admitted, waiting or refused (R140, R261, R263,
R269). -/

namespace Sys2Proof.Machine

open Sys2Proof

theorem exec_ctxCreate (f : FnIx) (tag : BitVec 16) (s : State) :
    exec (.ctxCreate f tag) s = .next (s.to (ctxCreateAt f tag.toNat s.m)) := rfl
theorem exec_ctxConfigure (f : FnIx) (tag : BitVec 16) (data : Option Bytes) (s : State) :
    exec (.ctxConfigure f tag data) s = .next (s.to (ctxConfigureAt f tag.toNat data s.m)) := rfl

/-! ## The lowest free CID -/

/-- The first context that CTX_CREATE finds absent is the lowest: every lower CID is taken. -/
theorem Mach.find_freeCid (m : Mach) (cid : Nat) (hlower : ∀ c, c < cid → (m.ctx c).isSome = true) (hcid : cid < 1024)
    (hfree : m.ctx cid = none) : ((List.range 1024).find? fun c => (m.ctx c).isNone) = some cid := by
  refine List.find?_range_eq_some.mpr ⟨by rw [hfree]; rfl, List.mem_range.mpr hcid, fun c hc => ?_⟩
  obtain ⟨y, hy⟩ := Option.isSome_iff_exists.mp (hlower c hc)
  rw [hy]
  rfl

theorem Mach.find_freeCid_full (m : Mach) (hfull : ∀ c, c < 1024 → (m.ctx c).isSome = true) :
    ((List.range 1024).find? fun c => (m.ctx c).isNone) = none := by
  refine List.find?_range_eq_none.mpr fun c hc => ?_
  obtain ⟨y, hy⟩ := Option.isSome_iff_exists.mp (hfull c hc)
  rw [hy]
  rfl

/-- With a free CID, and the lifecycle state not against it, CTX_CREATE makes the context there and reports the CID. -/
theorem ctxCreateAt_free (f tag cid : Nat) (m : Mach) (x : Cmd) (ht : m.Turn f tag 0x0100 x)
    (hfind : ((List.range 1024).find? fun c => (m.ctx c).isNone) = some cid) (hlife : m.boot.life ≠ .retired)
    (hdbg : m.boot.life = .manufacture → bitOf (le x.arg 0 1) 0 = true) :
    ctxCreateAt f tag m = ((m.begun x).setCtx cid
      { owner := if f = mgmtFn then 0 else f, dbg := bitOf (le x.arg 0 1) 0 }).done x 0 cid := by
  unfold ctxCreateAt
  rw [Mach.runCmd_turn m f tag _ _ _ x ht rfl]
  simp only [Mach.begun_ctx, hfind]
  refine if_neg fun hshut => ?_
  simp only [Bool.or_eq_true, Bool.and_eq_true, decide_eq_true_eq] at hshut
  rcases hshut with hretired | ⟨hmanufacture, hplain⟩
  · exact hlife hretired
  · simp [hdbg hmanufacture] at hplain

/-- With every CID taken, CTX_CREATE answers NO_CONTEXT. -/
theorem ctxCreateAt_full (f tag : Nat) (m : Mach) (x : Cmd) (ht : m.Turn f tag 0x0100 x)
    (hfind : ((List.range 1024).find? fun c => (m.ctx c).isNone) = none) :
    ctxCreateAt f tag m = (m.begun x).done x 0x0201 := by
  unfold ctxCreateAt
  rw [Mach.runCmd_turn m f tag _ _ _ x ht rfl]
  simp only [Mach.begun_ctx, hfind]

/-! ## A configuration -/

/-- CTX_CONFIGURE's gate on the state of its context (R262) lets a CREATED and an ADMITTED one through. -/
theorem Mach.ctxStatus_configurable (m : Mach) (x : Cmd) (y : Ctx) (hctx : m.ctx x.cid = some y)
    (hst : y.st = .created ∨ y.st = .admitted) :
    m.ctxStatus x (fun st => st == .created || st == .admitted) = none := by
  unfold Mach.ctxStatus
  rw [hctx]
  exact if_pos (by simpa using hst)

@[simp] theorem Mach.begun_ctxIdle (m : Mach) (x : Cmd) (cid : Nat) : (m.begun x).ctxIdle cid = m.ctxIdle cid := rfl

section
variable (f tag : Nat) (m : Mach) (x : Cmd) (y : Ctx) (ht : m.Turn f tag 0x0101 x) (hctx : m.ctx x.cid = some y)
  (hst : y.st = .created ∨ y.st = .admitted)
include ht hctx hst

/-- A context with a slot neither LOADED nor HALTED is not configured (R269). -/
theorem ctxConfigureAt_busy (data : Option Bytes) (hidle : m.ctxIdle x.cid = false) :
    ctxConfigureAt f tag data m = (m.begun x).done x 0x0402 := by
  unfold ctxConfigureAt
  rw [Mach.runCmd_turn m f tag _ _ _ x ht rfl]
  simp only [(m.begun x).ctxStatus_configurable x y hctx hst, Mach.begun_ctx, hctx, Mach.begun_ctxIdle, hidle, Bool.not_false,
    if_true]

variable (b : Bytes) (hidle : m.ctxIdle x.cid = true) (hfn : x.fn ≠ mgmtFn)
include hidle hfn

/-- A refused configuration leaves the module but for the command's result: the status and detail of the failed test. -/
theorem ctxConfigureAt_refused (r : Refuse)
    (hadm : (m.begun x).admission x.cid y.dbg (readBlock (padTo b x.len)).merge = some r) :
    ctxConfigureAt f tag (some b) m = (m.begun x).done x r.status r.res0 r.detail := by
  unfold ctxConfigureAt
  rw [Mach.runCmd_turn m f tag _ _ _ x ht rfl]
  simp only [(m.begun x).ctxStatus_configurable x y hctx hst, Mach.begun_ctx, hctx, Mach.begun_ctxIdle, hidle, Bool.not_true,
    Bool.false_eq_true, if_false, Mach.withData_some _ _ _ _ hfn, hadm]

/-- An admitted configuration is installed, unless a line is on its way into a cache whose partition it changes (R140): then
the command has not begun and runs later. -/
theorem ctxConfigureAt_admitted (hadm : (m.begun x).admission x.cid y.dbg (readBlock (padTo b x.len)).merge = none) :
    ctxConfigureAt f tag (some b) m =
      let c := (readBlock (padTo b x.len)).merge
      if (m.begun x).partitionWaits ((m.begun x).otherSlots x.cid) c.slots
        ((y.slots ++ c.slots).map fun s => s.core).eraseDups = true then m
      else ((m.begun x).install x.cid y c).done x 0 := by
  unfold ctxConfigureAt
  rw [Mach.runCmd_turn m f tag _ _ _ x ht rfl]
  simp only [(m.begun x).ctxStatus_configurable x y hctx hst, Mach.begun_ctx, hctx, Mach.begun_ctxIdle, hidle, Bool.not_true,
    Bool.false_eq_true, if_false, Mach.withData_some _ _ _ _ hfn, hadm]

end

/-- Settles O27: the CID found for a new context, and the outcome of a configuration by its context's slots and admission. -/
theorem contextsAreCreatedAndConfigured : Obligations.ContextsAreCreatedAndConfigured := by
  unfold Obligations.ContextsAreCreatedAndConfigured
  refine ⟨?create, ?full, ?configure, ?busy⟩
  case create =>
    intro s f tag x cid ht hlower hcid hfree hlife hdbg
    rw [exec_ctxCreate, ctxCreateAt_free f tag.toNat cid s.m x ht (s.m.find_freeCid cid hlower hcid hfree) hlife hdbg]
  case full =>
    intro s f tag x ht hfull
    rw [exec_ctxCreate, ctxCreateAt_full f tag.toNat s.m x ht (s.m.find_freeCid_full hfull)]
  case configure =>
    intro s f tag x y b c ht hctx hst hidle hfn cores
    refine ⟨fun hadm => ?_, fun r hadm => ?_⟩
    · rw [exec_ctxConfigure, ctxConfigureAt_admitted f tag.toNat s.m x y ht hctx hst b hidle hfn hadm]
    · rw [exec_ctxConfigure, ctxConfigureAt_refused f tag.toNat s.m x y ht hctx hst b hidle hfn r hadm]
  case busy =>
    intro s f tag x y data ht hctx hst hidle
    rw [exec_ctxConfigure, ctxConfigureAt_busy f tag.toNat s.m x y ht hctx hst data hidle]

end Sys2Proof.Machine
end

section
/-! PROOF. Buckets, a recomputed reach, the repeated REPLACE_REQUIRED event and the hang limit (R265, R266, R280). -/

namespace Sys2Proof.Machine

open Sys2Proof

theorem exec_bucketRefill (b : BucketName) (s : State) :
    exec (.bucketRefill b) s = .next (s.to (bucketRefillAt b s.m)) := rfl
theorem exec_reachRecompute (cid : BitVec 10) (s : State) :
    exec (.reachRecompute cid) s = .next (s.to (reachRecomputeAt cid.toNat s.m)) := rfl
theorem exec_replaceRequiredRepeat (cid : BitVec 10) (s : State) :
    exec (.replaceRequiredRepeat cid) s = .next (s.to (replaceRepeatAt cid.toNat s.m)) := rfl
theorem exec_hangLimit (cid : BitVec 10) (s : State) :
    exec (.hangLimit cid) s = .next (s.to (hangLimitAt cid.toNat s.m)) := rfl

/-- At the end of its period a bucket is refilled, and nothing else changes (R266). -/
theorem bucketRefillAt_due (b : BucketName) (m : Mach) (x : Bucket) (hx : aget m.buckets (bucketKey b).1 = some x)
    (hdue : x.at_ + (bucketKey b).2 ≤ m.cc) :
    bucketRefillAt b m = { m with buckets := aset m.buckets (bucketKey b).1 (x.refill (bucketKey b).2) } := by
  unfold bucketRefillAt
  simp only [hx]
  exact Mach.when_pos _ _ _ (decide_eq_true hdue)

section
variable (cid : Nat) (m : Mach) (x : Ctx) (hctx : m.ctx cid = some x)
include hctx

/-- An ADMITTED context's segments are set anew, all bucket rates with them, and each segment over its capacity is reported
(R265). -/
theorem reachRecomputeAt_admitted (hst : x.st = .admitted) (segs : List Nat) (hsegs : m.overSegsOf cid x = segs) :
    reachRecomputeAt cid m = segs.foldl (fun m g => m.replaceEvent cid g)
      (m.setCtx cid { x with overSegs := segs, lowered := !segs.isEmpty,
                             replaceAt := if segs.isEmpty then none else some m.cc }).setRates := by
  unfold reachRecomputeAt
  simp only [hctx]
  refine (Mach.when_pos _ _ _ (by simp [hst])).trans ?_
  simp only [hsegs]

/-- While every reported segment is still in the reach, ten seconds after the last report each is reported again (R265). -/
theorem replaceRepeatAt_due (t : Nat) (hat : x.replaceAt = some t) (hdue : t + tenSeconds ≤ m.cc) (hsome : x.overSegs ≠ [])
    (hreach : ∀ g ∈ x.overSegs, g ∈ m.ctxReach x) :
    replaceRepeatAt cid m = x.overSegs.foldl (fun m g => m.replaceEvent cid g)
      (m.setCtx cid { x with lowered := true, replaceAt := some m.cc }) := by
  have hkept : (x.overSegs.filter fun g => (m.ctxReach x).contains g) = x.overSegs :=
    List.filter_eq_self.mpr fun g hg => List.contains_iff_mem.mpr (hreach g hg)
  have hne : x.overSegs.isEmpty = false := by simpa using hsome
  unfold replaceRepeatAt
  simp only [hctx, hat]
  refine (Mach.when_pos _ _ _ (decide_eq_true hdue)).trans ?_
  simp only [hkept, hne, Bool.false_eq_true, if_false, Bool.not_false]

/-- A live context at its HANG limit is halted with CAUSE 7, its clock starts again, the hang is counted and logged, and its
owner gets event 2 (R280). -/
theorem hangLimitAt_due (hst : x.st = .admitted) (hlim : x.dead.hang ≠ 0) (hdue : x.dead.hang * 1200000 ≤ x.clock)
    (hlive : m.ctxLive cid = true) :
    hangLimitAt cid m =
      let m := (m.haltCtx cid 7).onCtx cid fun x =>
        { x with clock := 0, prog := { x.prog with hangs := x.prog.hangs + 1 } }
      (m.logRec 0x0F 0xFFFF cid).raiseOwner cid (m.event 2 cid 0 0 0 0) := by
  unfold hangLimitAt
  simp only [hctx]
  exact Mach.when_pos _ _ _ (by simp [hst, hlim, hdue, hlive])

end

/-- Settles O29: each row's lemma, at the module of the state. -/
theorem bucketsReachAndHangLimit : Obligations.BucketsReachAndHangLimit := by
  unfold Obligations.BucketsReachAndHangLimit
  refine ⟨?refill, ?within, ?exceeded, ?again, ?hang⟩
  case refill =>
    intro s b x hx hdue y
    rw [exec_bucketRefill, bucketRefillAt_due b s.m x hx hdue, Bucket.refill]
  case within =>
    intro s cid x hctx hst hsegs
    rw [exec_reachRecompute, reachRecomputeAt_admitted cid.toNat s.m x hctx hst [] hsegs]
    rfl
  case exceeded =>
    intro s cid x g gs hctx hst hsegs
    rw [exec_reachRecompute, reachRecomputeAt_admitted cid.toNat s.m x hctx hst (g :: gs) hsegs]
    rfl
  case again =>
    intro s cid x t hctx hat hdue hsome hreach
    rw [exec_replaceRequiredRepeat, replaceRepeatAt_due cid.toNat s.m x hctx t hat hdue hsome hreach]
  case hang =>
    intro s cid x hctx hst hlim hdue hlive
    rw [exec_hangLimit, hangLimitAt_due cid.toNat s.m x hctx hst hlim hdue hlive]

end Sys2Proof.Machine
end

section
/-! PROOF. The bytes of a record of the input log (R320, R321): each field is read as it was written. -/

namespace Sys2Proof.Machine

open Sys2Proof

/-! ## Fields of a record -/

theorem ofBytes_toBytes (n v : Nat) : ofBytes (toBytes n v) = v % 256 ^ n := by
  induction n generalizing v with
  | zero => simp [toBytes, ofBytes, Nat.mod_one]
  | succ n ih => rw [toBytes, ofBytes, ih, BitVec.toNat_ofNat, Nat.pow_succ' (n := n), ← Nat.mod_mul]

/-- The field that a record begins with. -/
theorem le_toBytes_append (n v : Nat) (b : Bytes) : le (toBytes n v ++ b) 0 n = v % 256 ^ n := by
  rw [le, List.drop_zero, List.take_left' (toBytes_length n v), ofBytes_toBytes]

/-- A field behind the first n bytes of a record. -/
theorem le_toBytes_append_behind (n v o k : Nat) (b : Bytes) (h : n ≤ o) : le (toBytes n v ++ b) o k = le b (o - n) k := by
  rw [le, le, List.drop_append, toBytes_length, List.drop_of_length_le (by rwa [toBytes_length]), List.nil_append]

/-- A word written whole in n bytes is read as it was. -/
theorem ofNat_toNat_mod_bytes {w : Nat} (x : BitVec w) (n : Nat) (h : w ≤ 8 * n) :
    BitVec.ofNat w (x.toNat % 256 ^ n) = x := by
  have hlt : x.toNat < 256 ^ n :=
    calc x.toNat < 2 ^ w := x.isLt
      _ ≤ 2 ^ (8 * n) := Nat.pow_le_pow_right Nat.two_pos h
      _ = 256 ^ n := Nat.pow_mul 2 8 n
  rw [Nat.mod_eq_of_lt hlt, BitVec.ofNat_toNat, BitVec.setWidth_eq]

theorem padTo_of_length_le (b : Bytes) (n : Nat) (h : b.length ≤ n) : padTo b n = b ++ List.replicate (n - b.length) 0 :=
  List.take_of_length_le (by rw [List.length_append, List.length_replicate]; omega)

/-! ## The record of a message (R321) -/

/-- The 32 bytes of a record before the message's own. -/
def logHeader (lseq time cid mlen queue srcc tag : Nat) : Bytes :=
  toBytes 8 lseq ++ (toBytes 8 time ++ (toBytes 2 cid ++ (toBytes 2 mlen ++ (toBytes 4 queue ++ (toBytes 4 srcc ++
    (toBytes 2 tag ++ toBytes 2 0))))))

theorem logHeader_length (lseq time cid mlen queue srcc tag : Nat) :
    (logHeader lseq time cid mlen queue srcc tag).length = 32 := by
  simp only [logHeader, List.length_append, toBytes_length]

/-- A record is its header, the message and zeros. -/
theorem logRecord_append (lseq time cid mlen queue srcc tag : Nat) (data : Bytes) :
    ∃ pad, logRecord lseq time cid mlen queue srcc tag data =
      logHeader lseq time cid mlen queue srcc tag ++ (data ++ pad) := by
  unfold logRecord
  extract_lets b
  have hb : b = logHeader lseq time cid mlen queue srcc tag ++ data := by simp only [b, logHeader, List.append_assoc]
  rw [padTo_of_length_le b _ (by omega), hb, List.append_assoc]
  exact ⟨_, rfl⟩

/-- The record that the twin makes of its bytes. -/
def LogRec.ofBytes (cid : Nat) (b : Bytes) : LogRec :=
  { lseq := BitVec.ofNat 64 (le b 0 8), time := BitVec.ofNat 64 (le b 8 8), cid := BitVec.ofNat 10 cid,
    mlen := le b 0x12 2, queue := BitVec.ofNat 32 (le b 0x14 4), srcc := BitVec.ofNat 32 (le b 0x18 4),
    jobtag := BitVec.ofNat 16 (le b 0x1C 2), data := (b.drop 32).take (le b 0x12 2) }

/-- A record of the log is read back whole. -/
theorem LogRec.ofBytes_logRecord (lseq time : BitVec 64) (cid : BitVec 10) (queue srcc : BitVec 32) (jobtag : BitVec 16)
    (data : Bytes) (hlen : data.length ≤ 256) :
    LogRec.ofBytes cid.toNat
        (logRecord lseq.toNat time.toNat cid.toNat data.length queue.toNat srcc.toNat jobtag.toNat data) =
      { lseq := lseq, time := time, cid := cid, mlen := data.length, queue := queue, srcc := srcc, jobtag := jobtag,
        data := data } := by
  obtain ⟨pad, hb⟩ :=
    logRecord_append lseq.toNat time.toNat cid.toNat data.length queue.toNat srcc.toNat jobtag.toNat data
  have hmlen : data.length % 256 ^ 2 = data.length := Nat.mod_eq_of_lt (by omega)
  rw [hb, LogRec.ofBytes, List.drop_left' (logHeader_length _ _ _ _ _ _ _)]
  simp only [logHeader, List.append_assoc, le_toBytes_append, le_toBytes_append_behind, hmlen, ofNat_toNat_mod_bytes,
    List.take_left, BitVec.ofNat_toNat, BitVec.setWidth_eq, Nat.reduceLeDiff, Nat.reduceSub, Nat.reduceMul]

end Sys2Proof.Machine
end

section
/-! PROOF. The input log: its commands, the records that the twin keeps and the one it takes (R319 to R323). -/

namespace Sys2Proof.Machine

open Sys2Proof

theorem exec_logOpen (f : FnIx) (tag : BitVec 16) (twin : TwinReply) (s : State) :
    exec (.logOpen f tag twin) s = .next (s.to (logOpenAt f tag.toNat twin s.m)) := rfl
theorem exec_logTrim (f : FnIx) (tag : BitVec 16) (s : State) :
    exec (.logTrim f tag) s = .next (s.to (logTrimAt f tag.toNat s.m)) := rfl
theorem exec_logRead (f : FnIx) (tag : BitVec 16) (ok : Bool) (s : State) :
    exec (.logRead f tag ok) s = .next (s.to (logReadAt f tag.toNat ok s.m)) := rfl
theorem exec_logClose (f : FnIx) (tag : BitVec 16) (s : State) :
    exec (.logClose f tag) s = .next (s.to (logCloseAt f tag.toNat s.m)) := rfl
theorem exec_logWrite (cid : BitVec 10) (queue srcc : BitVec 32) (jobtag : BitVec 16) (time : BitVec 64) (data : Bytes)
    (s : State) : exec (.logWrite cid queue srcc jobtag time data) s =
      .next (s.to (logWriteAt cid.toNat queue.toNat srcc.toNat jobtag.toNat time.toNat data s.m)) := rfl

@[simp] theorem Mach.begun_portUp (m : Mach) (x : Cmd) (p : Nat) : (m.begun x).portUp p = m.portUp p := rfl

/-! ## A log opens, is trimmed and closed (R319, R322, R323) -/

/-- What LOG_OPEN of a log of a size does once it is the twin's to decide. -/
def Mach.logOpenEnds (m : Mach) (x : Cmd) (size : Nat) : TwinReply → Mach
  | .noMemory => m.done x 0x0208
  | .noUnits => m.done x 0x0301 0 4
  | .opened => (m.onCtx x.cid fun y => { y with
      logOpen := true, logPolicy := le x.arg 12 1, logNext := 0, logSize := size, logKept := [], unloggedAt := none }).done x 0

section
variable (f tag : Nat) (m : Mach) (x : Cmd) (y : Ctx) (hctx : m.ctx x.cid = some y) (hst : y.st = .admitted)
include hctx hst

/-- With no log open, a size that is a power of two in range, a policy and the pair port up, the twin's answer decides. -/
theorem logOpenAt_answered (twin : TwinReply) (n : Nat) (ht : m.Turn f tag 0x0130 x) (hshut : y.logOpen = false)
    (hmin : 24 ≤ n) (hmax : n ≤ 32) (hsize : le x.arg 0 8 = 2 ^ n) (hpolicy : le x.arg 12 1 ≤ 1) (hup : m.portUp 8 = true) :
    logOpenAt f tag twin m = (m.begun x).logOpenEnds x (2 ^ n) twin := by
  have hrange : 2 ^ 24 ≤ 2 ^ n ∧ 2 ^ n ≤ 2 ^ 32 :=
    ⟨Nat.pow_le_pow_right Nat.two_pos hmin, Nat.pow_le_pow_right Nat.two_pos hmax⟩
  unfold logOpenAt
  rw [Mach.runCmd_turn m f tag _ _ _ x ht rfl, Mach.onAdmitted_admitted (m.begun x) x _ y hctx hst, hsize]
  rw [if_neg (by simp [hshut]), if_neg (by simpa [hpolicy] using hrange), if_neg (by simp [hup])]
  cases twin <;> rfl

theorem logTrimAt_open (ht : m.Turn f tag 0x0131 x) (hopen : y.logOpen = true) :
    logTrimAt f tag m = ((m.begun x).onCtx x.cid fun y =>
      { y with logKept := y.logKept.filter fun e => le x.arg 0 8 < e.1 }).done x 0 := by
  unfold logTrimAt
  rw [Mach.runCmd_turn m f tag _ _ _ x ht rfl, Mach.onAdmitted_admitted (m.begun x) x _ y hctx hst]
  exact if_neg (by simp [hopen])

theorem logCloseAt_open (ht : m.Turn f tag 0x0133 x) (hopen : y.logOpen = true) :
    logCloseAt f tag m = ((m.begun x).onCtx x.cid fun y =>
      { y with logOpen := false, logPolicy := 0, logNext := 0, logSize := 0, logKept := [] }).done x 0 := by
  unfold logCloseAt
  rw [Mach.runCmd_turn m f tag _ _ _ x ht rfl, Mach.onAdmitted_admitted (m.begun x) x _ y hctx hst]
  exact if_neg (by simp [hopen])

end

/-! ## The twin's side (R320, R323) -/

/-- The records that a log kept here holds from an LSEQ on, as far as they fit into the host buffer. -/
theorem logReadAt_kept (f tag : Nat) (m : Mach) (x : Cmd) (t : TwinLog) (ht : m.Turn f tag 0x0132 x)
    (htwin : aget m.fabric.twin x.cid = some t) (hfn : x.fn ≠ mgmtFn) (hlen : 0 < x.len) :
    logReadAt f tag true m =
      let y := fitRecs (t.recs.filter fun r => le x.arg 0 8 ≤ r.lseq.toNat) x.len (le x.arg 0 8)
      ((m.begun x).hostPut x.addr y.1).done x 0 y.2 := by
  unfold logReadAt
  rw [Mach.runCmd_turn m f tag _ _ _ x ht rfl]
  simp only [Mach.begun_fabric, htwin]
  rw [if_neg (Nat.ne_of_gt hlen), Mach.doneWith_host _ _ _ _ hfn]

/-- A log that has taken a record with its next LSEQ. -/
def TwinLog.took (t : TwinLog) (time : BitVec 64) (cid : BitVec 10) (queue srcc : BitVec 32) (jobtag : BitVec 16)
    (data : Bytes) : TwinLog :=
  { t with next := t.next + 1, recs := t.recs ++
      [{ lseq := t.next, time := time, cid := cid, mlen := data.length, queue := queue, srcc := srcc, jobtag := jobtag,
         data := data }] }

/-- A record's bytes join the log that is kept for their context. -/
theorem Mach.twinAppend_twin (m : Mach) (cid : Nat) (b : Bytes) : (m.twinAppend cid b).fabric.twin =
    aset m.fabric.twin cid { agetD m.fabric.twin cid {} with
      next := (LogRec.ofBytes cid b).lseq + 1, recs := (agetD m.fabric.twin cid {}).recs ++ [LogRec.ofBytes cid b] } := rfl

/-- The log kept for a context takes the bytes of a record of at most 256 bytes as the record they were made of. -/
theorem logWriteAt_took (m : Mach) (cid : BitVec 10) (queue srcc : BitVec 32) (jobtag : BitVec 16) (time : BitVec 64)
    (data : Bytes) (hlen : data.length ≤ 256) (hup : m.portUp 8 = true) :
    (logWriteAt cid.toNat queue.toNat srcc.toNat jobtag.toNat time.toNat data m).fabric.twin =
      aset m.fabric.twin cid.toNat ((agetD m.fabric.twin cid.toNat {}).took time cid queue srcc jobtag data) := by
  unfold logWriteAt
  rw [Mach.when_pos _ _ _ (by simp [hlen, hup]), Mach.twinAppend_twin, LogRec.ofBytes_logRecord _ _ _ _ _ _ _ hlen]
  rfl

/-- Settles O36: each command's lemma, and the twin's logs after a record. -/
theorem inputLogsOpenAndClose : Obligations.InputLogsOpenAndClose := by
  unfold Obligations.InputLogsOpenAndClose
  refine ⟨?opens, ?trim, ?close, ?read, ?write⟩
  case opens =>
    intro s f tag x y n ht hctx hst hshut hmin hmax hsize hpolicy hup
    have hends (twin : TwinReply) := logOpenAt_answered f tag.toNat s.m x y hctx hst twin n ht hshut hmin hmax hsize hpolicy hup
    refine ⟨?_, ?_, ?_⟩ <;> rw [exec_logOpen, hends, Mach.logOpenEnds]
  case trim =>
    intro s f tag x y ht hctx hst hopen
    rw [exec_logTrim, logTrimAt_open f tag.toNat s.m x y hctx hst ht hopen]
  case close =>
    intro s f tag x y ht hctx hst hopen
    rw [exec_logClose, logCloseAt_open f tag.toNat s.m x y hctx hst ht hopen]
  case read =>
    intro s f tag x t y ht htwin hfn hlen
    rw [exec_logRead, logReadAt_kept f tag.toNat s.m x t ht htwin hfn hlen]
  case write =>
    intro s cid queue srcc jobtag time data t hlen hup
    have htwin := logWriteAt_took s.m cid queue srcc jobtag time data hlen hup
    refine ⟨_, exec_logWrite cid queue srcc jobtag time data s, rfl, ?_, fun c hc => ?_⟩
    · rw [State.to_m, Mach.canon_fabric, htwin, aget_aset_self, TwinLog.took]
    · rw [State.to_m, Mach.canon_fabric, htwin, aget_aset_ne _ _ hc]

end Sys2Proof.Machine
end

section
/-! PROOF. FABRIC_LINK: its actions on an engine of a port, and on a port in quarantine (R309, R310, R313, R316). -/

namespace Sys2Proof.Machine

open Sys2Proof

theorem exec_fabricLinkHold (f : FnIx) (tag : BitVec 16) (s : State) :
    exec (.fabricLinkHold f tag) s = .next (s.to (linkHoldAt f tag.toNat s.m)) := rfl
theorem exec_fabricLinkRetrain (f : FnIx) (tag : BitVec 16) (s : State) :
    exec (.fabricLinkRetrain f tag) s = .next (s.to (linkRetrainAt f tag.toNat s.m)) := rfl
theorem exec_fabricLinkLeave (f : FnIx) (tag : BitVec 16) (s : State) :
    exec (.fabricLinkLeave f tag) s = .next (s.to (linkLeaveAt f tag.toNat s.m)) := rfl
theorem exec_fabricLinkJoin (f : FnIx) (tag : BitVec 16) (s : State) :
    exec (.fabricLinkJoin f tag) s = .next (s.to (linkJoinAt f tag.toNat s.m)) := rfl
theorem exec_fabricLinkUnquarantine (f : FnIx) (tag : BitVec 16) (s : State) :
    exec (.fabricLinkUnquarantine f tag) s = .next (s.to (unquarantineAt f tag.toNat s.m)) := rfl

@[simp] theorem Mach.begun_eng (m : Mach) (x : Cmd) (e : Nat) : (m.begun x).eng e = m.eng e := rfl
@[simp] theorem Mach.begun_port (m : Mach) (x : Cmd) (p : Nat) : (m.begun x).port p = m.port p := rfl
@[simp] theorem Mach.begun_engAt (m : Mach) (x : Cmd) (p i : Nat) : (m.begun x).engAt p i = m.engAt p i := rfl

section
variable (f tag : Nat) (m : Mach) (x : Cmd) (ht : m.Turn f tag 0x0173 x) (hp : le x.arg 0 1 ≤ 8)
include ht hp

/-- An action on an engine that serves the port and is in ACTIVE runs. -/
theorem Mach.fabricLink_active (act e : Nat) (body : Cmd → Nat → Mach → Mach) (hact : le x.arg 2 1 = act)
    (he : m.engAt (le x.arg 0 1) (le x.arg 1 1) = some e) (hst : (m.eng e).st = .active) :
    m.fabricLink f tag act body = body x e (m.begun x) := by
  unfold Mach.fabricLink
  rw [Mach.runCmd_turn m f tag _ _ _ x ht (by simp [hact]), if_neg (Nat.not_lt.mpr hp)]
  simp only [Mach.begun_engAt, he]
  exact if_pos hst

/-- An action on an engine that the port does not have is refused. -/
theorem Mach.fabricLink_absent (act : Nat) (body : Cmd → Nat → Mach → Mach) (hact : le x.arg 2 1 = act)
    (he : m.engAt (le x.arg 0 1) (le x.arg 1 1) = none) : m.fabricLink f tag act body = (m.begun x).done x 0x0102 := by
  unfold Mach.fabricLink
  rw [Mach.runCmd_turn m f tag _ _ _ x ht (by simp [hact]), if_neg (Nat.not_lt.mpr hp)]
  simp only [Mach.begun_engAt, he]

/-- A port leaves quarantine with no foul counted. -/
theorem unquarantineAt_port (hact : le x.arg 2 1 = 5) :
    unquarantineAt f tag m =
      ((m.begun x).onPort (le x.arg 0 1) fun q => { q with quarantined := false, fouls := [] }).done x 0 := by
  unfold unquarantineAt
  rw [Mach.runCmd_turn m f tag _ _ _ x ht (by simp [hact])]
  exact if_neg (Nat.not_lt.mpr hp)

variable (e : Nat) (he : m.engAt (le x.arg 0 1) (le x.arg 1 1) = some e) (hst : (m.eng e).st = .active)
include he hst

/-- A HOLD without reserved bits and not of LINK goes out. -/
theorem linkHoldAt_sends (hact : le x.arg 2 1 = 1) (hres : fld (le x.arg 3 4) 6 10 = 0) (hlink : bitOf (le x.arg 3 4) 4 = false) :
    linkHoldAt f tag m = ((m.begun x).sendLink e 10 (toBytes 4 (le x.arg 3 4))).done x 0 := by
  unfold linkHoldAt
  rw [Mach.fabricLink_active f tag m x ht hp 1 e _ hact he hst]
  exact if_neg (by simp [hres, hlink])

theorem linkRetrainAt_asks (hact : le x.arg 2 1 = 2) :
    linkRetrainAt f tag m = ((m.begun x).ask e (m.eng e).retrainWhat).done x 0 := by
  unfold linkRetrainAt
  rw [Mach.fabricLink_active f tag m x ht hp 2 e _ hact he hst, Mach.begun_eng]

/-- An engine of its port's set asks to leave it. -/
theorem linkLeaveAt_asks (hact : le x.arg 2 1 = 3) (hin : bitOf (m.port (le x.arg 0 1)).active.toNat (le x.arg 1 1) = true) :
    linkLeaveAt f tag m = ((m.begun x).ask e 3).done x 0 := by
  unfold linkLeaveAt
  rw [Mach.fabricLink_active f tag m x ht hp 3 e _ hact he hst]
  exact if_neg (by simp [hin])

/-- An engine outside its port's set, and cabled as it must be, asks to join it. -/
theorem linkJoinAt_asks (hact : le x.arg 2 1 = 4) (hout : bitOf (m.port (le x.arg 0 1)).active.toNat (le x.arg 1 1) = false)
    (hcable : (m.eng e).miscabled = false) : linkJoinAt f tag m = ((m.begun x).ask e 4).done x 0 := by
  unfold linkJoinAt
  rw [Mach.fabricLink_active f tag m x ht hp 4 e _ hact he hst]
  exact if_neg (by simp [hout, hcable])

end

/-- Settles O39: each action's lemma, and the refusal where the port has no such engine. -/
theorem fabricLinkActions : Obligations.FabricLinkActions := by
  unfold Obligations.FabricLinkActions
  refine ⟨?engine, ?port, ?absent⟩
  case engine =>
    intro s f tag x e p i v m ht hp he hst
    refine ⟨?hold, ?retrain, ?leave, ?join⟩
    case hold =>
      intro hact hres hlink
      rw [exec_fabricLinkHold, linkHoldAt_sends f tag.toNat s.m x ht hp e he hst hact hres hlink]
    case retrain =>
      intro hact
      rw [exec_fabricLinkRetrain, linkRetrainAt_asks f tag.toNat s.m x ht hp e he hst hact]
    case leave =>
      intro hact hin
      rw [exec_fabricLinkLeave, linkLeaveAt_asks f tag.toNat s.m x ht hp e he hst hact hin]
    case join =>
      intro hact hout hcable
      rw [exec_fabricLinkJoin, linkJoinAt_asks f tag.toNat s.m x ht hp e he hst hact hout hcable]
  case port =>
    intro s f tag x ht hact hp
    rw [exec_fabricLinkUnquarantine, unquarantineAt_port f tag.toNat s.m x ht hp hact]
  case absent =>
    intro s f tag x ht hact hp he
    rw [exec_fabricLinkRetrain, linkRetrainAt, Mach.fabricLink_absent f tag.toNat s.m x ht hp 2 _ hact he]

end Sys2Proof.Machine
end

section
/-! PROOF. What sending leaves as it is: an engine's state, what it expects to receive and which role it fills, and the engine
set of a port (R288, R289, R305, R313). -/

namespace Sys2Proof.Machine

open Sys2Proof

/-- Of an engine, what sending has no part in: its state, the role it fills, and how its partner's frames stand. -/
def LightEng.standing (g : LightEng) : EngSt × Option Nat × Bool × Nat × BitVec 12 :=
  (g.st, g.standsFor, g.discard, g.outLets, g.rxSeq)

/-- Of a port, its engine set and the one asked for. -/
def FPort.sets (p : FPort) : BitVec 8 × Option (BitVec 8) := (p.active, p.pendingSet)

/-- From m to m' every engine's standing and every port's sets stay. -/
structure Mach.Stands (m m' : Mach) : Prop where
  eng : ∀ e, (m'.eng e).standing = (m.eng e).standing
  port : ∀ p, (m'.port p).sets = (m.port p).sets

theorem vget_vset_out {α : Type} [Inhabited α] {n : Nat} (v : Vector α n) (i : Nat) (x : α) (j : Nat) (h : n ≤ i) :
    vget (vset v i x) j = vget v j := by
  have hv : vset v i x = v := by
    ext j hj
    simp [vset, Vector.getElem_setIfInBounds_ne, show i ≠ j by omega]
  rw [hv]

theorem Mach.Stands.of_fabric {m m' : Mach} (h : m'.fabric = m.fabric) : Mach.Stands m m' :=
  ⟨fun e => by rw [Mach.eng, Mach.eng, h], fun p => by rw [Mach.port, Mach.port, h]⟩

theorem Mach.Stands.refl (m : Mach) : Mach.Stands m m := .of_fabric rfl

theorem Mach.Stands.trans {m m' m'' : Mach} (h : Mach.Stands m m') (h' : Mach.Stands m' m'') : Mach.Stands m m'' :=
  ⟨fun e => (h'.eng e).trans (h.eng e), fun p => (h'.port p).trans (h.port p)⟩

theorem Mach.Stands.foldl {β : Type} (f : Mach → β → Mach) (hf : ∀ m x, Mach.Stands m (f m x)) (l : List β) (m : Mach) :
    Mach.Stands m (l.foldl f m) := by
  induction l generalizing m with
  | nil => exact .refl m
  | cons x r ih => exact (hf m x).trans (ih _)

/-- A change of an engine that keeps its standing. -/
theorem Mach.Stands.onEng (m : Mach) (e : Nat) (f : LightEng → LightEng)
    (hf : ∀ g, (f g).standing = g.standing := by exact fun _ => rfl) :
    Mach.Stands m (m.onEng e f) := by
  refine ⟨fun d => ?_, fun _ => rfl⟩
  by_cases hd : d = e
  · subst hd
    rcases Nat.lt_or_ge d 56 with h | h
    · rw [Mach.eng_onEng_self m d f h, hf]
    · rw [Mach.eng, Mach.onEng, vget_vset_out _ _ _ _ h, Mach.eng]
  · rw [Mach.eng_onEng_ne m f hd]

/-- A change of a port that keeps its sets. -/
theorem Mach.Stands.onPort (m : Mach) (p : Nat) (f : FPort → FPort)
    (hf : ∀ q, (f q).sets = q.sets := by exact fun _ => rfl) :
    Mach.Stands m (m.onPort p f) := by
  refine ⟨fun _ => rfl, fun d => ?_⟩
  by_cases hd : d = p
  · subst hd
    rcases Nat.lt_or_ge d 9 with h | h
    · rw [Mach.port_onPort_self m d f h, hf]
    · rw [Mach.port, Mach.onPort, vget_vset_out _ _ _ _ h, Mach.port]
  · rw [Mach.port_onPort_ne m f hd]

/-! ## Sending, step by step -/

theorem Mach.portCount_stands (m : Mach) (e off n : Nat) : Mach.Stands m (m.portCount e off n) :=
  .onPort m _ _

theorem Mach.takeTok_stands (m : Mach) (key n : Nat) : Mach.Stands m (m.takeTok key n) := by
  unfold Mach.takeTok
  split
  · exact .of_fabric rfl
  · exact .refl m

theorem Mach.emit_stands (m : Mach) (e : Nat) (f : Bytes) : Mach.Stands m (m.emit e f) := by
  unfold Mach.emit
  exact .onEng m e _

theorem Mach.queueLink_stands (m : Mach) (e op : Nat) (pay : Bytes) : Mach.Stands m (m.queueLink e op pay) := by
  refine .onEng m _ _ fun g => ?_
  split <;> rfl

theorem Mach.serve_stands (m : Mach) (e src : Nat) : Mach.Stands m (m.serve e src) := by
  unfold Mach.serve
  split
  · exact .refl m
  · exact .onEng m _ _

theorem Mach.tx_stands (m : Mach) (e : Nat) (x : TxFrame) : Mach.Stands m (m.tx e x) := by
  unfold Mach.tx
  extract_lets ch m1 m2 g f m3
  have h1 : Mach.Stands m m1 := by
    unfold m1
    split
    · exact .refl m
    · exact m.takeTok_stands _ _
  have h2 : Mach.Stands m1 m2 := by
    unfold m2
    split
    · exact m1.portCount_stands _ _ _
    · exact .refl m1
  have h3 : Mach.Stands m m3 := (h1.trans h2).trans ((m2.emit_stands e f).trans (.onEng (m2.emit e f) e _))
  split
  · extract_lets m4
    have h4 : Mach.Stands m3 m4 := .onEng m3 _ _
    exact (h3.trans h4).trans (m4.queueLink_stands _ _ _)
  · exact h3

/-- A frame that waits is taken from its queue and sent. -/
theorem Mach.txQueued_stands (m : Mach) (e i : Nat) (x : TxFrame) :
    Mach.Stands m ((m.onEng e fun g => { g with queue := g.queue.eraseIdx i }).tx e x) :=
  (Mach.Stands.onEng m e _).trans (Mach.tx_stands _ e x)

theorem Mach.pumpN_stands (n e : Nat) (m : Mach) : Mach.Stands m (Mach.pumpN n e m) := by
  induction n generalizing m with
  | zero => exact .refl m
  | succ n ih =>
    unfold Mach.pumpN
    split
    case h_1 x _ _ => exact ((m.serve_stands e x.1.src).trans (Mach.txQueued_stands _ e x.2 x.1)).trans (ih _)
    case h_2 => exact .refl m
    case h_3 =>
      split
      case h_1 x _ => exact (m.txQueued_stands e x.2 x.1).trans (ih _)
      case h_2 =>
        split
        · exact ((m.emit_stands e _).trans (.onEng (m.emit e _) e _)).trans (ih _)
        · exact .refl m

theorem Mach.pump_stands (m : Mach) (e : Nat) : Mach.Stands m (m.pump e) := by
  unfold Mach.pump
  split
  · exact .refl m
  · exact Mach.pumpN_stands _ e m

theorem Mach.sendLink_stands (m : Mach) (e op : Nat) (pay : Bytes) : Mach.Stands m (m.sendLink e op pay) :=
  (m.queueLink_stands e op pay).trans (Mach.pump_stands _ e)

/-! ## A new engine set (R313) -/

theorem Mach.requeue_stands (p : Nat) (l : List TxFrame) (m : Mach) (dest : List ((Nat × Nat) × Nat)) :
    Mach.Stands m (m.requeue p l dest) := by
  induction l generalizing m dest with
  | nil => exact .refl m
  | cons x r ih =>
    unfold Mach.requeue
    extract_lets key onto m1
    have h1 : Mach.Stands m m1 := by
      unfold m1
      clear_value onto
      cases onto with
      | none => exact .refl m
      | some e => exact .onEng m e _
    exact h1.trans (ih m1 _)

/-- Beyond the set itself, a new engine set moves frames alone. -/
theorem Mach.newSet_stands (m : Mach) (p : Nat) (set_ : BitVec 8) :
    Mach.Stands (m.onPort p fun q => { q with active := set_, pendingSet := none }) (m.newSet p set_) := by
  unfold Mach.newSet
  extract_lets m1 es wait m2
  have h2 : Mach.Stands m1 m2 := .foldl _ (fun m e => .onEng m e _) es m1
  exact (h2.trans (m2.requeue_stands p wait [])).trans (.foldl _ (fun m e => m.pump_stands e) es _)

/-- The set in force is the one asked for, and none is asked for any more. -/
theorem Mach.newSet_sets (m : Mach) (p : Nat) (set_ : BitVec 8) (hp : p < 9) :
    ((m.newSet p set_).port p).sets = (set_, none) := by
  rw [(m.newSet_stands p set_).port p, Mach.port_onPort_self m p _ hp]
  rfl

theorem Mach.newSet_standing (m : Mach) (p : Nat) (set_ : BitVec 8) (e : Nat) :
    ((m.newSet p set_).eng e).standing = (m.eng e).standing := (m.newSet_stands p set_).eng e

/-- An engine serves the port of the role it fills. -/
theorem Mach.engPort_of_standing (m m' : Mach) (e : Nat) (h : (m'.eng e).standing = (m.eng e).standing) :
    m'.engPort e = m.engPort e := by
  have hrole : (m'.eng e).standsFor = (m.eng e).standsFor := congrArg (·.2.1) h
  rw [Mach.engPort, Mach.engPort, Mach.engRole, Mach.engRole, hrole]

end Sys2Proof.Machine
end

section
/-! PROOF. LINK frames, frames in error and fouls (R288 to R290, R309, R314 to R316). -/

namespace Sys2Proof.Machine

open Sys2Proof

theorem exec_credit (e : FieldIx) (pay : Bytes) (s : State) :
    exec (.credit e pay) s = .next (s.to (creditAt e pay s.m)) := rfl
theorem exec_fabricLet (e : FieldIx) (pay : Bytes) (s : State) :
    exec (.fabricLet e pay) s = .next (s.to (fabricLetAt e pay s.m)) := rfl
theorem exec_frameError (e : FieldIx) (cause : Fin 4) (chan : BitVec 3) (s : State) :
    exec (.frameError e cause chan) s = .next (s.to (frameErrorAt e cause chan.toNat s.m)) := rfl
theorem exec_hold (e : FieldIx) (v : BitVec 32) (s : State) :
    exec (.hold e v) s = .next (s.to (holdAt e v.toNat s.m)) := rfl
theorem exec_holdExpiry (e : FieldIx) (ch : Fin 6) (s : State) :
    exec (.holdExpiry e ch) s = .next (s.to (holdExpiryAt e ch s.m)) := rfl
theorem exec_foul (e : FieldIx) (code : Fin 10) (fr : Bytes) (s : State) :
    exec (.foul e code fr) s = .next (s.to (foulAt e code fr s.m)) := rfl
theorem exec_foulFrameReceive (e : FieldIx) (pay : Bytes) (s : State) :
    exec (.foulFrameReceive e pay) s = .next (s.to (foulFrameAt e pay s.m)) := rfl

/-- Two changes of an engine that agree on it are one. -/
theorem Mach.onEng_congr (m : Mach) (e : Nat) (f g : LightEng → LightEng) (h : f (m.eng e) = g (m.eng e)) :
    m.onEng e f = m.onEng e g := by
  rw [Mach.onEng, Mach.onEng, h]

/-! ## Credits and lets (R288, R289) -/

/-- The credits of a pool once its cumulative count has advanced to the one that a CREDIT frame carries. -/
def LightEng.credits (g : LightEng) (pay : Bytes) (p : Nat) : Nat :=
  lget poolSize p + advance16 (lget g.granted p - lget poolSize p) (le pay (2 * p) 2)

theorem creditAt_counts (e : Nat) (pay : Bytes) (m : Mach) (hlen : pay.length = 20) (hst : (m.eng e).st ≠ .idle) :
    creditAt e pay m = (m.onEng e fun g => { g with granted := (List.range 10).map (g.credits pay) }).pump e := by
  unfold creditAt
  exact Mach.when_pos _ _ _ (by simp [hlen, hst])

/-- A cumulative count advances to the next number that ends in the 16 bits that have come. -/
theorem advance16_spec (old new : Nat) (h : new < 65536) :
    advance16 old new % 65536 = new ∧ old ≤ advance16 old new ∧ advance16 old new < old + 65536 := by
  unfold advance16
  omega

/-- A LET that names a frame of the replay buffer: that frame and those behind it go again. -/
theorem fabricLetAt_found (e : Nat) (pay : Bytes) (m : Mach) (i : Nat) (hlen : pay.length = 4)
    (hcarries : (m.eng e).carries = true) (hseq : le pay 0 2 < 4096)
    (hi : ((m.eng e).replay.findIdx? fun f => frSeq f == le pay 0 2) = some i) :
    fabricLetAt e pay m = (((m.portCount e 0x70).onEng e fun g =>
      { g with again := (m.eng e).replay.drop i,
               letRun := if (m.eng e).letSeq.toNat = le pay 0 2 ∧ (m.eng e).letRun ≠ 0 then (m.eng e).letRun + 1 else 1,
               letSeq := BitVec.ofNat 12 (le pay 0 2) }).pump e) := by
  have heng : (m.portCount e 0x70).eng e = m.eng e := rfl
  unfold fabricLetAt
  refine (Mach.when_pos _ _ _ (by simp [hlen, hcarries, hseq])).trans (congrArg (·.pump e) (Mach.onEng_congr _ _ _ _ ?_))
  simp [heng, hi]

/-! ## Frames in error (R289, R290, R398) -/

/-- A codeword that FEC has corrected is counted. -/
theorem frameErrorAt_corrected (e cause chan : Nat) (m : Mach) (hcarries : (m.eng e).carries = true) (hcause : cause = 0) :
    frameErrorAt e cause chan m = m.portCount e 0x78 := by
  unfold frameErrorAt
  exact if_pos (by simp [hcarries, hcause])

/-- With no retrain on probation a frame in error is no more than that. -/
theorem frameErrorAt_bad (e cause chan : Nat) (m : Mach) (hcarries : (m.eng e).carries = true) (hcause : 1 ≤ cause)
    (hchan : chan < 6) (hprob : (m.eng e).probation = none) : frameErrorAt e cause chan m = m.frameBad e cause chan := by
  have hne : cause ≠ 0 := Nat.ne_of_gt hcause
  unfold frameErrorAt
  rw [if_neg (by simp [hne]), Mach.when_pos _ _ _ (by simp [hcarries, hcause, hchan])]
  simp only [hprob, Bool.false_eq_true, if_false]

/-- An ordinary frame in error, unless it is one out of order while frames are discarded, has a LET sent and frames discarded
from a module that has the engine as it was. -/
theorem Mach.frameBad_ordinary (m : Mach) (e cause chan : Nat) (hchan : chan < 4)
    (hnew : ¬ ((m.eng e).discard = true ∧ cause = 3)) : ∃ (m' : Mach) (pay : Bytes), m'.eng e = m.eng e ∧
      m.frameBad e cause chan = (m'.onEng e fun g => { g with discard := true, outLets := g.outLets + 1 }).sendLink e 9 pay := by
  unfold Mach.frameBad
  extract_lets m1 g m2
  have hg : g = m.eng e := by
    unfold g m1
    split
    · rfl
    · split <;> rfl
  have hord : (!ordinary chan) = false := by simp [ordinary, hchan]
  rw [hord, if_neg Bool.false_ne_true, if_neg (by simpa [← hg, g] using hnew)]
  exact ⟨m2, _, hg, rfl⟩

/-- An engine whose LET is on its way: it discards frames, has one LET more outstanding, and expects the frame that it did. -/
theorem Mach.frameBad_discards (m : Mach) (e cause chan : Nat) (hchan : chan < 4) (he : e < 56)
    (hnew : ¬ ((m.eng e).discard = true ∧ cause = 3)) :
    ((m.frameBad e cause chan).eng e).discard = true ∧
    ((m.frameBad e cause chan).eng e).outLets = (m.eng e).outLets + 1 ∧
    ((m.frameBad e cause chan).eng e).rxSeq = (m.eng e).rxSeq := by
  obtain ⟨m', pay, heng, hbad⟩ := m.frameBad_ordinary e cause chan hchan hnew
  have hstand := (Mach.sendLink_stands (m'.onEng e fun g => { g with discard := true, outLets := g.outLets + 1 }) e 9 pay).eng e
  rw [← hbad, Mach.eng_onEng_self m' e _ he, heng] at hstand
  simp only [LightEng.standing, Prod.mk.injEq] at hstand
  obtain ⟨-, -, hdiscard, hlets, hseq⟩ := hstand
  exact ⟨hdiscard, hlets, hseq⟩

/-! ## Holds (R309) -/

/-- The channels that a HOLD stops, each until its time. -/
def LightEng.heldUntil (g : LightEng) (v stop : Nat) : AMap Nat :=
  ([0, 1, 2, 3, 5].filter fun ch => bitOf v ch).foldl (fun h ch => aset h ch stop) g.holds

/-- A HOLD with a time, without reserved bits and not of LINK, stops its channels. -/
theorem holdAt_stops (e v : Nat) (m : Mach) (hcarries : (m.eng e).carries = true) (hres : fld v 6 10 = 0)
    (hlink : bitOf v 4 = false) (htime : v / 2 ^ 16 ≠ 0) (hv : v < 2 ^ 32) :
    holdAt e v m =
      (m.onEng e fun g => { g with holds := g.heldUntil v (m.cc + v / 2 ^ 16 % 2 ^ 16 * 64 * 12 / 10) }).pump e := by
  have hword : v / 2 ^ 16 % 2 ^ 16 ≠ 0 := by omega
  unfold holdAt
  rw [Mach.when_pos _ _ _ (by simp [hcarries, hres])]
  simp only [hlink, Bool.false_eq_true, if_false, if_neg hword]
  rfl

theorem holdExpiryAt_due (e ch : Nat) (m : Mach) (t : Nat) (ht : aget (m.eng e).holds ch = some t) (hdue : t ≤ m.cc) :
    holdExpiryAt e ch m = (m.onEng e fun g => { g with holds := adel g.holds ch }).pump e := by
  unfold holdExpiryAt
  simp only [ht]
  exact Mach.when_pos _ _ _ (decide_eq_true hdue)

/-! ## Fouls (R314, R315) -/

/-- A frame beyond its pool, or too far ahead, is counted as a foul; no place in the sequence passes. -/
theorem foulAt_counts (e code : Nat) (f : Bytes) (m : Mach) (hlistens : m.listens e (frChan f) = true)
    (hgood : frGood f = true) (hfoul : m.foulOf e f = some code) (hcode : code = 2 ∨ code = 3) :
    foulAt e code f m = (m.rxAck e f).countFoul e code f := by
  have hpass : ¬ (ordinary (frChan f) && code ≠ 3 && code ≠ 2 && ((m.rxAck e f).countFoul e code f).seqAhead e f = 0) = true := by
    rcases hcode with rfl | rfl <;> simp
  have hlink : (code != 8) = true := by
    rcases hcode with rfl | rfl <;> rfl
  unfold foulAt
  rw [Mach.when_pos _ _ _ (by simp [hlistens, hgood, hfoul, hlink])]
  exact if_neg hpass

theorem foulFrameAt_counts (e : Nat) (pay : Bytes) (m : Mach) (hlen : pay.length = 24) (hst : (m.eng e).st ≠ .idle) :
    foulFrameAt e pay m = m.portCount e 0x1000 := by
  unfold foulFrameAt
  exact Mach.when_pos _ _ _ (by simp [hlen, hst])

end Sys2Proof.Machine
end

section
/-! PROOF. Retrains, engine sets and IDENT (R306, R307, R310 to R313, R397). -/

namespace Sys2Proof.Machine

open Sys2Proof

theorem exec_retrain (e : FieldIx) (v : BitVec 32) (s : State) :
    exec (.retrain e v) s = .next (s.to (retrainAt e v.toNat s.m)) := rfl
theorem exec_retrainLocalCause (e : FieldIx) (cause : RetrainCause) (s : State) :
    exec (.retrainLocalCause e cause) s = .next (s.to (localCauseAt e cause s.m)) := rfl
theorem exec_retrainReqResend (e : FieldIx) (s : State) :
    exec (.retrainReqResend e) s = .next (s.to (reqResendAt e s.m)) := rfl
theorem exec_engineTrainDone (e : FieldIx) (lanes : BitVec 16) (s : State) :
    exec (.engineTrainDone e lanes) s = .next (s.to (trainDoneAt e lanes s.m)) := rfl
theorem exec_engineQualifyDone (e : FieldIx) (bad : Bool) (ovr : BitVec 16) (s : State) :
    exec (.engineQualifyDone e bad ovr) s = .next (s.to (qualifyDoneAt e bad ovr s.m)) := rfl
theorem exec_engineSetDrainDone (p : PortIx) (s : State) :
    exec (.engineSetDrainDone p) s = .next (s.to (drainDoneAt p s.m)) := rfl
theorem exec_ident (e : FieldIx) (pay : Bytes) (s : State) :
    exec (.ident e pay) s = .next (s.to (identAt e pay s.m)) := rfl
theorem exec_identSend (e : FieldIx) (s : State) : exec (.identSend e) s = .next (s.to (identSendAt e s.m)) := rfl

/-! ## Asking for a retrain (R310, R311) -/

section
variable (e v : Nat) (m : Mach) (hlow : 1 ≤ fld v 4 4) (hhigh : fld v 4 4 ≤ 4)
include hlow hhigh

/-- An engine in ACTIVE follows its partner's REQ. -/
theorem retrainAt_req (hkind : fld v 0 4 = 1) (hst : (m.eng e).st = .active) : retrainAt e v m = m.follow e v := by
  unfold retrainAt
  rw [Mach.when_pos _ _ _ (by simp [hlow, hhigh])]
  simp only [hkind, hst]

/-- An engine whose request is acknowledged begins when its partner is ready for that request. -/
theorem retrainAt_ready (hkind : fld v 0 4 = 3) (hst : (m.eng e).st = .leading ∨ (m.eng e).st = .following)
    (hsame : fld v 8 8 = (m.eng e).rnum.toNat) : retrainAt e v m = m.begin e := by
  unfold retrainAt
  rw [Mach.when_pos _ _ _ (by simp [hlow, hhigh])]
  rcases hst with hst | hst
  · simp only [hkind, hst, hsame, beq_self_eq_true, if_true]
  · simp only [hkind, hst, hsame, beq_self_eq_true, if_true]

end

/-- An engine in ACTIVE with a cause asks for a retrain. -/
theorem localCauseAt_asks (e : Nat) (cause : RetrainCause) (m : Mach) (hst : (m.eng e).st = .active)
    (hcause : cause = .lets → 8 ≤ (m.eng e).letRun) : localCauseAt e cause m = m.ask e (m.eng e).retrainWhat := by
  unfold localCauseAt
  refine Mach.when_pos _ _ _ ?_
  cases cause with
  | lets => simpa [hst] using hcause rfl
  | errorRatio => simp [hst]
  | lossOfSignal => simp [hst]

/-- A REQ unanswered for 10 µs is sent again, and the eighth takes the engine down. -/
theorem reqResendAt_due (e : Nat) (m : Mach) (hst : (m.eng e).st = .asking) (hdue : (m.eng e).reqAt + usCc 10 ≤ m.cc) :
    reqResendAt e m = if 8 ≤ (m.eng e).reqs then m.engDown e
      else (m.onEng e fun g => { g with reqs := g.reqs + 1, reqAt := m.cc }).sendRetrain e 1 := by
  unfold reqResendAt
  exact Mach.when_pos _ _ _ (by simp [hst, hdue])

/-! ## Training and qualification (R311, R397) -/

/-- The end of training: at least 15 lanes go on to qualification. -/
theorem trainDoneAt_due (e : Nat) (lanes : BitVec 16) (m : Mach) (hst : (m.eng e).st = .train)
    (hdue : (m.eng e).reqAt + usCc (trainUs (m.eng e).what) ≤ m.cc) :
    trainDoneAt e lanes m = if laneCount lanes < 15 then m.engDown e
      else m.onEng e fun g => { g with st := .qualify, lanes := lanes, saved := true, reqAt := m.cc } := by
  unfold trainDoneAt
  exact Mach.when_pos _ _ _ (by simp [hst, hdue])

/-- A codeword beyond correction fails a qualification. -/
theorem qualified_uncorrectable (lanes ovr : BitVec 16) : qualified lanes true ovr = none := rfl

/-- With no lane over its limit every lane stays. -/
theorem qualified_clean (lanes : BitVec 16) : qualified lanes false 0 = some lanes := by
  have hnone : laneCount (lanes &&& 0) = 0 := by
    rw [show lanes &&& 0 = 0 from BitVec.and_zero]
    rfl
  unfold qualified
  simp only [hnone, Bool.false_eq_true, if_false, if_true]

section
variable (e : Nat) (ovr : BitVec 16) (m : Mach) (hst : (m.eng e).st = .qualify)
include hst

theorem qualifyDoneAt_failed (bad : Bool) (hq : qualified (m.eng e).lanes bad ovr = none) :
    qualifyDoneAt e bad ovr m = m.engDown e := by
  unfold qualifyDoneAt
  rw [Mach.when_pos _ _ _ (by simp [hst])]
  simp only [hq]

/-- The leader of a qualification that leaves lanes sends DONE and is in ACTIVE again. -/
theorem qualifyDoneAt_leader (bad : Bool) (l : BitVec 16) (hq : qualified (m.eng e).lanes bad ovr = some l)
    (hlead : (m.eng e).leader = true) :
    qualifyDoneAt e bad ovr m = ((m.onEng e fun g => { g with lanes := l }).sendRetrain e 4).backActive e l := by
  unfold qualifyDoneAt
  rw [Mach.when_pos _ _ _ (by simp [hst])]
  simp only [hq]
  exact if_pos hlead

end

/-! ## Engine sets (R313) -/

/-- A port whose engines have drained has the set asked for; none of its engines has waited for it in DRAIN. -/
theorem drainDoneAt_drained (p : Nat) (m : Mach) (set_ : BitVec 8) (hset : (m.port p).pendingSet = some set_)
    (hempty : ∀ e ∈ m.portEngs p, (m.eng e).replay = [] ∧ (m.eng e).opened = [])
    (hnone : ∀ e, m.engPort e = p → (m.eng e).st ≠ .drain) : drainDoneAt p m = (m.newSet p set_).planChanged := by
  have hback : (((m.newSet p set_).portEngs p).filter fun e => ((m.newSet p set_).eng e).st == .drain) = [] := by
    refine List.filter_eq_nil_iff.mpr fun e he hdrain => ?_
    have hstand := m.newSet_standing p set_ e
    have hserves : (m.newSet p set_).engPort e = p := by
      have := (List.mem_filter.mp he).2
      simp only [Bool.and_eq_true, beq_iff_eq] at this
      exact this.1
    have hst : ((m.newSet p set_).eng e).st = (m.eng e).st := congrArg (·.1) hstand
    rw [Mach.engPort_of_standing m _ e hstand] at hserves
    exact hnone e hserves (hst ▸ beq_iff_eq.mp hdrain)
  unfold drainDoneAt
  simp only [hset]
  refine (Mach.when_pos _ _ _ (List.all_eq_true.mpr fun e he => ?_)).trans ?_
  · obtain ⟨hreplay, hopened⟩ := hempty e he
    simp [hreplay, hopened]
  · simp only [hback, List.foldl_nil]

/-! ## IDENT (R306, R307) -/

theorem identAt_held (e : Nat) (pay : Bytes) (m : Mach) (hst : (m.eng e).st = .active) (hport : m.engPort e < 9)
    (hlen : pay.length = 28) : identAt e pay m = (m.onEng e fun g =>
      { g with ident := some pay, peerSeen := g.peerSeen || bitOf (le pay 10 1) 0 }).checkIdent e := by
  unfold identAt
  exact Mach.when_pos _ _ _ (by simp [hst, hport, hlen])

/-- Until the partner has seen this engine's IDENT it goes out every 1 ms. -/
theorem identSendAt_due (e : Nat) (m : Mach) (hst : (m.eng e).st = .active) (hport : m.engPort e < 9)
    (hseen : (m.eng e).peerSeen = false) (hdue : (m.eng e).identAt + usCc 1000 ≤ m.cc) :
    identSendAt e m = m.sendIdent e := by
  unfold identSendAt
  exact Mach.when_pos _ _ _ (by simp [hst, hport, hseen, hdue])

/-! ## The obligation -/

/-- Settles O41: each row's lemma, and the engine and the port after a frame in error and after a drained port's new set. -/
theorem linkFramesRetrainsAndIdents : Obligations.LinkFramesRetrainsAndIdents := by
  unfold Obligations.LinkFramesRetrainsAndIdents
  refine ⟨⟨?credit, advance16_spec, ?lets, ?corrected, ?bad, Mach.frameBad_discards, ?hold, ?expiry, ?foul, ?foulFrame⟩,
    ?req, ?ready, ?cause, ?resend, ?train, ?qualify, ?drain, ?ident, ?identSend⟩
  case credit =>
    intro s e pay hlen hst count
    rw [exec_credit, creditAt_counts e pay s.m hlen hst]
    rfl
  case lets =>
    intro s e pay i seq g hlen hcarries hseq hi
    rw [exec_fabricLet, fabricLetAt_found e pay s.m i hlen hcarries hseq hi]
  case corrected =>
    intro s e ch hcarries
    rw [exec_frameError, frameErrorAt_corrected e (0 : Fin 4) ch.toNat s.m hcarries rfl]
  case bad =>
    intro s e cause ch hcarries hcause hchan hprob
    rw [exec_frameError, frameErrorAt_bad e cause ch.toNat s.m hcarries hcause hchan hprob]
  case hold =>
    intro s e v hcarries hres hlink htime held
    rw [exec_hold, holdAt_stops e v.toNat s.m hcarries hres hlink htime v.isLt]
    rfl
  case expiry =>
    intro s e ch t ht hdue
    rw [exec_holdExpiry, holdExpiryAt_due e ch s.m t ht hdue]
  case foul =>
    intro s e code fr hlistens hgood hfoul hcode
    rw [exec_foul, foulAt_counts e code fr s.m hlistens hgood hfoul hcode]
  case foulFrame =>
    intro s e pay hlen hst
    rw [exec_foulFrameReceive, foulFrameAt_counts e pay s.m hlen hst]
  case req =>
    intro s e v hkind hlow hhigh hst
    rw [exec_retrain, retrainAt_req e v.toNat s.m hlow hhigh hkind hst]
  case ready =>
    intro s e v hkind hlow hhigh hst hsame
    rw [exec_retrain, retrainAt_ready e v.toNat s.m hlow hhigh hkind hst hsame]
  case cause =>
    intro s e cause hst hcause
    rw [exec_retrainLocalCause, localCauseAt_asks e cause s.m hst hcause]
  case resend =>
    intro s e hst hdue
    rw [exec_retrainReqResend, reqResendAt_due e s.m hst hdue]
    exact ⟨fun hfew => by rw [if_neg (Nat.not_le.mpr hfew)], fun hmany => by rw [if_pos hmany]⟩
  case train =>
    intro s e lanes hst hdue
    rw [exec_engineTrainDone, trainDoneAt_due e lanes s.m hst hdue]
    exact ⟨fun hfew => by rw [if_pos hfew], fun henough => by rw [if_neg (Nat.not_lt.mpr henough)]⟩
  case qualify =>
    intro s e ovr hst
    refine ⟨?_, fun hlead hclean => ?_⟩
    · rw [exec_engineQualifyDone, qualifyDoneAt_failed e ovr s.m hst true (qualified_uncorrectable _ ovr)]
    · rw [exec_engineQualifyDone, qualifyDoneAt_leader e ovr s.m hst false _ (hclean ▸ qualified_clean _) hlead]
  case drain =>
    intro s p set_ hset hempty hnone
    have hsets := s.m.newSet_sets p set_ p.isLt
    refine ⟨?_, congrArg (·.1) hsets, congrArg (·.2) hsets⟩
    rw [exec_engineSetDrainDone, drainDoneAt_drained p s.m set_ hset hempty hnone]
  case ident =>
    intro s e pay hst hport hlen
    rw [exec_ident, identAt_held e pay s.m hst hport hlen]
  case identSend =>
    intro s e hst hport hseen hdue
    rw [exec_identSend, identSendAt_due e s.m hst hport hseen hdue]

end Sys2Proof.Machine
end

section
/-! PROOF. One step of the block: a command's effect, the cycle on an empty queue, and the canonical form that every step
answers (log 1, log 5). -/

namespace Sys2Proof.Machine

open Sys2Proof

/-- Every command answers the queue as it was and a module whose memories are in canonical form. -/
theorem exec_to (i : Instr) (s : State) : ∃ m, exec i s = .next (s.to m) := by
  cases i <;> exact ⟨_, rfl⟩

/-- Whatever module a command makes, the state that it answers meets the invariant. -/
theorem State.to_inv (s : State) (m : Mach) : (s.to m).Inv := m.canon_memWf

theorem step_command (i : Instr) (s : State) : step { s with pending := i :: s.pending } = exec i s := rfl

theorem step_idle (s : State) (h : s.pending = []) : step s = .next (s.to (idle s.m)) := by
  unfold step
  rw [h]
  exact upd_to idle s

/-- A step on a queue with a command at its front runs that command with the rest left to wait. -/
theorem step_cons (s : State) (i : Instr) (r : List Instr) (h : s.pending = i :: r) :
    step s = exec i { s with pending := r } := by
  unfold step
  rw [h]

/-- Every step answers a module out of the wrapper that brings the memories to canonical form. -/
theorem step_to (s : State) : ∃ (r : State) (m : Mach), step s = .next (r.to m) := by
  cases h : s.pending with
  | nil => exact ⟨s, _, step_idle s h⟩
  | cons i r =>
    obtain ⟨m, hm⟩ := exec_to i { s with pending := r }
    exact ⟨_, m, (step_cons s i r h).trans hm⟩

/-- Settles O1: both branches of the step. -/
theorem stepRunsTheFrontCommand : Obligations.StepRunsTheFrontCommand :=
  ⟨step_command, step_idle⟩

/-- Settles O2: a step answers a state out of the wrapper, whose memories are canonical. -/
theorem everyStepKeepsMemoryCanonical : Obligations.EveryStepKeepsMemoryCanonical := by
  unfold Obligations.EveryStepKeepsMemoryCanonical
  intro s t _ ht
  obtain ⟨r, m, hm⟩ := step_to s
  have hrt : r.to m = t := Host.Outcome.next.inj (hm.symm.trans ht)
  exact hrt ▸ r.to_inv m

end Sys2Proof.Machine
end

section
/-! PROOF. The checks of an entry, in the order of log 25, and the command in progress that an entry which passes them becomes
(R338 to R340, R345). -/

namespace Sys2Proof.Machine

open Sys2Proof

theorem Mach.entryStatus_malformed (m : Mach) (x : Cmd) (e : Bytes) (h : malformed x e = true) :
    m.entryStatus x e = some 0x0107 := by
  unfold Mach.entryStatus
  rw [if_pos h]

/-- Whether a command in progress of the same function has the TAG of a new one. -/
theorem Mach.tagInFlight_iff (m : Mach) (x : Cmd) :
    (m.host.cmds.any fun y => y.fn == x.fn && y.tag == x.tag) = true ↔ ∃ y ∈ m.host.cmds, y.fn = x.fn ∧ y.tag = x.tag := by
  simp [List.any_eq_true]

theorem Mach.tagInFlight_false (m : Mach) (x : Cmd) (h : ∀ y ∈ m.host.cmds, ¬ (y.fn = x.fn ∧ y.tag = x.tag)) :
    (m.host.cmds.any fun y => y.fn == x.fn && y.tag == x.tag) = false := by
  rw [← Bool.not_eq_true, m.tagInFlight_iff x]
  rintro ⟨y, hy, hsame⟩
  exact h y hy hsame

section
variable (m : Mach) (x : Cmd) (e : Bytes) (hwf : malformed x e = false)
include hwf

theorem Mach.entryStatus_tagInFlight (h : ∃ y ∈ m.host.cmds, y.fn = x.fn ∧ y.tag = x.tag) :
    m.entryStatus x e = some 0x0108 := by
  unfold Mach.entryStatus
  rw [hwf, (m.tagInFlight_iff x).mpr h]
  rfl

variable (hfresh : ∀ y ∈ m.host.cmds, ¬ (y.fn = x.fn ∧ y.tag = x.tag))
include hfresh

theorem Mach.entryStatus_unknown (h : argLen x.opcode x.arg = none) : m.entryStatus x e = some 0x0101 := by
  unfold Mach.entryStatus
  simp [hwf, m.tagInFlight_false x hfresh, h]

variable (hop : (argLen x.opcode x.arg).isSome = true) (hport : x.opcode ≠ 0x0183)
include hop hport

theorem Mach.entryStatus_notReady (hready : m.boot.ready = false) (hlate : earlyOp x.opcode = false) :
    m.entryStatus x e = some 0x0404 := by
  have hknown : (argLen x.opcode x.arg).isNone = false := Option.isNone_eq_false_iff.mpr hop
  unfold Mach.entryStatus
  simp [hwf, m.tagInFlight_false x hfresh, hknown, hport, hready, hlate]

variable (hready : m.boot.ready = true) (hfull : m.boot.minimal = false) (hstage : 2 < m.boot.stage)
  (hlife : m.boot.life ≠ .retired)
include hready hfull hstage hlife

/-- While the device is READY the rights of the function come first. -/
theorem Mach.entryStatus_notPf (hpf : pfOnly x = true) (hvf : isPf x.fn = false) : m.entryStatus x e = some 0x0502 := by
  have hknown : (argLen x.opcode x.arg).isNone = false := Option.isNone_eq_false_iff.mpr hop
  unfold Mach.entryStatus
  simp [hwf, m.tagInFlight_false x hfresh, hknown, hport, hready, hfull, Nat.not_le.mpr hstage, hlife, hpf, hvf]

variable (hany : pfOnly x = false)
include hany

/-- Then the context that the command names. -/
theorem Mach.entryStatus_badCid (hctx : namesCtx x = true) (hread : x.opcode ≠ 0x0132) (hnone : m.ctx (x.cid % 1024) = none) :
    m.entryStatus x e = some 0x0103 := by
  have hknown : (argLen x.opcode x.arg).isNone = false := Option.isNone_eq_false_iff.mpr hop
  unfold Mach.entryStatus
  simp [hwf, m.tagInFlight_false x hfresh, hknown, hport, hready, hfull, Nat.not_le.mpr hstage, hlife, hany, hctx, hread, hnone]

/-- Last, for a command that names none, its variant: none of a bad one is carried out, and any other may start. -/
theorem Mach.entryStatus_variant (hctx : namesCtx x = false) :
    m.entryStatus x e = if badVariant x = true then some 0x0102 else none := by
  have hknown : (argLen x.opcode x.arg).isNone = false := Option.isNone_eq_false_iff.mpr hop
  unfold Mach.entryStatus
  simp [hwf, m.tagInFlight_false x hfresh, hknown, hport, hready, hfull, Nat.not_le.mpr hstage, hlife, hany, hctx]

end

/-- An entry that passes every check is put behind the commands in progress, with no result. -/
theorem Mach.submit_passed (m : Mach) (f : Nat) (via : Via) (e data : Bytes) (w : Bool)
    (h : m.entryStatus (parseCmd f via e m.now data) e = none) :
    m.submit f via e data w = { m with host := { m.host with
      cmds := m.host.cmds ++ [{ parseCmd f via e m.now data with order := m.host.nextOrder, waiting := w, result := none }],
      nextOrder := m.host.nextOrder + 1 } } := by
  unfold Mach.submit
  simp [h]

/-- Settles O31: one lemma for each check, and the command in progress. -/
theorem entriesAreChecked : Obligations.EntriesAreChecked := by
  unfold Obligations.EntriesAreChecked
  refine ⟨Mach.entryStatus_malformed, Mach.entryStatus_tagInFlight, ?later, Mach.submit_passed⟩
  case later =>
    intro m x e hwf hfresh
    refine ⟨m.entryStatus_unknown x e hwf hfresh, m.entryStatus_notReady x e hwf hfresh, ?_⟩
    intro hop hport hready hfull hstage hlife
    refine ⟨m.entryStatus_notPf x e hwf hfresh hop hport hready hfull hstage hlife,
      m.entryStatus_badCid x e hwf hfresh hop hport hready hfull hstage hlife, ?_, ?_⟩
    · intro hany hctx hbad
      rw [m.entryStatus_variant x e hwf hfresh hop hport hready hfull hstage hlife hany hctx, if_pos hbad]
    · intro hany hctx hgood
      rw [m.entryStatus_variant x e hwf hfresh hop hport hready hfull hstage hlife hany hctx, hgood]
      rfl

end Sys2Proof.Machine
end

section
/-! PROOF. Completions, events and interrupts (R333, R335 to R337, R349 to R351). -/

namespace Sys2Proof.Machine

open Sys2Proof

theorem exec_commandCompletion (f : FnIx) (tag : BitVec 16) (ok : Bool) (s : State) :
    exec (.commandCompletion f tag ok) s = .next (s.to (completionAt f tag.toNat ok s.m)) := rfl
theorem exec_eventPost (f : FnIx) (s : State) : exec (.eventPost f) s = .next (s.to (eventPostAt f s.m)) := rfl
theorem exec_interruptCoalesce (f : FnIx) (r : BitVec 8) (s : State) :
    exec (.interruptCoalesce f r) s = .next (s.to (coalesceAt f r.toNat s.m)) := rfl

/-! ## COMMAND_COMPLETION -/

section
variable (f tag : Nat) (m : Mach) (x : Cmd) (e : Cpl)
  (hx : m.settleLoads.host.cmds.find? (fun x => x.fn == f && x.tag == tag && x.result.isSome && !x.waiting) = some x)
  (he : x.result = some e)
include hx he

theorem completionAt_ring (r : Nat) (hvia : x.via = .ring r) : completionAt f tag true m =
    ((m.settleLoads.dropCmd x.order).afterCompletion x).putEntry f r e (bitOf x.flags.toNat 0) := by
  unfold completionAt
  simp only [hx, he, hvia, Option.getD_some, if_true]

/-- MB_CPL takes the entry with DONE; without INTR no vector follows. -/
theorem completionAt_mailbox (ok : Bool) (hvia : x.via = .mailbox)
    (hintr : (((m.settleLoads.dropCmd x.order).afterCompletion x).fn f).intr = false) : completionAt f tag ok m =
    ((m.settleLoads.dropCmd x.order).afterCompletion x).onFn f fun y =>
      { y with busy := false, done := true, doneAt := some ((m.settleLoads.dropCmd x.order).afterCompletion x).cc,
               mbCpl := BitVec.ofNat 256 (ofBytes (cplBytes e 0 true)) } := by
  unfold completionAt
  simp only [hx, he, hvia, Option.getD_some, Mach.fn_onFn_self, hintr, Bool.false_eq_true, if_false]

end

/-! ## Entries of a ring -/

section
variable (m : Mach) (f r : Nat) (e : Cpl) (now : Bool) (y : Ring) (hy : aget (m.fn f).rings r = some y)
include hy

theorem Mach.putEntry_free (hfree : y.free = true) (hkept : y.kept = []) : m.putEntry f r e now = m.writeEntry f r e now := by
  unfold Mach.putEntry
  simp only [hy, hfree, hkept, List.isEmpty_nil, Bool.and_self, if_true]

theorem Mach.putEntry_full (hfull : y.free = false) :
    m.putEntry f r e now = m.onRing f r fun y => { y with kept := y.kept ++ [e] } := by
  unfold Mach.putEntry
  simp only [hy, hfull, Bool.false_and, Bool.false_eq_true, if_false]

end

theorem cplBytes_length (e : Cpl) (sq : Nat) (ph : Bool) : (cplBytes e sq ph).length = 32 := by
  simp only [cplBytes, List.length_append, toBytes_length]

/-- Each field of an entry is read as it was put there. -/
theorem cplBytes_fields (e : Cpl) (sq : Nat) (ph : Bool) (hsq : sq < 65536) :
    le (cplBytes e sq ph) 0 2 = e.tag.toNat ∧ le (cplBytes e sq ph) 2 2 = e.status.toNat ∧ le (cplBytes e sq ph) 4 2 = sq ∧
    le (cplBytes e sq ph) 6 2 = b2n ph + 2 * b2n e.event ∧ le (cplBytes e sq ph) 8 8 = e.res0.toNat ∧
    le (cplBytes e sq ph) 16 16 = e.res1.toNat := by
  have hflags : b2n ph + 2 * b2n e.event < 256 ^ 2 := by cases ph <;> cases e.event <;> decide
  have hres1 : le (toBytes 16 e.res1.toNat) 0 16 = e.res1.toNat := by
    rw [← List.append_nil (toBytes 16 e.res1.toNat), le_toBytes_append]
    exact Nat.mod_eq_of_lt e.res1.isLt
  simp only [cplBytes, List.append_assoc, le_toBytes_append, le_toBytes_append_behind, Nat.reduceLeDiff, Nat.reduceSub, hres1,
    Nat.mod_eq_of_lt hflags, true_and, and_true]
  exact ⟨Nat.mod_eq_of_lt e.tag.isLt, Nat.mod_eq_of_lt e.status.isLt, Nat.mod_eq_of_lt hsq, Nat.mod_eq_of_lt e.res0.isLt⟩

/-! ## EVENT_POST -/

section
variable (f : Nat) (m : Mach) (e : Cpl) (es : List Cpl) (hraised : (m.fn f).raised = e :: es) (hvia : m.viaMgmt f = false)
include hraised hvia

/-- The oldest raised event is written where the event ring has room and nothing is kept. -/
theorem eventPostAt_room (r : Nat) (y : Ring) (hring : (m.fn f).eventRing = some r) (hy : aget (m.fn f).rings r = some y)
    (hfree : y.free = true) (hkept : y.kept = []) (hnone : (m.fn f).kept = []) (hup : m.hostUp (portOf f) = true) :
    eventPostAt f m = (m.onFn f fun x => { x with raised := es }).writeEntry f r e false := by
  have hvia' : (m.onFn f fun x => { x with raised := es }).viaMgmt f = false := hvia
  have hup' : (m.onFn f fun x => { x with raised := es }).hostUp (portOf f) = true := hup
  unfold Fn.eventRing at hring
  unfold eventPostAt Fn.eventRing
  simp only [hraised, hvia', Bool.false_eq_true, if_false, Mach.fn_onFn_self, hring, Option.bind_some, hy, hfree, hkept, hnone,
    List.isEmpty_nil, hup', Bool.and_self]

/-- With no event ring it is kept. -/
theorem eventPostAt_noRing (hring : (m.fn f).eventRing = none) :
    eventPostAt f m = (m.onFn f fun x => { x with raised := es }).onFn f fun x => x.keep e := by
  have hvia' : (m.onFn f fun x => { x with raised := es }).viaMgmt f = false := hvia
  unfold Fn.eventRing at hring
  unfold eventPostAt Fn.eventRing
  simp only [hraised, hvia', Bool.false_eq_true, if_false, Mach.fn_onFn_self, hring, Option.bind_none]

end

/-! ## INTERRUPT_COALESCE -/

theorem coalesceAt_due (f r : Nat) (m : Mach) (y : Ring) (t : Nat) (hy : aget (m.fn f).rings r = some y) (hcount : y.icount ≠ 0)
    (hunread : y.unread ≠ 0) (hold : y.oldest = some t) (hdue : t + usCc y.itime ≤ m.cc) :
    coalesceAt f r m = (m.interrupt f y.vector).onRing f r fun y => { y with oldest := none } := by
  unfold coalesceAt
  simp only [hy]
  exact Mach.when_pos _ _ _ (by simp [hcount, hunread, hold, hdue])

/-! ## The obligation -/

/-- Settles O32: each row's lemma, and the laws of an entry's bytes and of its ring. -/
theorem completionsAndEventsAreDelivered : Obligations.CompletionsAndEventsAreDelivered := by
  unfold Obligations.CompletionsAndEventsAreDelivered
  refine ⟨?ring, ?mailbox, ?put, ?bytes, ?post, ?keep, ?coalesce⟩
  case ring =>
    intro s f tag x e r hx he hvia
    rw [exec_commandCompletion, completionAt_ring f tag.toNat s.m x e hx he r hvia]
  case mailbox =>
    intro s f tag x e ok m hx he hvia hintr
    rw [exec_commandCompletion, completionAt_mailbox f tag.toNat s.m x e hx he ok hvia hintr]
  case put =>
    intro m f r e now y hy
    exact ⟨m.putEntry_free f r e now y hy, m.putEntry_full f r e now y hy⟩
  case bytes =>
    intro e sq ph hsq
    exact ⟨cplBytes_length e sq ph, cplBytes_fields e sq ph hsq⟩
  case post =>
    intro s f e es r y hraised hring hy hfree hkept hnone hup hvia
    rw [exec_eventPost, eventPostAt_room f s.m e es hraised hvia r y hring hy hfree hkept hnone hup]
  case keep =>
    intro s f e es hraised hring hvia
    rw [exec_eventPost, eventPostAt_noRing f s.m e es hraised hvia hring]
  case coalesce =>
    intro s f r y t hy hcount hunread hold hdue
    rw [exec_interruptCoalesce, coalesceAt_due f r.toNat s.m y t hy hcount hunread hold hdue]

end Sys2Proof.Machine
end

section
/-! PROOF. LOAD of memory and of a message (R343, R344). -/

namespace Sys2Proof.Machine

open Sys2Proof

theorem exec_loadHostToMemory (f : FnIx) (tag : BitVec 16) (data : Option Bytes) (s : State) :
    exec (.loadHostToMemory f tag data) s = .next (s.to (loadH2MAt f tag.toNat data s.m)) := rfl
theorem exec_loadMemoryToHost (f : FnIx) (tag : BitVec 16) (ok : Bool) (s : State) :
    exec (.loadMemoryToHost f tag ok) s = .next (s.to (loadM2HAt f tag.toNat ok s.m)) := rfl
theorem exec_loadMessage (f : FnIx) (tag : BitVec 16) (data : Option Bytes) (s : State) :
    exec (.loadMessage f tag data) s = .next (s.to (loadMessageAt f tag.toNat data s.m)) := rfl

@[simp] theorem Mach.begun_loadPlace (m : Mach) (x : Cmd) (core sl space off n : Nat) (write : Bool) :
    (m.begun x).loadPlace core sl space off n write = m.loadPlace core sl space off n write := rfl

/-- Without a rectangle a LOAD names one core. -/
theorem loadCores_single (y : Ctx) (core sl : Nat) : loadCores y core sl 0 0 = [core] := rfl

section
variable {f tag : Nat} {m : Mach} {x : Cmd} {y : Ctx} (ht : m.Turn f tag 0x0110 x) (hctx : m.ctx x.cid = some y)
  (hst : y.st = .admitted)
include ht hctx hst

section
variable (hlen : 0 < x.len) (hspace : le x.arg 6 1 ≤ 1) (hslot : (y.entry (le x.arg 1 4) (le x.arg 5 1)).isSome = true)
include hlen hspace hslot

section
variable (hform : le x.arg 0 1 = 0) (hx1 : le x.arg 15 2 = 0) (hy1 : le x.arg 17 2 = 0)
include hform hx1 hy1

/-- Bytes of the host buffer go to the place that the window of the slot named gives them. -/
theorem loadH2MAt_place (b : Bytes) (q : Place) (hfn : x.fn ≠ mgmtFn)
    (hq : m.loadPlace (le x.arg 1 4) (le x.arg 5 1) (le x.arg 6 1) (le x.arg 7 8) x.len true = some q) :
    loadH2MAt f tag (some b) m =
      (((m.begun x).fwReach ((m.begun x).runs (le x.arg 1 4)) (le x.arg 6 1) q.off).onCore ((m.begun x).runs (le x.arg 1 4))
        fun k => k.writeMem (le x.arg 6 1) q.off (padTo b x.len)).done x 0 := by
  have hentry : (y.entry (le x.arg 1 4) (le x.arg 5 1)).isNone = false := Option.isNone_eq_false_iff.mpr hslot
  unfold loadH2MAt
  rw [m.runCmd_turn f tag 0x0110 _ _ x ht (by simp [hform]), Mach.onAdmitted_admitted (m.begun x) x _ y hctx hst]
  simp [hlen.ne', Nat.not_lt.mpr hspace, hentry, hx1, hy1, loadCores_single, hq, Mach.withData_some _ _ _ _ hfn]

/-- A range outside the window is answered WINDOW. -/
theorem loadH2MAt_outside (b : Option Bytes)
    (hq : m.loadPlace (le x.arg 1 4) (le x.arg 5 1) (le x.arg 6 1) (le x.arg 7 8) x.len true = none) :
    loadH2MAt f tag b m = (m.begun x).done x 0x0104 := by
  have hentry : (y.entry (le x.arg 1 4) (le x.arg 5 1)).isNone = false := Option.isNone_eq_false_iff.mpr hslot
  unfold loadH2MAt
  rw [m.runCmd_turn f tag 0x0110 _ _ x ht (by simp [hform]), Mach.onAdmitted_admitted (m.begun x) x _ y hctx hst]
  simp [hlen.ne', Nat.not_lt.mpr hspace, hentry, hx1, hy1, loadCores_single, hq]

end

/-- Bytes of a window go to the host buffer. -/
theorem loadM2HAt_place (hform : le x.arg 0 1 = 1) (q : Place) (hfn : x.fn ≠ mgmtFn)
    (hq : m.loadPlace (le x.arg 1 4) (le x.arg 5 1) (le x.arg 6 1) (le x.arg 7 8) x.len false = some q) :
    let m' := (m.begun x).fwReach ((m.begun x).runs (le x.arg 1 4)) (le x.arg 6 1) q.off
    loadM2HAt f tag true m = (m'.hostPut x.addr
      ((m'.core (m'.runs (le x.arg 1 4))).readMem (le x.arg 6 1) q.off x.len)).done x 0 := by
  have hentry : (y.entry (le x.arg 1 4) (le x.arg 5 1)).isNone = false := Option.isNone_eq_false_iff.mpr hslot
  unfold loadM2HAt
  rw [m.runCmd_turn f tag 0x0110 _ _ x ht (by simp [hform]), Mach.onAdmitted_admitted (m.begun x) x _ y hctx hst]
  simp [hlen.ne', Nat.not_lt.mpr hspace, hentry, hq, Mach.doneWith_host _ _ _ _ hfn]

end

/-- A message that is not logged enters the router of its core, for the queue named; its landing answers the command. -/
theorem loadMessageAt_enters (b : Bytes) (hform : le x.arg 0 1 = 3) (hfn : x.fn ≠ mgmtFn) (hlen : x.len ≤ 256)
    (hqueue : le x.arg 5 1 < 8)
    (hmask : (y.slots.any fun e => e.core == le x.arg 1 4 && bitOf e.qmask.toNat (le x.arg 5 1)) = true)
    (hplain : bitOf x.flags.toNat 1 = false) (hroom : m.loadMsgRoom x = true) :
    let n := m.begun x
    loadMessageAt f tag (some b) m = { n with fabric := { n.fabric with
      ins := n.fabric.ins ++ [({ id := n.fabric.inNext, need := 1, host := some x.order } : InReq)],
      inNext := n.fabric.inNext + 1 } }.onCore (n.runs (le x.arg 1 4)) fun k =>
        k.enqueue 4 2 (loadFlits (n.runs (le x.arg 1 4)) (le x.arg 5 1) x.cid n.fabric.inNext m.cc false (padTo b x.len)) := by
  unfold loadMessageAt
  simp only [ht.found, hroom, Mach.when_true]
  rw [m.runCmd_turn f tag 0x0110 _ _ x ht (by simp [hform]), Mach.onAdmitted_admitted (m.begun x) x _ y hctx hst]
  simp only [Nat.not_lt.mpr hlen, Nat.not_le.mpr hqueue, decide_false, Bool.or_self, Bool.false_eq_true, if_false, hmask,
    Bool.not_true, Mach.withData_some _ _ _ _ hfn, hplain, Option.isNone_none]
  rfl

end

/-- Settles O33: each form's lemma. -/
theorem loadsMoveBytes : Obligations.LoadsMoveBytes := by
  unfold Obligations.LoadsMoveBytes
  refine ⟨?toMemory, ?outside, ?toHost, ?message⟩
  case toMemory =>
    intro s f tag x y b q core sl space ht hform hctx hst hfn hlen hspace hslot hx1 hy1 hq
    rw [exec_loadHostToMemory, loadH2MAt_place ht hctx hst hlen hspace hslot hform hx1 hy1 b q hfn hq]
    rfl
  case outside =>
    intro s f tag x y b core sl space ht hform hctx hst hlen hspace hslot hx1 hy1 hq
    rw [exec_loadHostToMemory, loadH2MAt_outside ht hctx hst hlen hspace hslot hform hx1 hy1 b hq]
  case toHost =>
    intro s f tag x y q core sl space m ht hform hctx hst hfn hlen hspace hslot hq
    rw [exec_loadMemoryToHost, loadM2HAt_place ht hctx hst hlen hspace hslot hform q hfn hq]
    rfl
  case message =>
    intro s f tag x y b core q m ht hform hctx hst hfn hlen hqueue hmask hplain hroom w
    rw [exec_loadMessage, loadMessageAt_enters ht hctx hst b hform hfn hlen hqueue hmask hplain hroom]

end Sys2Proof.Machine
end

section
/-! PROOF. STEP_WAIT and the checkpoints (R341, R346 to R348). -/

namespace Sys2Proof.Machine

open Sys2Proof

theorem exec_stepWait (f : FnIx) (tag : BitVec 16) (s : State) :
    exec (.stepWait f tag) s = .next (s.to (stepWaitAt f tag.toNat s.m)) := rfl
theorem exec_stepWaitDone (f : FnIx) (tag : BitVec 16) (s : State) :
    exec (.stepWaitDone f tag) s = .next (s.to (stepWaitDoneAt f tag.toNat s.m)) := rfl
theorem exec_ckptSaveHost (f : FnIx) (tag : BitVec 16) (ok : Bool) (s : State) :
    exec (.ckptSaveHost f tag ok) s = .next (s.to (ckptSaveHostAt f tag.toNat ok s.m)) := rfl
theorem exec_ckptSaveFabric (f : FnIx) (tag : BitVec 16) (s : State) :
    exec (.ckptSaveFabric f tag) s = .next (s.to (ckptSaveFabricAt f tag.toNat s.m)) := rfl
theorem exec_ckptRestore (f : FnIx) (tag : BitVec 16) (data : Option Bytes) (s : State) :
    exec (.ckptRestore f tag data) s = .next (s.to (ckptRestoreAt f tag.toNat data s.m)) := rfl

/-! ## STEP_WAIT -/

section
variable {f tag : Nat} {m : Mach} {x : Cmd} {y : Ctx} (ht : m.Turn f tag 0x0112 x) (hctx : m.ctx x.cid = some y)
  (hst : y.st = .admitted)
include ht hctx hst

theorem stepWaitAt_answers (r : Nat × Nat) (hr : (m.begun x).stepAnswer { x with since := m.cc } y = some r) :
    stepWaitAt f tag m = (m.begun x).done x r.1 r.2 := by
  have hr' : (m.begun x).stepAnswer { x with since := (m.begun x).cc } y = some r := hr
  unfold stepWaitAt
  rw [m.runCmd_turn f tag 0x0112 _ _ x ht rfl, Mach.onAdmitted_admitted (m.begun x) x _ y hctx hst]
  simp only [hr']

theorem stepWaitAt_waits (hr : (m.begun x).stepAnswer { x with since := m.cc } y = none) :
    stepWaitAt f tag m = m.begun x := by
  have hr' : (m.begun x).stepAnswer { x with since := (m.begun x).cc } y = none := hr
  unfold stepWaitAt
  rw [m.runCmd_turn f tag 0x0112 _ _ x ht rfl, Mach.onAdmitted_admitted (m.begun x) x _ y hctx hst]
  simp only [hr']

end

theorem stepWaitDoneAt_answers (f tag : Nat) (m : Mach) (x : Cmd) (y : Ctx) (r : Nat × Nat) (hx : m.cmdFor f tag 0x0112 = some x)
    (hstarted : x.started = true) (hctx : m.ctx x.cid = some y) (hr : m.stepAnswer x y = some r) :
    stepWaitDoneAt f tag m = m.done x r.1 r.2 := by
  unfold stepWaitDoneAt
  simp only [hx, hctx, hr]
  exact Mach.when_pos _ _ _ hstarted

section
variable (m : Mach) (x : Cmd) (y : Ctx)

/-- A count at or past the one waited for, by their signed difference, answers first. -/
theorem Mach.stepAnswer_reached (h : (y.prog.steps - BitVec.ofNat 32 (le x.arg 0 4)).toNat < 2 ^ 31) :
    m.stepAnswer x y = some (0, y.prog.steps.toNat) := if_pos h

variable (hshort : 2 ^ 31 ≤ (y.prog.steps - BitVec.ofNat 32 (le x.arg 0 4)).toNat)
include hshort

theorem Mach.stepAnswer_halted (hall : m.allHalted y = true) : m.stepAnswer x y = some (0x0406, y.firstCause.toNat) := by
  unfold Mach.stepAnswer
  extract_lets d limit
  rw [if_neg (Nat.not_lt.mpr hshort), if_pos hall]

variable (hlive : m.allHalted y = false)
include hlive

theorem Mach.stepAnswer_limit (hlimit : le x.arg 4 4 ≠ 0) (hdue : x.since + usCc (le x.arg 4 4) ≤ m.cc) :
    m.stepAnswer x y = some (0x0405, y.prog.steps.toNat) := by
  unfold Mach.stepAnswer
  extract_lets d limit
  rw [if_neg (Nat.not_lt.mpr hshort), hlive, if_neg Bool.false_ne_true, if_pos (by simp [limit, hlimit, hdue])]

theorem Mach.stepAnswer_unlimited (hlimit : le x.arg 4 4 = 0) : m.stepAnswer x y = none := by
  unfold Mach.stepAnswer
  extract_lets d limit
  rw [if_neg (Nat.not_lt.mpr hshort), hlive, if_neg Bool.false_ne_true, if_neg (by simp [limit, hlimit])]

end

/-! ## CKPT_SAVE -/

/-- A save whose flits have landed takes its image of the quiesced context and lets the slots go on. -/
theorem Mach.saveWith_drained (m : Mach) (f tag form : Nat) (out : Cmd → Ctx → Bytes → Mach → Mach) (x : Cmd) (y : Ctx)
    (ht : m.Turn f tag 0x0120 x) (hform : le x.arg 0 1 = form) (hmove : m.moving f tag 0x0120 = false)
    (hctx : m.ctx x.cid = some y) (hst : y.st = .admitted) (hdrained : ((m.begun x).quiesceCtx x.cid).drained x.cid = true) :
    m.saveWith f tag form out = out x y (((m.begun x).quiesceCtx x.cid).image x.cid y)
      (((m.begun x).quiesceCtx x.cid).resumeCtx x.cid) := by
  unfold Mach.begun at hdrained ⊢
  unfold Mach.saveWith
  simp only [ht.found]
  rw [if_neg (by simp [hform, ht.fresh, ht.turn, hmove]), Mach.onAdmitted_admitted m x _ y hctx hst]
  simp only [ht.fresh, Bool.false_eq_true, if_false, hdrained, if_true]

/-- The image goes to a peer that the route reaches, under the job tag named. -/
theorem ckptSaveFabricAt_drained (m : Mach) (f tag : Nat) (x : Cmd) (y : Ctx) (t : BitVec 16)
    (ht : m.Turn f tag 0x0120 x) (hform : le x.arg 0 1 = 1) (hmove : m.moving f tag 0x0120 = false)
    (hctx : m.ctx x.cid = some y) (hst : y.st = .admitted) (hdrained : ((m.begun x).quiesceCtx x.cid).drained x.cid = true)
    (htag : y.tags[le x.arg 1 1]? = some t) (n : Mach) (hn : n = ((m.begun x).quiesceCtx x.cid).resumeCtx x.cid)
    (hok : n.coordOk (le x.arg 2 4) = true) (hdst : le x.arg 2 4 < 2 ^ 25) (hother : le x.arg 2 4 ≠ n.fabric.coord.toNat)
    (hroute : n.route (le x.arg 2 4) ≠ .unreachable) (b : Bytes) (hb : b = ((m.begun x).quiesceCtx x.cid).image x.cid y) :
    ckptSaveFabricAt f tag m =
      (n.writePeer t.toNat (le x.arg 2 4) (le x.arg 6 4) (b.length + 1) 0 b).done x 0 b.length := by
  unfold ckptSaveFabricAt
  rw [m.saveWith_drained f tag 1 _ x y ht hform hmove hctx hst hdrained, ← hn, ← hb]
  simp only [htag]
  rw [if_neg (by simpa [hok, hother] using hdst), if_neg hroute]

/-! ## CKPT_RESTORE -/

/-- An image that is whole and whose sections fit replaces the cached lines, puts its sections back, and last has the
suspended descriptors go on. -/
theorem ckptRestoreAt_whole (f tag : Nat) (m : Mach) (x : Cmd) (y : Ctx) (d b : Bytes) (l : List Sect)
    (ht : m.Turn f tag 0x0121 x) (hctx : m.ctx x.cid = some y) (hst : y.st = .admitted) (hidle : m.ctxIdle x.cid = true)
    (hfn : x.fn ≠ mgmtFn) (hb : b = padTo d x.len) (hmin : 64 ≤ le b 8 8) (hlen : le b 8 8 ≤ b.length) (hver : le b 0 2 = 1)
    (hstep : le b 2 2 = siliconStep) (hcrc : le b 0x3C 4 = crc32 ((b.take (le b 8 8)).drop 64))
    (hl : readSects (le b 6 2) ((b.take (le b 8 8)).drop 64) = some l) (hfit : ∀ z ∈ l, sectOk y z = true) :
    ckptRestoreAt f tag (some d) m = ((l.filter fun z => z.type == 6).foldl
      (fun m z => m.restoreDescs (m.runs z.core) z.slot z.body)
      (l.foldl (fun m z => m.restoreSect x.cid z) ((m.begun x).dropLines x.cid y))).done x 0 := by
  have hidle' : (m.begun x).ctxIdle x.cid = true := hidle
  unfold ckptRestoreAt
  rw [m.runCmd_turn f tag 0x0121 _ _ x ht rfl, Mach.onAdmitted_admitted (m.begun x) x _ y hctx hst, hidle',
    if_neg (by simp), Mach.withData_some _ _ _ _ hfn, ← hb]
  rw [if_neg (by simp [hmin, hlen, hlen.trans' hmin, hver, hstep, hcrc])]
  simp only [hl]
  rw [if_neg (by simpa using hfit)]

/-! ## The obligation -/

/-- Settles O35: the lemmas on a wait's answer, on a save whose flits have landed and on a whole image. -/
theorem stepsAndCheckpoints : Obligations.StepsAndCheckpoints := by
  unfold Obligations.StepsAndCheckpoints
  refine ⟨?answers, ?waits, ?later, ?count, ?toHost, ?toPeer, ?restore⟩
  case answers =>
    intro s f tag x y r ht hctx hst hr
    rw [exec_stepWait, stepWaitAt_answers ht hctx hst r hr]
  case waits =>
    intro s f tag x y ht hctx hst hr
    rw [exec_stepWait, stepWaitAt_waits ht hctx hst hr]
  case later =>
    intro s f tag x y r hx hstarted hctx hr
    rw [exec_stepWaitDone, stepWaitDoneAt_answers f tag.toNat s.m x y r hx hstarted hctx hr]
  case count =>
    intro m x y d
    exact ⟨m.stepAnswer_reached x y, m.stepAnswer_halted x y, m.stepAnswer_limit x y, m.stepAnswer_unlimited x y⟩
  case toHost =>
    intro s f tag x y m ht hform hmove hctx hst hdrained ok
    rw [exec_ckptSaveHost]
    unfold ckptSaveHostAt
    rw [s.m.saveWith_drained f tag.toNat 0 _ x y ht hform hmove hctx hst hdrained]
  case toPeer =>
    intro s f tag x y t m n dst ht hform hmove hctx hst hdrained htag hok hdst hother hroute
    rw [exec_ckptSaveFabric, ckptSaveFabricAt_drained s.m f tag.toNat x y t ht hform hmove hctx hst hdrained htag n rfl hok hdst
      hother hroute _ rfl]
  case restore =>
    intro s f tag x y d l b body m ht hctx hst hidle hfn hmin hlen hver hstep hcrc hl hfit
    rw [exec_ckptRestore, ckptRestoreAt_whole f tag.toNat s.m x y d b l ht hctx hst hidle hfn rfl hmin hlen hver hstep hcrc hl
      hfit]

end Sys2Proof.Machine
end

section
/-! PROOF. Host ports, their domains, the SMBus, the management port and the TAP (R327, R355, R447, R454 to R456). -/

namespace Sys2Proof.Machine

open Sys2Proof

theorem exec_hostLinkDown (p : Fin 2) (s : State) : exec (.hostLinkDown p) s = .next (s.to (hostLinkDownAt p s.m)) := rfl
theorem exec_hostLinkUp (p : Fin 2) (s : State) : exec (.hostLinkUp p) s = .next (s.to (hostLinkUpAt p s.m)) := rfl
theorem exec_functionLevelReset (f : FnIx) (s : State) :
    exec (.functionLevelReset f) s = .next (s.to (functionLevelResetAt f s.m)) := rfl
theorem exec_perstN (p : Fin 2) (s : State) : exec (.perstN p) s = .next (s.to (perstNAt p s.m)) := rfl
theorem exec_hostPortIdle (p : IdlePort) (s : State) : exec (.hostPortIdle p) s = .next (s.to (hostPortIdleAt p s.m)) := rfl
theorem exec_mgmtSignalDetect (s : State) : exec .mgmtSignalDetect s = .next (s.to (mgmtSignalDetectAt s.m)) := rfl
theorem exec_smbusStatus (s : State) : exec .smbusStatus s = .next (s.to (smbusStatusAt s.m)) := rfl
theorem exec_smbusPower (s : State) : exec .smbusPower s = .next (s.to (smbusPowerAt s.m)) := rfl
theorem exec_smbusThermal (s : State) : exec .smbusThermal s = .next (s.to (smbusThermalAt s.m)) := rfl
theorem exec_smbusRecover (key : BitVec 8) (s : State) : exec (.smbusRecover key) s = .next (s.to (smbusRecoverAt key s.m)) := rfl
theorem exec_smbusReset (key : BitVec 8) (s : State) : exec (.smbusReset key) s = .next (s.to (smbusResetAt key s.m)) := rfl
theorem exec_smbusPorts (v : BitVec 8) (s : State) : exec (.smbusPorts v) s = .next (s.to (smbusPortsAt v s.m)) := rfl
theorem exec_smbusAlertResponse (s : State) : exec .smbusAlertResponse s = .next (s.to (smbusAlertAt s.m)) := rfl
theorem exec_smbusUnacknowledged (s : State) : exec .smbusUnacknowledged s = .next (s.to (smbusUnacknowledgedAt s.m)) := rfl
theorem exec_mgmtDatagram (seq : BitVec 32) (entry data : Bytes) (authentic : Bool) (s : State) :
    exec (.mgmtDatagram seq entry data authentic) s = .next (s.to (mgmtDatagramAt seq entry data authentic s.m)) := rfl
theorem exec_tapInstruction (i : TapIns) (s : State) : exec (.tapInstruction i) s = .next (s.to (tapInstructionAt i s.m)) := rfl

/-! ## Host links and resets of functions (R327, R447) -/

theorem hostLinkDownAt_up (p : Nat) (m : Mach) (hup : m.hostUp p = true) : hostLinkDownAt p m = m.linkDown p :=
  Mach.when_pos _ _ _ hup

/-- A link that comes up beside the other one is served; no context changes its owner. -/
theorem hostLinkUpAt_beside (p : Nat) (m : Mach) (hdown : m.hostUp p = false) (hother : m.hostUp (1 - p) = true)
    (hdom : m.host.dom p ≠ .off) (hstage : 2 ≤ m.boot.stage) : hostLinkUpAt p m =
    { m with host := { m.host.setDom p .on with portUp := vset (m.host.setDom p .on).portUp p true } } := by
  unfold hostLinkUpAt
  rw [Mach.when_pos _ _ _ (by simp [hdown, hdom, hstage])]
  simp only [hother, Bool.not_true, Bool.false_eq_true, if_false]

/-- No context that a test of its owner picks is being moved. -/
theorem Mach.noneMoving (m : Mach) (p : Nat → Bool) (h : ∀ e ∈ m.ctxs, p e.2.owner = true → m.ctxMoving e.2 = false) :
    (m.ctxs.any fun (e : Nat × Ctx) => p e.2.owner && m.ctxMoving e.2) = false := by
  rw [List.any_eq_false]
  intro e he hmoving
  obtain ⟨howner, hmove⟩ := Bool.and_eq_true_iff.mp hmoving
  exact absurd hmove (by simp [h e he howner])

theorem functionLevelResetAt_unmoved (f : Nat) (m : Mach) (hf : f < mgmtFn)
    (h : ∀ e ∈ m.ctxs, e.2.owner = f → m.ctxMoving e.2 = false) : functionLevelResetAt f m = m.resetFn f := by
  have hnone := m.noneMoving (· == f) fun e he howner => h e he (beq_iff_eq.mp howner)
  exact Mach.when_pos _ _ _ (by simp [hf, hnone])

theorem perstNAt_unmoved (p : Nat) (m : Mach) (h : ∀ e ∈ m.ctxs, portOf e.2.owner = p → m.ctxMoving e.2 = false) :
    perstNAt p m = (fnsOf p).foldl Mach.resetFn m := by
  have hnone := m.noneMoving (fun f => portOf f == p) fun e he howner => h e he (beq_iff_eq.mp howner)
  exact Mach.when_pos _ _ _ (by simp [hnone])

/-! ## Port domains (R355) -/

section
variable (m : Mach)

theorem hostPortIdleAt_host0 (hon : m.host.host0 = .on) (hdown : m.hostUp 0 = false) :
    hostPortIdleAt .host0 m = { m with host := { m.host with host0 := .ret } } := by
  unfold hostPortIdleAt
  exact Mach.when_pos _ _ _ (by simp [hon, hdown])

theorem hostPortIdleAt_host1 (hon : m.host.host1 = .on) (hdown : m.hostUp 1 = false) :
    hostPortIdleAt .host1 m = { m with host := { m.host with host1 := .ret } } := by
  unfold hostPortIdleAt
  exact Mach.when_pos _ _ _ (by simp [hon, hdown])

theorem hostPortIdleAt_mgmt (hon : m.host.mgmt = .on) :
    hostPortIdleAt .mgmt m = { m with host := { m.host with mgmt := .ret, mgmtUp := false } } := by
  unfold hostPortIdleAt
  exact Mach.when_pos _ _ _ (by simp [hon])

theorem mgmtSignalDetectAt_ret (hret : m.host.mgmt = .ret) :
    mgmtSignalDetectAt m = { m with host := { m.host with mgmt := .on, mgmtUp := true } } :=
  Mach.when_pos _ _ _ (by simp [hret])

end

/-! ## SMBus (R455) -/

section
variable (m : Mach) (hup : m.smbusUp = true)
include hup

theorem Mach.smbusAnswer_up (b : Bytes) : m.smbusAnswer b = { m with host := { m.host with smbusOut := b } } :=
  Mach.when_pos _ _ _ hup

/-- THERMAL answers four bytes of temperatures and the flow. -/
theorem smbusThermalAt_up : ∃ b : Bytes, b.length = 4 ∧
    smbusThermalAt m = { m with host := { m.host with smbusOut := b ++ toBytes 2 m.power.flow } } := by
  unfold smbusThermalAt
  exact ⟨_, by simp only [List.length_append, toBytes_length], m.smbusAnswer_up hup _⟩

theorem smbusRecoverAt_key (hst : m.boot.ready = true ∨ m.boot.minimal = true) : smbusRecoverAt 0xA5 m = m.needRecovery := by
  unfold smbusRecoverAt
  rw [Mach.when_pos _ _ _ hup]
  exact if_pos (by simpa using hst)

theorem smbusRecoverAt_wrongKey (key : BitVec 8) (hkey : key ≠ 0xA5) : smbusRecoverAt key m = m.smbusRefuse := by
  unfold smbusRecoverAt
  rw [Mach.when_pos _ _ _ hup]
  exact if_neg (by rw [decide_eq_false hkey, Bool.false_and]; exact Bool.false_ne_true)

/-- RESET starts the device from stage 2 with FAILS clear. -/
theorem smbusResetAt_key (hon : m.boot.off = false) : smbusResetAt 0x5A m = (m.afresh 2 true).pins fun b =>
    { b with fails := 0, off := false, hotOff := false, noImage := false } := by
  unfold smbusResetAt
  rw [Mach.when_pos _ _ _ hup]
  simp only [ne_eq, not_true_eq_false, if_false, hon, Bool.false_and, Bool.false_eq_true]

theorem smbusResetAt_wrongKey (key : BitVec 8) (hkey : key ≠ 0x5A) : smbusResetAt key m = m.smbusRefuse := by
  unfold smbusResetAt
  rw [Mach.when_pos _ _ _ hup]
  exact if_pos hkey

theorem smbusPortsAt_reserved (v : BitVec 8) (hv : 8 ≤ v.toNat) : smbusPortsAt v m = m.smbusRefuse := by
  unfold smbusPortsAt
  rw [Mach.when_pos _ _ _ hup]
  exact if_pos hv

/-- Bits 0 and 1 of PORTS act on the host ports, and bit 2 switches the management port OFF. -/
theorem smbusPortsAt_mgmtOff (v : BitVec 8) (hv : v.toNat < 8) (hmgmt : bitOf v.toNat 2 = true) (n : Mach)
    (hn : n = (m.portBit 0 (bitOf v.toNat 0)).portBit 1 (bitOf v.toNat 1)) :
    smbusPortsAt v m = { n with host := { n.host with mgmt := .off, mgmtUp := false } } := by
  unfold smbusPortsAt
  rw [Mach.when_pos _ _ _ hup, if_neg (Nat.not_le.mpr hv)]
  simp only [hmgmt, if_true, hn]

theorem smbusAlertAt_up : smbusAlertAt m = { m with boot := { m.boot with alert := false } } := Mach.when_pos _ _ _ hup

theorem smbusUnacknowledgedAt_up : smbusUnacknowledgedAt m = m.smbusRefuse := Mach.when_pos _ _ _ hup

end

/-! ## The management port (R456) -/

section
variable (seq : BitVec 32) (entry data : Bytes) (m : Mach) (hstage : 2 ≤ m.boot.stage) (hon : m.host.mgmt = .on)
  (hlen : data.length ≤ 1024)
include hstage hon hlen

theorem mgmtDatagramAt_authentic : mgmtDatagramAt seq entry data true m =
    ({ m with host := { m.host with mgmtSeen := true, mgmtUp := true } }).submit mgmtFn (.mgmt seq) entry data false :=
  Mach.when_pos _ _ _ (by simp [hstage, hon, hlen])

theorem mgmtDatagramAt_discarded : mgmtDatagramAt seq entry data false m =
    { m with host := { m.host with mgmtBad := m.host.mgmtBad + 1, mgmtUp := true } } :=
  Mach.when_pos _ _ _ (by simp [hstage, hon, hlen])

end

/-! ## The obligation -/

/-- Settles O47: each row's lemma; of the thermal read and of the TAP, the register that the answered state holds. -/
theorem portsServeCommands : Obligations.PortsServeCommands := by
  unfold Obligations.PortsServeCommands
  refine ⟨?down, ?up, ?flr, ?perst, ?idle, ?smbus, ?datagram, ?tap⟩
  case down =>
    intro s p hup
    rw [exec_hostLinkDown, hostLinkDownAt_up p s.m hup]
  case up =>
    intro s p hdown hother hdom hstage h
    rw [exec_hostLinkUp, hostLinkUpAt_beside p s.m hdown hother hdom hstage]
  case flr =>
    intro s f hf h
    rw [exec_functionLevelReset, functionLevelResetAt_unmoved f s.m hf h]
  case perst =>
    intro s p h
    rw [exec_perstN, perstNAt_unmoved p s.m h]
  case idle =>
    intro s
    refine ⟨fun hon hdown => ?_, fun hon hdown => ?_, fun hon => ?_, fun hret => ?_⟩
    · rw [exec_hostPortIdle, hostPortIdleAt_host0 s.m hon hdown]
    · rw [exec_hostPortIdle, hostPortIdleAt_host1 s.m hon hdown]
    · rw [exec_hostPortIdle, hostPortIdleAt_mgmt s.m hon]
    · rw [exec_mgmtSignalDetect, mgmtSignalDetectAt_ret s.m hret]
  case smbus =>
    intro s hup
    refine ⟨?status, ?power, ?thermal, fun hst => ?_, fun key hkey => ?_, fun hon => ?_, fun key hkey => ?_, fun v hv => ?_,
      fun v hv hmgmt => ?_, ?alert, ?refuse⟩
    case status => rw [exec_smbusStatus, smbusStatusAt, s.m.smbusAnswer_up hup]
    case power => rw [exec_smbusPower, smbusPowerAt, s.m.smbusAnswer_up hup]
    case thermal =>
      obtain ⟨b, hb, hthermal⟩ := smbusThermalAt_up s.m hup
      refine ⟨_, exec_smbusThermal s, rfl, ?_, ?_, fun c => ?_⟩
      · rw [hthermal]
        show (b ++ toBytes 2 s.m.power.flow).length = 6
        rw [List.length_append, hb, toBytes_length]
      · rw [hthermal]
        exact List.drop_left' hb
      · rw [hthermal]
        exact Mach.core_canon_same _ c
    case alert => rw [exec_smbusAlertResponse, smbusAlertAt_up s.m hup]
    case refuse => rw [exec_smbusUnacknowledged, smbusUnacknowledgedAt_up s.m hup, Mach.smbusRefuse]
    · rw [exec_smbusRecover, smbusRecoverAt_key s.m hup hst]
    · rw [exec_smbusRecover, smbusRecoverAt_wrongKey s.m hup key hkey]
    · rw [exec_smbusReset, smbusResetAt_key s.m hup hon]
    · rw [exec_smbusReset, smbusResetAt_wrongKey s.m hup key hkey]
    · rw [exec_smbusPorts, smbusPortsAt_reserved s.m hup v hv]
    · rw [exec_smbusPorts, smbusPortsAt_mgmtOff s.m hup v hv hmgmt _ rfl]
  case datagram =>
    intro s seq entry data hstage hon hlen
    refine ⟨?_, ?_⟩
    · rw [exec_mgmtDatagram, mgmtDatagramAt_authentic seq entry data s.m hstage hon hlen]
    · rw [exec_mgmtDatagram, mgmtDatagramAt_discarded seq entry data s.m hstage hon hlen]
  case tap =>
    intro s i
    exact ⟨_, exec_tapInstruction i s, rfl, rfl, fun c => Mach.core_canon_same (tapInstructionAt i s.m) c⟩

end Sys2Proof.Machine
end

section
/-! PROOF. Cores that come up by a flit or by firmware, and isolation that is released (R356, R359, R360). -/

namespace Sys2Proof.Machine

open Sys2Proof

theorem exec_coreWakeByFlit (c : CoreIx) (s : State) : exec (.coreWakeByFlit c) s = .next (s.to (coreWakeByFlitAt c s.m)) := rfl
theorem exec_emptyCoreBringup (c : CoreIx) (s : State) :
    exec (.emptyCoreBringup c) s = .next (s.to (emptyCoreBringupAt c s.m)) := rfl
theorem exec_pwrIsoRelWrite (c : CoreIx) (v : BitVec 32) (s : State) :
    exec (.pwrIsoRelWrite c v) s = .next (s.to (isoRelAt c v s.m)) := rfl

/-! ## Cores that come up -/

/-- A core that a flit wakes: CORE_LOGIC and the banks on, the flit served in the cycle given. -/
def Core.wokenAt (k : Core) (t : Nat) : Core := { k.powerUp t with pwr := { (k.powerUp t).pwr with flitWake := some t } }

@[simp] theorem Core.wokenAt_slots (k : Core) (t : Nat) : (k.wokenAt t).slots = k.slots := rfl
@[simp] theorem Core.wokenAt_router (k : Core) (t : Nat) : (k.wokenAt t).router = k.router := rfl

theorem coreWakeByFlitAt_waits (c : Nat) (m : Mach) (hlogic : (m.core c).pwr.logic ≠ .off)
    (hstopped : (m.core c).pwr.stopped = false) (hclocks : (m.core c).clocksRun m.cc = false)
    (hwake : (m.core c).pwr.flitWake = none) (hflit : (m.core c).flitWaits c = true) :
    coreWakeByFlitAt c m = m.onCore c fun k => k.wokenAt (m.cc + k.wakeTime - 1) := by
  unfold coreWakeByFlitAt
  exact Mach.when_pos _ _ _ (by simp [hlogic, hstopped, hclocks, hwake, hflit])

theorem emptyCoreBringupAt_off (c : Nat) (m : Mach) (hlogic : (m.core c).pwr.logic = .off)
    (hring : (m.field (fieldOf c)).ring = .on) (hserved : m.coreOut c = false) :
    emptyCoreBringupAt c m = m.onCore c fun k => { k with pwr := { k.pwr with
      logic := .on, gated := false, banks := .replicate 6 .on, iso := k.pwr.iso &&& 0x80,
      flitWake := if k.flitWaits c = true then some m.cc else none } } := by
  unfold emptyCoreBringupAt
  exact Mach.when_pos _ _ _ (by simp [hlogic, hring, hserved])

/-! ## Isolation -/

/-- Different powers of two added up: bit i is set where i is among them. -/
theorem sum_two_pow_filter (p : Nat → Bool) (n : Nat) :
    ((((List.range n).filter p).map fun i => 2 ^ i).sum < 2 ^ n) ∧
    ∀ i, i < n → (((List.range n).filter p).map fun i => 2 ^ i).sum.testBit i = p i := by
  induction n with
  | zero => exact ⟨by simp, fun i hi => absurd hi (Nat.not_lt_zero i)⟩
  | succ n ih =>
    obtain ⟨hlt, hbits⟩ := ih
    rw [List.range_succ, List.filter_append, List.map_append, List.sum_append]
    cases hp : p n with
    | false =>
      rw [List.filter_singleton, hp]
      refine ⟨by simpa using hlt.trans (Nat.pow_lt_pow_succ (by decide)), fun i hi => ?_⟩
      rcases Nat.lt_succ_iff_lt_or_eq.mp hi with hi | rfl
      · simpa using hbits i hi
      · simpa [hp] using Nat.testBit_lt_two_pow hlt
    | true =>
      rw [List.filter_singleton, hp]
      refine ⟨by simp only [cond_true, List.map_singleton, List.sum_singleton]; omega, fun i hi => ?_⟩
      simp only [cond_true, List.map_singleton, List.sum_singleton]
      rw [Nat.add_comm]
      rcases Nat.lt_succ_iff_lt_or_eq.mp hi with hi | rfl
      · rw [Nat.testBit_two_pow_add_gt hi, hbits i hi]
      · rw [Nat.testBit_two_pow_add_eq, Nat.testBit_lt_two_pow hlt, hp, Bool.not_false]

/-- Whether the domain of a bit of PWR_ISO is ON: CORE_LOGIC, the six banks, BANKCTL. -/
def Pwr.domainOn (w : Pwr) (i : Nat) : Bool :=
  if i = 0 then w.logic == .on else if i < 7 then vget w.banks (i - 1) == .on else w.bankctl == .on

/-- The isolation bits that a write releases. -/
def Pwr.released (w : Pwr) (v : BitVec 32) : BitVec 8 :=
  BitVec.ofNat 8 (((List.range 8).filter fun i => bitOf v.toNat i && w.domainOn i).map fun i => 2 ^ i).sum

theorem isoRelAt_eq (c : Nat) (v : BitVec 32) (m : Mach) :
    isoRelAt c v m = m.onCore c fun k => { k with pwr := { k.pwr with iso := k.pwr.iso &&& ~~~ k.pwr.released v } } := rfl

theorem Pwr.released_getLsbD (w : Pwr) (v : BitVec 32) (i : Fin 8) :
    (w.released v).getLsbD i = (v.getLsbD i && w.domainOn i) := by
  rw [Pwr.released, BitVec.getLsbD_ofNat, (sum_two_pow_filter _ 8).2 i i.isLt, bitOf_eq_testBit, decide_eq_true i.isLt,
    Bool.true_and]
  rfl

/-! ## The obligation -/

/-- Settles O14: the two rows that bring a core up, and the isolation bits of a core after a write. -/
theorem coresComeUpAndRelease : Obligations.CoresComeUpAndRelease := by
  unfold Obligations.CoresComeUpAndRelease
  refine ⟨⟨?flit, ?firmware⟩, ?release⟩
  case flit =>
    intro s c k hlogic hstopped hclocks hwake hflit
    refine ⟨_, exec_coreWakeByFlit c s, rfl, ?_⟩
    rw [State.to_m, coreWakeByFlitAt_waits c s.m hlogic hstopped hclocks hwake hflit, Mach.core_canon, Mach.core_onCore_self]
    refine ⟨?_, rfl, rfl, rfl, rfl, ?_⟩
    · rw [Core.canon_slots, Core.wokenAt_slots]
    · rw [Core.canon_router, Core.wokenAt_router]
  case firmware =>
    intro s c hlogic hring hserved
    rw [exec_emptyCoreBringup, emptyCoreBringupAt_off c s.m hlogic hring hserved]
  case release =>
    intro s c v
    refine ⟨_, exec_pwrIsoRelWrite c v s, rfl, ?_⟩
    rw [State.to_m, isoRelAt_eq, Mach.core_canon, Mach.core_onCore_self]
    refine ⟨fun i => ?_, rfl, rfl⟩
    show ((s.m.core c).pwr.iso &&& ~~~ (s.m.core c).pwr.released v).getLsbD i = _
    rw [BitVec.getLsbD_and, BitVec.getLsbD_not, Pwr.released_getLsbD, decide_eq_true i.isLt, Bool.true_and]
    rfl

end Sys2Proof.Machine
end

section
/-! PROOF. The start and a host memory out of canonical form (R382, log 5): what a row answers lists no byte 0, whatever the state
before lists. -/

namespace Sys2Proof.Machine

open Sys2Proof

theorem exec_rootPllLock (bistOk : Bool) (s : State) :
    exec (.rootPllLock bistOk) s = .next (s.to (rootPllLockAt bistOk s.m)) := rfl

/-- What every row answers of host memory is canonical. -/
theorem State.hostMem_to_wf (s : State) (m : Mach) : Memory.wf (s.to m).m.host.mem = true := memCanon_wf _

/-- A module at the end of stage 1 whose account of host memory lists a byte 0: no run reaches it, since a write of 0 lists
nothing (log 5). -/
def hostZeroListed : State := { pending := [], m := { host := { mem := [(0, 0)] }, boot := { stage := 1 } } }

/-- Refutes O50: a WC whose BIST fails leaves the host interface as it is listed, says the clause on ROOT_PLL_LOCK of every state;
where host memory is out of canonical form (`hostZeroListed`), the row answers it in canonical form. The clause lacks
`State.Inv`. -/
theorem not_startGoesThroughItsStages : ¬ Obligations.StartGoesThroughItsStages := by
  unfold Obligations.StartGoesThroughItsStages
  rintro ⟨-, hlock, -⟩
  obtain ⟨-, t, hexec, -, -, -, -, hhost⟩ := hlock hostZeroListed rfl rfl rfl
  have ht : t = hostZeroListed.to (rootPllLockAt false hostZeroListed.m) :=
    Host.Outcome.next.inj (hexec.symm.trans (exec_rootPllLock false hostZeroListed))
  have hlisted : t.m.host.mem = [(0, 0)] := congrArg HostIf.mem hhost
  have hwf : Memory.wf [(0, 0)] = true := by
    rw [← hlisted, ht]
    exact State.hostMem_to_wf _ _
  exact absurd hwf (by decide)

end Sys2Proof.Machine
end

section
/-! PROOF. What the repair of a core leaves of the cores and the floor plan: the reports and rates behind it touch neither, and an
entry of the floor plan is what was put there last (R33, R44, R413, R417). -/

namespace Sys2Proof.Machine

open Sys2Proof

/-! ## Steps that touch neither a core nor the floor plan -/

/-- From m to m' every core, the floor plan and the substitution table stay. -/
structure Mach.PlanStands (m m' : Mach) : Prop where
  cores : m'.cores = m.cores
  wafer : m'.wafer = m.wafer

theorem Mach.PlanStands.refl (m : Mach) : Mach.PlanStands m m := ⟨rfl, rfl⟩

theorem Mach.PlanStands.trans {m m' m'' : Mach} (h : Mach.PlanStands m m') (h' : Mach.PlanStands m' m'') :
    Mach.PlanStands m m'' := ⟨h'.cores.trans h.cores, h'.wafer.trans h.wafer⟩

theorem Mach.PlanStands.foldl {β : Type} (f : Mach → β → Mach) (hf : ∀ m x, Mach.PlanStands m (f m x)) (l : List β)
    (m : Mach) : Mach.PlanStands m (l.foldl f m) := by
  induction l generalizing m with
  | nil => exact .refl m
  | cons x r ih => exact (hf m x).trans (ih _)

theorem Mach.PlanStands.core {m m' : Mach} (h : Mach.PlanStands m m') (c : Nat) : m'.core c = m.core c := by
  rw [Mach.core, h.cores, Mach.core]

theorem Mach.PlanStands.fpCore {m m' : Mach} (h : Mach.PlanStands m m') (c : Nat) : m'.fpCore c = m.fpCore c := by
  rw [Mach.fpCore, h.wafer, Mach.fpCore]

theorem Mach.raiseAll_stands (m : Mach) (fs : List Nat) (e : Cpl) : Mach.PlanStands m (m.raiseAll fs e) :=
  .foldl (fun m f => m.raise f e) (fun _ _ => ⟨rfl, rfl⟩) _ _

theorem Mach.onCtx_stands (m : Mach) (cid : Nat) (f : Ctx → Ctx) : Mach.PlanStands m (m.onCtx cid f) := by
  obtain ⟨x, h⟩ := m.onCtx_ctxs cid f
  exact h ▸ ⟨rfl, rfl⟩

theorem Mach.raiseOwner_stands (m : Mach) (cid : Nat) (e : Cpl) : Mach.PlanStands m (m.raiseOwner cid e) := by
  obtain ⟨x, h⟩ := m.raiseOwner_host cid e
  exact h ▸ ⟨rfl, rfl⟩

theorem Mach.logRec_stands (m : Mach) (t f c : Nat) (d : Bytes) : Mach.PlanStands m (m.logRec t f c d) :=
  ⟨m.logRec_cores t f c d, m.logRec_wafer t f c d⟩

theorem Mach.logCount_stands (m : Mach) (off : Nat) : Mach.PlanStands m (m.logCount off) :=
  ⟨m.logCount_cores off, m.logCount_wafer off⟩

theorem Mach.fcEvent_stands (m : Mach) (f kind : Nat) : Mach.PlanStands m (m.fcEvent f kind) :=
  ⟨m.fcEvent_cores f kind, m.fcEvent_wafer f kind⟩

theorem Mach.setRates_stands (m : Mach) : Mach.PlanStands m m.setRates :=
  .foldl (fun m (e : Nat × Ctx) => m.setCtxRates e.1 e.2) (fun _ _ => ⟨rfl, rfl⟩) _ _

theorem Mach.suspend_stands (m : Mach) (cids : List Nat) (us : Nat) : Mach.PlanStands m (m.suspend cids us) :=
  .foldl _ (fun m c => m.onCtx_stands c _) _ _

theorem Mach.excludeDl_stands (m : Mach) (cids : List Nat) : Mach.PlanStands m (m.excludeDl cids) :=
  .foldl _ (fun m c => m.onCtx_stands c _) _ _

/-- Reports of a repair to the PFs and the owners of contexts. -/
theorem Mach.reports_stand (m : Mach) (cids : List Nat) (fs : Mach → Nat → List Nat) (e : Mach → Nat → Cpl) :
    Mach.PlanStands m (cids.foldl (fun m cid => m.raiseAll (fs m cid) (e m cid)) m) :=
  .foldl _ (fun m _ => m.raiseAll_stands _ _) _ _

/-! ## Entries of the floor plan -/

@[simp] theorem Mach.fpCore_setFp_self (m : Mach) (c : Nat) (e : FpCore) : (m.setFp c e).fpCore c = e := by
  simp [Mach.fpCore, Mach.setFp]

theorem Mach.fpCore_setFp_ne (m : Mach) (e : FpCore) {c d : Nat} (h : d ≠ c) : (m.setFp c e).fpCore d = m.fpCore d := by
  simp [Mach.fpCore, Mach.setFp, aget_aset_ne _ _ h]

@[simp] theorem Mach.fpCore_canon (m : Mach) (d : Nat) : m.canon.fpCore d = m.fpCore d := rfl

@[simp] theorem Mach.subst_setSubst_self (m : Mach) (i : Nat) (e : Subst) (h : i < 64) :
    vget (m.setSubst i e).wafer.subst i = e := vget_vset_self _ i e h

/-- A core whose entry is fenced or substituted is out of service. -/
theorem Mach.coreOut_of_state (m : Mach) (c : Nat) (h : 2 ≤ (m.fpCore c).state) : m.coreOut c = true := by
  simp [Mach.coreOut, h]

/-! ## The choice of a bench core -/

/-- The core that is chosen stands on the bench. -/
theorem Mach.chooseBench_bench (m : Mach) (c b : Nat) (anchors : Bool) (h : m.chooseBench c anchors = some b) :
    m.coreBench b = true := by
  have hb := (List.mem_filter.mp (pickBest_mem (closer c) (closer_eq_or c) _ b h)).2
  simp only [Bool.and_eq_true] at hb
  obtain ⟨⟨⟨hbench, -⟩, -⟩, -⟩ := hb
  exact hbench

theorem Mach.chooseBench_ne (m : Mach) (c b : Nat) (anchors : Bool) (hc : m.coreBench c = false)
    (h : m.chooseBench c anchors = some b) : b ≠ c := by
  rintro rfl
  exact absurd (m.chooseBench_bench _ _ _ h) (by simp [hc])

/-! ## Fences (R413) -/

/-- The entry of a core once it is fenced. -/
def FpCore.fenced (e : FpCore) (c reason : Nat) (pathLost routerLost : Bool) : FpCore :=
  { e with state := 2, alt := c, reason := BitVec.ofNat 4 reason, mem := if pathLost then 3 else e.mem,
           routerOk := e.routerOk && !routerLost }

/-- A fence puts its entry in place, and any entry that it changes besides is that of a bench core. -/
theorem Mach.fpCore_fenceCore (m : Mach) (c reason : Nat) (pathLost routerLost : Bool) (hc : m.coreBench c = false) :
    (m.fenceCore c reason pathLost routerLost).fpCore c = (m.fpCore c).fenced c reason pathLost routerLost := by
  unfold Mach.fenceCore
  extract_lets e bench keep m1 m2 m3
  have h3 : m3.fpCore c = (m.fpCore c).fenced c reason pathLost routerLost := Mach.fpCore_setFp_self _ _ _
  have hne : ∀ b, bench = some b → c ≠ b := by
    intro b hb
    refine (m.chooseBench_ne c b true hc ?_).symm
    by_cases he : e.state = 0
    · rwa [show bench = m.chooseBench c true from if_pos he] at hb
    · rw [show bench = none from if_neg he] at hb
      exact absurd hb (by simp)
  clear_value bench
  cases bench with
  | some b => exact (Mach.fpCore_setFp_ne _ _ (hne b rfl)).trans h3
  | none => exact h3

end Sys2Proof.Machine
end

section
/-! PROOF. The loss of a core and the end of a substitution (R39, R413, R417, R419). -/

namespace Sys2Proof.Machine

open Sys2Proof

theorem exec_lostCore (c : CoreIx) (reason : BitVec 4) (lost : CoreLoss) (s : State) :
    exec (.lostCore c reason lost) s = .next (s.to (lostCoreAt c reason.toNat lost.path lost.router s.m)) := rfl
theorem exec_substEntryInvalidate (i : Fin 64) (s : State) :
    exec (.substEntryInvalidate i) s = .next (s.to (substInvalidateAt i s.m)) := rfl

/-! ## The slots of a lost core -/

/-- A slot halted with CAUSE 6 by a halt that was imposed on it. -/
def Slot.Lost (v : Slot) : Prop := v.ctl.st = .halted ∧ v.ctl.cause = 6 ∧ v.ctl.imprecise = true

theorem forceHalt_live_lost (v : Slot) (h : v.ctl.st = .running ∨ v.ctl.st = .parked) : (forceHalt v 6).Lost := by
  rcases h with h | h
  · exact ⟨by simp [forceHalt, h, haltCtl], by simp [forceHalt, h, haltCtl], by simp [forceHalt, h, haltCtl]⟩
  · exact ⟨by simp [forceHalt, h, haltCtl], by simp [forceHalt, h, haltCtl], by simp [forceHalt, h, haltCtl]⟩

/-- A slot halted already only records MORE. -/
theorem forceHalt_lost (v : Slot) (h : v.Lost) : (forceHalt v 6).Lost := by
  obtain ⟨hst, hcause, himp⟩ := h
  exact ⟨by simp [forceHalt, hst], by simp [forceHalt, hst, hcause], by simp [forceHalt, hst, himp]⟩

theorem Mach.forceHaltAt_resetting (m : Mach) (c s cause : Nat) (h : m.resetting c s = true) : m.forceHaltAt c s cause = m :=
  if_pos h

/-- A halt that is imposed leaves the state of every context. -/
theorem Mach.ctxSt_faultEvent (m : Mach) (c s cause cid : Nat) :
    ((m.faultEvent c s cause).ctx cid).map (·.st) = (m.ctx cid).map (·.st) := by
  unfold Mach.faultEvent
  extract_lets d
  obtain ⟨h, hh⟩ := Mach.raiseOwner_host (m.onCtx d fun x =>
    { x with firstCause := if x.firstCause = 0 then BitVec.ofNat 6 cause else x.firstCause }) d (m.event 1 d (m.logical c) s cause 0)
  rw [hh]
  show ((m.onCtx d _).ctx cid).map (·.st) = _
  cases hd : m.ctx d with
  | none => rw [Mach.onCtx_none _ _ _ hd]
  | some x =>
    rw [Mach.onCtx_some _ _ _ _ hd]
    by_cases hcid : cid = d
    · rw [hcid, Mach.ctx_setCtx_self, hd]
      rfl
    · rw [Mach.ctx_setCtx_ne _ _ hcid]

theorem Mach.faultEvent_stands (m : Mach) (c s cause : Nat) : Mach.PlanStands m (m.faultEvent c s cause) :=
  (Mach.onCtx_stands _ _ _).trans (Mach.raiseOwner_stands _ _ _)

/-- A halt that is imposed on a slot is that slot's change, and what reports it. -/
theorem Mach.forceHaltAt_cases (m : Mach) (c s cause : Nat) (hr : m.resetting c s = false) :
    m.forceHaltAt c s cause = m.onSlot c s (fun v => forceHalt v cause) ∨
    m.forceHaltAt c s cause = (m.onSlot c s fun v => forceHalt v cause).faultEvent c s cause := by
  unfold Mach.forceHaltAt
  rw [hr, if_neg Bool.false_ne_true]
  extract_lets m'
  split
  case h_4 => exact .inr rfl
  all_goals exact .inl rfl

theorem Mach.ctxSt_forceHaltAt (m : Mach) (c s cause cid : Nat) :
    ((m.forceHaltAt c s cause).ctx cid).map (·.st) = (m.ctx cid).map (·.st) := by
  cases hr : m.resetting c s with
  | true => rw [m.forceHaltAt_resetting c s cause hr]
  | false =>
    rcases m.forceHaltAt_cases c s cause hr with h | h
    · rw [h]
      rfl
    · rw [h, Mach.ctxSt_faultEvent]
      rfl

theorem Mach.wafer_forceHaltAt (m : Mach) (c s cause : Nat) : (m.forceHaltAt c s cause).wafer = m.wafer := by
  cases hr : m.resetting c s with
  | true => rw [m.forceHaltAt_resetting c s cause hr]
  | false =>
    rcases m.forceHaltAt_cases c s cause hr with h | h
    · rw [h]
      rfl
    · rw [h, (Mach.faultEvent_stands _ c s cause).wafer]
      rfl

/-- A halt that is imposed on a slot leaves every other slot of the core. -/
theorem Mach.slot_forceHaltAt_ne (m : Mach) (c s cause : Nat) {i : Nat} (h : i ≠ s) :
    ((m.forceHaltAt c s cause).core c).slot i = (m.core c).slot i := by
  cases hr : m.resetting c s with
  | true => rw [m.forceHaltAt_resetting c s cause hr]
  | false => rw [Mach.core_forceHaltAt _ _ _ _ _ hr, Mach.onSlot_eq, Mach.core_onCore_self, Core.slot_onSlot_ne _ _ h]

theorem Mach.slot_forceHaltAt_self (m : Mach) (c s cause : Nat) (hs : s < 4) (hr : m.resetting c s = false) :
    ((m.forceHaltAt c s cause).core c).slot s = forceHalt ((m.core c).slot s) cause := by
  rw [Mach.core_forceHaltAt _ _ _ _ _ hr, Mach.onSlot_eq, Mach.core_onCore_self, Core.slot_onSlot_self _ _ _ hs]

/-- Whether a slot's faults are discarded is read from the slot and its context's state. -/
theorem Mach.resetting_congr (m m' : Mach) (c i : Nat) (hslot : (m'.core c).slot i = (m.core c).slot i)
    (hctx : ∀ cid, (m'.ctx cid).map (·.st) = (m.ctx cid).map (·.st)) : m'.resetting c i = m.resetting c i := by
  have hcid := hctx ((m.core c).slot i).ctl.cid.toNat
  unfold Mach.resetting
  rw [hslot]
  cases h' : m'.ctx ((m.core c).slot i).ctl.cid.toNat with
  | none =>
    cases h : m.ctx ((m.core c).slot i).ctl.cid.toNat with
    | none => rfl
    | some x => simp [h, h'] at hcid
  | some x' =>
    cases h : m.ctx ((m.core c).slot i).ctl.cid.toNat with
    | none => simp [h, h'] at hcid
    | some x =>
      have hst : x'.st = x.st := by simpa [h, h'] using hcid
      simp only [hst]

/-- A core with halts imposed on slots of it. -/
def Mach.haltSlots (m : Mach) (c : Nat) (l : List Nat) : Mach := l.foldl (fun m s => m.forceHaltAt c s 6) m

theorem Mach.wafer_haltSlots (m : Mach) (c : Nat) (l : List Nat) : (m.haltSlots c l).wafer = m.wafer := by
  induction l generalizing m with
  | nil => rfl
  | cons s r ih => exact (ih _).trans (m.wafer_forceHaltAt c s 6)

/-- A slot halted so stays so. -/
theorem Mach.haltSlots_lost (m : Mach) (c : Nat) (l : List Nat) (i : Nat) (hi : i < 4) (h : ((m.core c).slot i).Lost) :
    (((m.haltSlots c l).core c).slot i).Lost := by
  induction l generalizing m with
  | nil => exact h
  | cons s r ih =>
    refine ih (m.forceHaltAt c s 6) ?_
    by_cases hs : i = s
    · subst hs
      cases hr : m.resetting c i with
      | true => rwa [m.forceHaltAt_resetting c i 6 hr]
      | false => rw [m.slot_forceHaltAt_self c i 6 hi hr]; exact forceHalt_lost _ h
    · rwa [m.slot_forceHaltAt_ne c s 6 hs]

/-- A live slot among those named is halted, unless its context is being reset or destroyed. -/
theorem Mach.haltSlots_live (m : Mach) (c : Nat) (l : List Nat) (i : Nat) (hi : i < 4) (hl : i ∈ l)
    (hr : m.resetting c i = false) (hlive : ((m.core c).slot i).ctl.st = .running ∨ ((m.core c).slot i).ctl.st = .parked) :
    (((m.haltSlots c l).core c).slot i).Lost := by
  induction l generalizing m with
  | nil => exact absurd hl List.not_mem_nil
  | cons s r ih =>
    by_cases hs : i = s
    · subst hs
      refine Mach.haltSlots_lost _ c r i hi ?_
      rw [m.slot_forceHaltAt_self c i 6 hi hr]
      exact forceHalt_live_lost _ hlive
    · have hslot := m.slot_forceHaltAt_ne c s 6 hs
      refine ih (m.forceHaltAt c s 6) (List.mem_of_ne_of_mem hs hl) ?_ ?_
      · rw [Mach.resetting_congr m _ c i hslot (m.ctxSt_forceHaltAt c s 6), hr]
      · rwa [hslot]

/-! ## LOST_CORE -/

/-- What the loss of a core leaves: its slots' control as the halts left it, and its entry fenced. -/
theorem Mach.loseCore_parts (m : Mach) (c reason : Nat) (pathLost routerLost : Bool) (hc : m.coreBench c = false) :
    ((m.loseCore c reason pathLost routerLost).core c).slots =
      ((m.haltSlots c (List.range 4)).core c).slots.map (fun (v : Slot) => ({ ctl := v.ctl } : Slot)) ∧
    (m.loseCore c reason pathLost routerLost).fpCore c =
      (m.fpCore c).fenced c (if pathLost then 5 else reason) pathLost routerLost := by
  unfold Mach.loseCore
  extract_lets idx cids m1 end_ cmds m2 ctls m3 m4 m5 m6
  have hstand := ((m5.logRec_stands _ _ _ _).trans (Mach.logCount_stands _ _)).trans
    (m6.reports_stand cids (fun m cid => (m.ctx cid).toList.map (fun x => x.owner) ++ pfs) (fun m cid => m.event 7 cid idx 0 1 0))
  refine ⟨?_, ?_⟩
  · rw [hstand.core, Mach.core_onCore_self]
    rfl
  · have hfp : m3.fpCore c = m.fpCore c := by
      show (aget m1.wafer.fp c).getD (factoryCore c) = _
      rw [show m1.wafer = m.wafer from m.wafer_haltSlots c _, Mach.fpCore]
    have hbench : m3.coreBench c = false := by
      rw [← hc, Mach.coreBench, Mach.coreBench, hfp]
    rw [hstand.fpCore]
    show m4.fpCore c = _
    rw [← hfp]
    exact m3.fpCore_fenceCore c _ pathLost routerLost hbench

theorem Mach.coreBench_of_enabled (m : Mach) (c : Nat) (h : m.coreEnabled c = true) : m.coreBench c = false := by
  simp only [Mach.coreEnabled, Bool.and_eq_true, beq_iff_eq] at h
  simp [Mach.coreBench, h.2]

theorem Mach.coreOut_of_enabled (m : Mach) (c : Nat) (h : m.coreEnabled c = true) : m.coreOut c = false := by
  simp only [Mach.coreEnabled, Bool.and_eq_true, beq_iff_eq, decide_eq_true_eq] at h
  simp [Mach.coreOut, h.1, h.2]

/-- A core with work whose memory path is lost is lost. -/
theorem lostCoreAt_path (m : Mach) (c reason : Nat) (routerLost : Bool) (hmay : m.mayRepair c = true) (hpos : 0 < reason)
    (hlt : reason < 7) (hon : m.coreEnabled c = true) (hwork : m.workAt (m.indexOf c) ≠ []) :
    lostCoreAt c reason true routerLost m = m.loseCore c reason true routerLost := by
  unfold lostCoreAt
  rw [Mach.when_pos _ _ _ (by simp [hmay, hpos, hlt, hon])]
  unfold Mach.failCore
  simp [m.coreOut_of_enabled c hon, m.coreBench_of_enabled c hon, hwork]

/-! ## SUBST_ENTRY_INVALIDATE -/

theorem substInvalidateAt_unused (m : Mach) (i : Nat) (e : Subst) (he : e = vget m.wafer.subst i) (hvalid : e.valid = true)
    (hdone : e.holding = false) (hnone : ∀ x ∈ m.ctxs, m.refersTo x.1 x.2 e.orig = false) :
    substInvalidateAt i m = ((((m.setSubst i {}).onCore e.stand fun k => { k with lindex := none }).setFp e.orig
      { m.fpCore e.orig with state := 2, alt := e.orig }).setFp e.stand { m.fpCore e.stand with alt := e.stand }) := by
  have hrefs : (m.ctxs.any fun x => m.refersTo x.1 x.2 e.orig) = false :=
    List.any_eq_false.mpr fun x hx => by simp [hnone x hx]
  unfold substInvalidateAt
  rw [Mach.when_pos _ _ _ (by rw [← he, hvalid, hdone, hrefs]; rfl), ← he]
  rfl

end Sys2Proof.Machine
end

section
/-! PROOF. Substitution with an intact memory path (R34, R35, R416): what the steps before the copy leave, and what the stand-in
holds after it. -/

namespace Sys2Proof.Machine

open Sys2Proof

theorem exec_substitution (c : CoreIx) (reason : BitVec 4) (s : State) :
    exec (.substitution c reason) s = .next (s.to (substitutionAt c reason.toNat s.m)) := rfl

/-! ## Maps -/

theorem mem_aset {β : Type} (m : AMap β) (k : Nat) (v : β) (e : Nat × β) (h : e ∈ aset m k v) : e = (k, v) ∨ e ∈ m := by
  induction m with
  | nil => exact .inl (List.mem_singleton.mp h)
  | cons a r ih =>
    obtain ⟨k', v'⟩ := a
    unfold aset at h
    split at h
    · exact List.mem_cons.mp h
    · split at h
      · exact (List.mem_cons.mp h).imp_right (List.mem_cons_of_mem _)
      · rcases List.mem_cons.mp h with h | h
        · exact .inr (h ▸ List.mem_cons_self)
        · exact (ih h).imp_right (List.mem_cons_of_mem _)

theorem mem_of_aget_eq_some {β : Type} (m : AMap β) (k : Nat) (v : β) (h : aget m k = some v) : (k, v) ∈ m := by
  induction m with
  | nil => exact absurd h (by simp)
  | cons a r ih =>
    obtain ⟨k', v'⟩ := a
    rw [aget_cons] at h
    split at h
    case isTrue hk => exact List.mem_cons.mpr (.inl (by rw [hk, Option.some.inj h]))
    case isFalse => exact List.mem_cons_of_mem _ (ih h)

/-! ## The work of a core -/

/-- What of a core its work is kept in (R416): the registers of its slots, and its scratchpad. -/
def Core.work (k : Core) : Vector SlotArch 4 × Mem := (k.slots.map (fun v => v.arch), k.sram)

/-- What of a core decides whether flits for it are on their way and which of its banks are ON. -/
def Core.side (k : Core) : Vector Dom 6 × Router × List (List Flit) × List (Flit × List Flit) :=
  (k.pwr.banks, k.router, k.attach, k.ubWait)

theorem Core.work_setSlot (k : Core) (s : Nat) (v : Slot) (h : v.arch = (k.slot s).arch) : (k.setSlot s v).work = k.work := by
  refine Prod.ext (Vector.ext fun i hi => ?_) rfl
  show ((vset k.slots s v).map fun v => v.arch)[i] = (k.slots.map fun v => v.arch)[i]
  rw [Vector.getElem_map, Vector.getElem_map, vset, Vector.getElem_setIfInBounds]
  split
  case isTrue hs =>
    subst hs
    rw [h, Core.slot, vget, Vector.getElem?_eq_getElem hi, Option.getD_some]
  case isFalse => rfl

theorem Core.work_onSlot (k : Core) (s : Nat) (f : Slot → Slot) (h : ∀ v, (f v).arch = v.arch) : (k.onSlot s f).work = k.work :=
  k.work_setSlot s _ (h _)

theorem Core.side_onSlot (k : Core) (s : Nat) (f : Slot → Slot) : (k.onSlot s f).side = k.side := rfl

theorem Core.arch_of_work {k k' : Core} (h : k'.work = k.work) (j : Nat) (hj : j < 4) : (k'.slot j).arch = (k.slot j).arch := by
  have hmap : k'.slots.map (fun v => v.arch) = k.slots.map (fun v => v.arch) := congrArg (·.1) h
  rw [Core.slot, Core.slot, ← vget_map k'.slots (fun v => v.arch) hj, ← vget_map k.slots (fun v => v.arch) hj, hmap]

theorem quiesceSlot_arch (v : Slot) : (quiesceSlot v).arch = v.arch := by
  unfold quiesceSlot
  split <;> rfl

theorem Core.quiesceAll_work (k : Core) : k.quiesceAll.work = k.work := by
  unfold Core.quiesceAll
  simp only [List.foldl_cons, List.foldl_nil, Core.work_onSlot _ _ _ quiesceSlot_arch]

theorem Core.quiesceAll_side (k : Core) : k.quiesceAll.side = k.side := by
  unfold Core.quiesceAll
  simp only [List.foldl_cons, List.foldl_nil, Core.side_onSlot]

theorem Core.resumeSlot_work (k : Core) (cc s : Nat) : (resumeSlot cc k s).work = k.work := by
  unfold resumeSlot
  extract_lets v st now ctl run w w' k' eng
  have hw : w'.arch = v.arch := by
    show (if _ then _ else _ : Slot).arch = _
    split <;> rfl
  have hk : k'.work = k.work := k.work_setSlot s w' hw
  by_cases hst : v.ctl.st = .quiesced
  · rw [if_pos hst, apply_ite Core.work]
    exact (ite_self _).trans hk
  · rw [if_neg hst]

theorem Core.resumeSlots_work (l : List Nat) (cc : Nat) (k : Core) : (l.foldl (resumeSlot cc) k).work = k.work := by
  induction l generalizing k with
  | nil => rfl
  | cons s r ih => exact (ih _).trans (k.resumeSlot_work cc s)

/-! ## The steps before the copy -/

/-- Whether a flit of the mesh goes to core c or, as a multicast, to index idx. -/
def Flit.bound (c idx : Nat) (f : Flit) : Bool := !f.fw &&
  (if f.mc then mcCol f.target.toNat (coreX idx) && mcRow f.target.toNat (coreY idx) else waCore f.target.toNat == c)

/-- Whether a core holds a flit that a test picks, on its way to another one. -/
def Core.holdsFlit (k : Core) (tgt : Flit → Bool) : Bool :=
  (k.router.bufs.any fun b => b.2.any tgt) || (k.router.outs.any fun p => p.2.owed.any tgt) || k.router.urgQ.any tgt ||
    k.attach.any fun l => l.any tgt

theorem Mach.inFlightTo_eq (m : Mach) (c idx : Nat) : m.inFlightTo c idx =
    ((m.cores.any fun e => e.2.holdsFlit (Flit.bound c idx)) || !(m.core c).ubWait.isEmpty ||
      ((m.core c).router.lo.any fun e => e.1 != 2 && e.1 != 3 && !e.2.isEmpty)) := rfl

theorem Core.holdsFlit_congr {k k' : Core} (h : k'.side = k.side) (tgt : Flit → Bool) : k'.holdsFlit tgt = k.holdsFlit tgt := by
  simp only [Core.side, Prod.mk.injEq] at h
  obtain ⟨-, hrouter, hattach, -⟩ := h
  rw [Core.holdsFlit, Core.holdsFlit, hrouter, hattach]

/-- No listed core holds such a flit, so none does. -/
theorem Mach.holdsFlit_core (m : Mach) (tgt : Flit → Bool) (h : (m.cores.any fun e => e.2.holdsFlit tgt) = false) (d : Nat) :
    (m.core d).holdsFlit tgt = false := by
  unfold Mach.core
  cases hd : aget m.cores d with
  | none => rfl
  | some k => exact Bool.not_eq_true _ ▸ List.any_eq_false.mp h (d, k) (mem_of_aget_eq_some _ _ _ hd)

/-- From m to m' the work of every core, its banks and the floor plan stay, and no flit more is on its way to a core. -/
structure Mach.WorkStands (m m' : Mach) : Prop where
  wafer : m'.wafer = m.wafer
  work : ∀ d, (m'.core d).work = (m.core d).work
  side : ∀ d, (m'.core d).side = (m.core d).side
  quiet : ∀ c idx, m.inFlightTo c idx = false → m'.inFlightTo c idx = false

theorem Mach.WorkStands.refl (m : Mach) : Mach.WorkStands m m := ⟨rfl, fun _ => rfl, fun _ => rfl, fun _ _ h => h⟩

theorem Mach.WorkStands.trans {m m' m'' : Mach} (h : Mach.WorkStands m m') (h' : Mach.WorkStands m' m'') :
    Mach.WorkStands m m'' :=
  ⟨h'.wafer.trans h.wafer, fun d => (h'.work d).trans (h.work d), fun d => (h'.side d).trans (h.side d),
    fun c idx hq => h'.quiet c idx (h.quiet c idx hq)⟩

theorem Mach.WorkStands.foldl {β : Type} (f : Mach → β → Mach) (hf : ∀ m x, Mach.WorkStands m (f m x)) (l : List β)
    (m : Mach) : Mach.WorkStands m (l.foldl f m) := by
  induction l generalizing m with
  | nil => exact .refl m
  | cons x r ih => exact (hf m x).trans (ih _)

theorem Mach.WorkStands.onCore (m : Mach) (d : Nat) (f : Core → Core) (hwork : ∀ k, (f k).work = k.work)
    (hside : ∀ k, (f k).side = k.side) : Mach.WorkStands m (m.onCore d f) := by
  have hcore : ∀ c, ((m.onCore d f).core c).work = (m.core c).work ∧ ((m.onCore d f).core c).side = (m.core c).side := by
    intro c
    by_cases hc : c = d
    · rw [hc, Mach.core_onCore_self]
      exact ⟨hwork _, hside _⟩
    · rw [Mach.core_onCore_ne m f hc]
      exact ⟨rfl, rfl⟩
  refine ⟨rfl, fun c => (hcore c).1, fun c => (hcore c).2, fun c idx hq => ?_⟩
  have hc := (hcore c).2
  simp only [Core.side, Prod.mk.injEq] at hc
  obtain ⟨-, hrouter, -, hub⟩ := hc
  rw [Mach.inFlightTo_eq, Bool.or_eq_false_iff, Bool.or_eq_false_iff] at hq ⊢
  obtain ⟨⟨hheld, hwait⟩, hlo⟩ := hq
  refine ⟨⟨List.any_eq_false.mpr fun e he => ?_, by rw [hub, hwait]⟩, by rw [hrouter, hlo]⟩
  rcases mem_aset _ _ _ _ he with rfl | he
  · rw [Core.holdsFlit_congr (hside _), m.holdsFlit_core _ hheld d]
    exact Bool.false_ne_true
  · exact List.any_eq_false.mp hheld e he

theorem Mach.WorkStands.onSlot (m : Mach) (d s : Nat) (f : Slot → Slot) (hf : ∀ v, (f v).arch = v.arch) :
    Mach.WorkStands m (m.onSlot d s f) :=
  .onCore m d (fun k => k.onSlot s f) (fun k => k.work_onSlot s f hf) fun k => k.side_onSlot s f

/-- A core without the packets that a test picks. -/
def Core.dropPackets (k : Core) (lose : SenPkt → Bool) : Core :=
  { k with packets := k.packets.filter (fun p => !lose p), prep := k.prep.filter fun p => !lose p.1 }

/-- A slot that has lost a packet of a context, if it is of that context. -/
def Slot.losePacket (cid : BitVec 10) (v : Slot) : Slot :=
  if v.ctl.cid == cid then { v with ali := { v.ali with lost := inc64 v.ali.lost } } else v

theorem Mach.losePackets_eq (m : Mach) (c : Nat) (lose : SenPkt → Bool) : m.losePackets c lose =
    (((m.core c).packets ++ (m.core c).prep.map (·.1)).filter lose).foldl
      (fun m p => m.onSlot p.origin p.slot (Slot.losePacket p.cid)) (m.onCore c fun k => k.dropPackets lose) := rfl

theorem Slot.losePacket_arch (cid : BitVec 10) (v : Slot) : (v.losePacket cid).arch = v.arch := by
  unfold Slot.losePacket
  split <;> rfl

theorem Mach.losePackets_stands (m : Mach) (c : Nat) (lose : SenPkt → Bool) : Mach.WorkStands m (m.losePackets c lose) := by
  rw [m.losePackets_eq]
  exact (Mach.WorkStands.onCore m c (fun k => k.dropPackets lose) (fun _ => rfl) fun _ => rfl).trans
    (.foldl _ (fun m (p : SenPkt) => .onSlot m p.origin p.slot _ (Slot.losePacket_arch p.cid)) _ _)

theorem Mach.quiesceAll_stands (m : Mach) (c : Nat) : Mach.WorkStands m (m.onCore c Core.quiesceAll) :=
  .onCore m c _ Core.quiesceAll_work Core.quiesceAll_side

theorem Mach.wakeField_awake (m : Mach) (f : Nat) (h : (m.field f).sleep ≠ .committed) : m.wakeField f = m := if_neg h

/-! ## The copy -/

/-- With no bank OFF, power brought up loses no byte of the scratchpad. -/
theorem Core.powerUp_sram (k : Core) (start : Nat) (h : ∀ j, j < 6 → vget k.pwr.banks j ≠ .off) :
    (k.powerUp start).sram = k.sram := by
  have hnone : ((List.range 6).filter fun b => vget k.pwr.banks b == .off) = [] :=
    List.filter_eq_nil_iff.mpr fun j hj => by simpa using h j (List.mem_range.mp hj)
  unfold Core.powerUp
  simp only [hnone, List.foldl_nil]

theorem standIn_work (k old : Core) (cover : List (Nat × Nat)) (idx b cc : Nat)
    (h : ∀ j, j < 6 → vget k.pwr.banks j ≠ .off) : (standIn k old cover idx b cc).work = k.work :=
  Prod.ext rfl (k.powerUp_sram cc h)

theorem Mach.work_mapCores (m : Mach) (f : Nat → Core → Core) (d : Nat) (hf : ∀ c k, (f c k).work = k.work) :
    ((m.mapCores f).core d).work = (m.core d).work := by
  unfold Mach.core Mach.mapCores
  rw [aget_amap]
  cases aget m.cores d with
  | none => rfl
  | some k => exact hf d k

/-- Naming another core as the sender of what is on its way touches no core's work. -/
theorem Mach.work_resource (m : Mach) (c b d : Nat) : ((m.resource c b).core d).work = (m.core d).work := by
  unfold Mach.resource
  extract_lets sw fl core m'
  exact m.work_mapCores (fun _ k => core k) d fun _ _ => rfl

/-- The work of a core that passes to a bench core is what that core had, and the floor plan names the bench core for it. -/
theorem Mach.moveWork_parts (m : Mach) (c idx b i reason : Nat) (live : List Nat) (hbc : b ≠ c) (hi : i < 64)
    (hbanks : ∀ j, j < 6 → vget (m.core c).pwr.banks j ≠ .off) :
    vget (m.moveWork c idx b i reason live).wafer.subst i = { orig := idx, stand := b, valid := true } ∧
    ((m.moveWork c idx b i reason live).fpCore b).state = 0 ∧ 2 ≤ ((m.moveWork c idx b i reason live).fpCore c).state ∧
    ((m.moveWork c idx b i reason live).core b).work = (m.core c).work := by
  unfold Mach.moveWork
  extract_lets cids cover k m1 left m2 m3 old m4 m5 eb m6 ei m7 us m8 hit m9 m10
  have hstand : Mach.PlanStands m7
      (cids.foldl (fun m cid => m.raiseAll ((m.ctx cid).toList.map (fun x => x.owner) ++ pfs) (m.event 7 cid idx 0 0 b)) m10) :=
    (m7.fcEvent_stands _ _).trans <| (m8.setRates_stands.trans <| (Mach.suspend_stands _ hit us).trans <|
      Mach.excludeDl_stands _ hit).trans <| (m9.logRec_stands _ _ _ _).trans <| (Mach.logCount_stands _ _).trans <|
      m10.reports_stand cids _ _
  have hb : (m6.fpCore b).state = 0 := by rw [Mach.fpCore_setFp_self]
  have hplan : m7.wafer.subst = m5.wafer.subst ∧ (m7.fpCore b).state = 0 ∧ 2 ≤ (m7.fpCore c).state ∧ m7.cores = m4.cores := by
    by_cases hidx : idx = c
    · have h7 : m7 = _ := if_pos hidx
      rw [h7, Mach.fpCore_setFp_self, Mach.fpCore_setFp_ne _ _ hbc]
      exact ⟨rfl, hb, Nat.le_succ 2, rfl⟩
    · have h7 : m7 = _ := if_neg hidx
      rw [h7, Mach.fpCore_setFp_ne _ _ (Ne.symm hidx), Mach.fpCore_setFp_self]
      refine ⟨rfl, ?_, le_rfl, rfl⟩
      by_cases hbi : b = idx
      · rw [hbi, Mach.fpCore_setFp_self, ← hb, hbi]
      · rw [Mach.fpCore_setFp_ne _ _ hbi, Mach.fpCore_setFp_ne _ _ hbc, hb]
  obtain ⟨hsubst, hstandIn, hout, hcores⟩ := hplan
  rw [hstand.wafer, hstand.fpCore, hstand.fpCore, hstand.core]
  refine ⟨?_, hstandIn, hout, ?_⟩
  · rw [hsubst]
    exact Mach.subst_setSubst_self m4 i _ hi
  · calc (m7.core b).work = (m4.core b).work := by rw [Mach.core, hcores, Mach.core]
      _ = (m3.core b).work := by rw [Mach.core_onCore_ne m3 _ hbc]
      _ = (m2.core b).work := by rw [Mach.core_onCore_self]; exact Core.resumeSlots_work live _ _
      _ = (m1.core b).work := by rw [Mach.work_resource, Mach.core_onCore_ne m1 _ hbc]
      _ = k.work := by rw [Mach.core_setCore_self]; exact standIn_work k _ cover idx b _ hbanks

/-! ## SUBSTITUTION -/

theorem Mach.substSlot_lt (m : Mach) (idx i : Nat) (h : m.substSlot idx = some i) : i < 64 := by
  unfold Mach.substSlot at h
  split at h
  case h_1 j hj =>
    obtain rfl := Option.some.inj h
    simpa using (List.findIdx?_eq_some_iff_findIdx_eq.mp hj).1
  case h_2 => simpa using (List.findIdx?_eq_some_iff_findIdx_eq.mp h).1

/-- With both fields awake and nothing on its way to it, the core's work is copied as it stands. -/
theorem Mach.substitute_quiet (m : Mach) (c idx i b reason : Nat) (hquiet : m.inFlightTo c idx = false)
    (hc : (m.field (fieldOf c)).sleep ≠ .committed) (hb : (m.field (fieldOf b)).sleep ≠ .committed) :
    ∃ m' live, m.substitute c idx i b reason = m'.moveWork c idx b i reason live ∧ Mach.WorkStands m m' := by
  have hstands := (m.losePackets_stands c fun _ => true).trans (Mach.quiesceAll_stands _ c)
  unfold Mach.substitute
  simp only [m.wakeField_awake _ hc, m.wakeField_awake _ hb, hstands.quiet c idx hquiet, Bool.false_eq_true, if_false]
  exact ⟨_, _, rfl, hstands⟩

theorem Mach.substitute_parts (m : Mach) (c idx i b reason : Nat) (hbc : b ≠ c) (hi : i < 64)
    (hquiet : m.inFlightTo c idx = false) (hc : (m.field (fieldOf c)).sleep ≠ .committed)
    (hb : (m.field (fieldOf b)).sleep ≠ .committed) (hbanks : ∀ j, j < 6 → vget (m.core c).pwr.banks j ≠ .off) :
    vget (m.substitute c idx i b reason).wafer.subst i = { orig := idx, stand := b, valid := true } ∧
    ((m.substitute c idx i b reason).fpCore b).state = 0 ∧ 2 ≤ ((m.substitute c idx i b reason).fpCore c).state ∧
    ((m.substitute c idx i b reason).core b).work = (m.core c).work := by
  obtain ⟨m', live, heq, hstands⟩ := m.substitute_quiet c idx i b reason hquiet hc hb
  have hside : (m'.core c).pwr.banks = (m.core c).pwr.banks := congrArg (·.1) (hstands.side c)
  rw [heq, ← hstands.work c]
  exact m'.moveWork_parts c idx b i reason live hbc hi (by rwa [hside])

theorem substitutionAt_repairs (m : Mach) (c reason : Nat) (hmay : m.mayRepair c = true) (hpos : 0 < reason)
    (hlt : reason < 7) : substitutionAt c reason m = m.failCore c reason false := by
  unfold substitutionAt
  rw [Mach.when_pos _ _ _ (by simp [hmay, hpos, hlt])]

/-- A core without work is fenced (R413). -/
theorem Mach.failCore_idle (m : Mach) (c reason : Nat) (hout : m.coreOut c = false) (hwork : m.workAt (m.indexOf c) = [])
    (hown : m.coreBench c = true ∨ m.indexOf c = c) : m.failCore c reason false = m.fenceCore c reason false := by
  have hidle : (m.coreBench c || (m.indexOf c == c && (m.workAt (m.indexOf c)).isEmpty)) = true := by
    rw [hwork]
    simpa using hown
  unfold Mach.failCore
  simp only [hout, hidle, Bool.false_eq_true, if_false, if_true]

/-- The work of a failed core passes to the bench core chosen, unless another substitution runs in its field (R416, R418). -/
theorem Mach.failCore_substitutes (m : Mach) (c reason i b : Nat) (hout : m.coreOut c = false) (hbench : m.coreBench c = false)
    (hwork : m.workAt (m.indexOf c) ≠ []) (hanchor : isAnchor c = false) (hi : m.substSlot (m.indexOf c) = some i)
    (hb : m.chooseBench c false = some b) (hbusy : m.fieldBusy c = false) :
    m.failCore c reason false = m.substitute c (m.indexOf c) i b reason := by
  have hkeep : (m.coreBench c || (m.indexOf c == c && (m.workAt (m.indexOf c)).isEmpty)) = false := by simp [hbench, hwork]
  have hfinds : m.onlyLost c = false := by simp [Mach.onlyLost, hanchor, hb]
  unfold Mach.failCore
  simp only [hout, hkeep, hfinds, hi, hb, hbusy, Bool.false_eq_true, Bool.or_self, if_false]

end Sys2Proof.Machine
end

section
/-! PROOF. Substitutions and losses (R413, R416 to R419). -/

namespace Sys2Proof.Machine

open Sys2Proof

/-- Settles O53: a fence for a core without work, the copy of a core's work, the halts of a lost core, and the end of an unused
entry, each by its own lemma. -/
theorem substitutionsAndLosses : Obligations.SubstitutionsAndLosses := by
  unfold Obligations.SubstitutionsAndLosses
  refine ⟨fun s c reason => ?substitution, ?lost, ?unused⟩
  case substitution =>
    intro idx hmay hpos hlt hout
    refine ⟨fun hwork hown => ?_, fun i b hbench hwork hanchor hi hb hquiet hc hbf hbanks => ?_⟩
    · rw [exec_substitution, substitutionAt_repairs _ _ _ hmay hpos hlt, s.m.failCore_idle c _ hout hwork hown]
    · have hfree : s.m.fieldBusy c = false := by
        simp only [Mach.mayRepair, Bool.and_eq_true, Bool.not_eq_true'] at hmay
        exact hmay.2
      obtain ⟨hsubst, hstand, hgone, hcopied⟩ := s.m.substitute_parts c idx i b reason.toNat
        (s.m.chooseBench_ne c b false hbench hb) (s.m.substSlot_lt idx i hi) hquiet hc hbf hbanks
      rw [exec_substitution, substitutionAt_repairs _ _ _ hmay hpos hlt,
        s.m.failCore_substitutes c _ i b hout hbench hwork hanchor hi hb hfree]
      generalize s.m.substitute c idx i b reason.toNat = m' at hsubst hstand hgone hcopied ⊢
      refine ⟨_, rfl, rfl, hsubst, hstand, Mach.coreOut_of_state _ _ hgone, fun j hj => ?_, fun a => ?_⟩
      · rw [State.to_m, Mach.core_canon, Core.slot_canon]
        exact Core.arch_of_work hcopied j hj
      · rw [State.to_m, Mach.core_canon, Core.canon_sramByte]
        exact congrArg (fun w => memByte w.2 a) hcopied
  case lost =>
    intro s c reason hmay hpos hlt hon hwork lost
    obtain ⟨hslots, hfp⟩ := s.m.loseCore_parts c reason.toNat true lost (s.m.coreBench_of_enabled c hon)
    rw [exec_lostCore, lostCoreAt_path _ _ _ _ hmay hpos hlt hon hwork]
    generalize s.m.loseCore c reason.toNat true lost = m' at hslots hfp ⊢
    refine ⟨_, rfl, rfl, ?_⟩
    rw [State.to_m, Mach.fpCore_canon, hfp]
    refine ⟨rfl, rfl, rfl, rfl, fun i hi hr hlive => ?_⟩
    have hctl : ((m'.canon.core c).slot i).ctl = (((s.m.haltSlots c (List.range 4)).core c).slot i).ctl := by
      rw [Mach.core_canon, Core.slot_canon, Core.slot, hslots, vget_map _ _ hi, Core.slot]
    rw [hctl]
    exact s.m.haltSlots_live c (List.range 4) i hi (List.mem_range.mpr hi) hr hlive
  case unused =>
    intro s i e hvalid hdone hnone hne
    rw [exec_substEntryInvalidate, substInvalidateAt_unused s.m i e rfl hvalid hdone hnone]
    refine ⟨_, rfl, rfl, ?_⟩
    rw [State.to_m, Mach.fpCore_canon, Mach.fpCore_canon, Mach.fpCore_setFp_self, Mach.fpCore_setFp_ne _ _ hne,
      Mach.fpCore_setFp_self]
    exact ⟨Mach.subst_setSubst_self s.m i {} i.isLt, rfl, rfl, rfl, rfl⟩

end Sys2Proof.Machine
end
